-- ==== Sys2Proof/Word.lean ====
section
/-! DEFINITION. Word.lean: the bit-vector widths of the spec, the small closed sets of names that operands use,
the operand record every instruction carries, and the table type (a sorted list of key and value pairs). -/

namespace Sys2Proof

/-- A byte of memory (R4). -/
abbrev Byte := BitVec 8
/-- A 16-bit halfword of program text (R24). -/
abbrev Half := BitVec 16
/-- A 64-bit quantity: scalar values, addresses, state registers. -/
abbrev Word := BitVec 64
/-- The bits of one general register (R82). -/
abbrev Quad := BitVec 128
/-- A general register number g0 to g63 (R82); masks use its low three bits (R83). -/
abbrev RegNo := BitVec 6
/-- A CODE address (R24). -/
abbrev PcAddr := BitVec 56

/-- PX.MOD.SCP (R34). -/
inductive Scope | core | clu | dev | sys
  deriving DecidableEq, Repr, Inhabited

/-- Lane types of page 1, xop[1:0] (R33). -/
inductive VTy | i32 | u32 | f32
  deriving DecidableEq, Repr, Inhabited

/-- The six relations of VCMP (R117). -/
inductive Rel | eq | ne | lt | le | gt | ge
  deriving DecidableEq, Repr, Inhabited

/-- The operations of VRED and VSCAN (R119). -/
inductive RedOp | add | min | max | and | or | xor
  deriving DecidableEq, Repr, Inhabited

/-- The targets of VCVT (R120). -/
inductive CvtTo | i32 | u32 | f32 | i32t | bf16 | fp16 | e4m3 | e5m2 | e2m1 | xbf16 | xfp16 | xe4m3 | xe5m2 | xe2m1
  deriving DecidableEq, Repr, Inhabited

/-- The sparsity shapes N:M of xop[2:1] (R192). -/
inductive Shape | s24 | s28 | s48
  deriving DecidableEq, Repr, Inhabited

/-- Access sizes of LD, ST and STG (R173). -/
inductive Sz | b | h | w | d | q
  deriving DecidableEq, Repr, Inhabited

/-- AMO operations (R267). -/
inductive AmoOp | add | and | or | xor | min | max | minu | maxu | swap | fadd
  deriving DecidableEq, Repr, Inhabited

/-- Fence order bits (R271). -/
inductive FOrd | acq | rel | ar
  deriving DecidableEq, Repr, Inhabited

/-- The space a ranged fence names (R271). -/
inductive FSp | l | c | d
  deriving DecidableEq, Repr, Inhabited

/-- Directions of the neighbour links (R103). -/
inductive Dir | n | e | s | w
  deriving DecidableEq, Repr, Inhabited

/-- The trap causes of R78. -/
inductive Cause
  | ill | pfx | win | lease | empty | tag | bound | perm | abn | pxh | prom | lock | metad | coord | hndl | xlat | rap
  | pois | stk | wto | part | align | sys | brk | hang | priv | fab | grp
  deriving DecidableEq, Repr, Inhabited

/-- The code of a trap cause (R78). -/
def Cause.code : Cause → BitVec 8
  | .ill => 0x01 | .pfx => 0x02 | .win => 0x03 | .lease => 0x04 | .empty => 0x05 | .tag => 0x06 | .bound => 0x07
  | .perm => 0x08 | .abn => 0x09 | .pxh => 0x0A | .prom => 0x0C | .lock => 0x0D | .metad => 0x0E | .coord => 0x0F
  | .hndl => 0x10 | .xlat => 0x11 | .rap => 0x12 | .pois => 0x13 | .stk => 0x14 | .wto => 0x15 | .part => 0x16
  | .align => 0x17 | .sys => 0x18 | .brk => 0x19 | .hang => 0x1A | .priv => 0x1C | .fab => 0x1D | .grp => 0x1E

/-- The operands of one instruction after the register roles of R40 are resolved: `d` the destination, `a` and `b` the
base-word fields with their extensions, `c` the third register where the instruction names one in PX.REG.c, `l` the
window length class, `imm` the assembled immediate of R39 extended to 64 bits, and the PX.MOD fields (R34). A field the
instruction does not use is zero (WellFormed.lean). -/
structure Ops where
  d : RegNo := 0
  a : RegNo := 0
  b : RegNo := 0
  c : RegNo := 0
  l : BitVec 2 := 0
  imm : Word := 0
  msk : BitVec 3 := 0
  epa : Bool := false
  epb : Bool := false
  ru : Bool := false
  scp : Scope := .core
  near : Bool := false
  of : Bool := false
  deriving DecidableEq, Repr, Inhabited

/-- An image in the boot flash (R355): the bytes of its header, and its payload. -/
structure Image where
  head : List Byte := []
  payload : List Byte := []
  deriving DecidableEq, Repr, Inhabited

/-- What the flash and the setup data hold at a package reset, as far as the boot of R357 acts on it: the three images, the configuration
records, the vendor certificate over the identity key (R359), the root DCB with its address, the firewall windows, the level-0 table
addresses by process identifier, the owners of the process identifiers, whether training succeeds, the package number, and the clusters
whose spare has stood in since the manufacturing test (R16). -/
structure FlashImage where
  plug : Image := {}
  feather : Image := {}
  loader : Image := {}
  records : List Image := []
  cert : List Byte := []
  trained : Bool := true
  pkg : Nat := 0
  root : Nat := 0
  rootDcb : List Byte := []
  windows : List (Nat × Quad) := []
  tables : List (Nat × Nat) := []
  owners : List (Nat × Nat) := []
  spared : List Nat := []
  deriving DecidableEq, Repr, Inhabited

/-- A partition request to Plug (R333): to set up a partition (number, the address of its DCB, clusters, windows, process identifier with
its level-0 table, save area), to resize it, or to remove it. -/
inductive PartReq
  | create (part dcb : Nat) (clusters : List Nat) (windows : List (Nat × Quad)) (pid table save : Nat)
  | resize (part : Nat) (clusters : List Nat)
  | remove (part : Nat)
  deriving DecidableEq, Repr, Inhabited

/-- What reaches the home of a peer request (R372): a request of a peer package to this one, for a partition, with its generation, an atomic
with what its write-verify finds (R290), to a mirrored page with the package of the mirror (R387); the admission or refusal of this package's own request at the home of the
package `pkg`; and what the peers' own agents write there. -/
inductive PeerReq
  | load (pkg part gen phys len : Nat)
  | store (pkg part gen phys : Nat) (bytes : List Byte)
  | atomic (pkg part gen phys : Nat) (mirror : Option Nat) (dbl eccBad : Bool) (op : AmoOp) (val : Word)
  | cas (pkg part gen phys : Nat) (mirror : Option Nat) (dbl eccBad : Bool) (cmp val : Word)
  | stg (pkg part gen gid seq phys : Nat) (bytes : List Byte) (cut : Bool)
  | prepare (pkg gid port n recPkg recMirror recPhys : Nat)
  | publish (pkg gid port : Nat)
  | abort (pkg gid port : Nat)
  | ours (id pkg : Nat) (granted : Bool)
  | elsewhere (pkg phys : Nat) (bytes : List Byte)
  deriving DecidableEq, Repr, Inhabited

/-- A contribution of a member package to a reduction round (R389, R390), as the fabric delivers it. -/
structure RedContrib where
  op : Nat := 0
  nel : Nat := 1
  det : Bool := false
  elems : List (BitVec 32) := []
  deriving DecidableEq, Repr, Inhabited

/-- A table: values by key, kept in ascending key order by `Tab.put`. -/
abbrev Tab (V : Type) := List (Nat × V)

/-- The value at a key, or the default. -/
def Tab.get {V : Type} (d : V) : Tab V → Nat → V
  | [], _ => d
  | (k, v) :: t, n => if k = n then v else Tab.get d t n

/-- The value at a key, if it is listed. -/
def Tab.find {V : Type} : Tab V → Nat → Option V
  | [], _ => none
  | (k, v) :: t, n => if k = n then some v else Tab.find t n

/-- Writes the value at a key, in order. -/
def Tab.put {V : Type} : Tab V → Nat → V → Tab V
  | [], n, v => [(n, v)]
  | (k, u) :: t, n, v =>
    if n < k then (n, v) :: (k, u) :: t
    else if k = n then (n, v) :: t
    else (k, u) :: Tab.put t n v

/-- Removes a key. -/
def Tab.drop {V : Type} : Tab V → Nat → Tab V
  | [], _ => []
  | (k, u) :: t, n => if k = n then Tab.drop t n else (k, u) :: Tab.drop t n

/-- The keys are strictly rising. -/
def Tab.sorted {V : Type} : Tab V → Bool
  | [] => true
  | [_] => true
  | (k, _) :: (k', v') :: t => decide (k < k') && Tab.sorted ((k', v') :: t)

end Sys2Proof
end

