-- ==== Sys2Proof/Syntax.lean ====
section
/-! DEFINITION. Syntax.lean: one constructor for every row of the opcode table: the 221 instructions with their operands,
and the 110 events of the other agents of the package (core edges, cluster units, stations, slices, command processor, Plug, fabric),
whose arguments say which request in flight, which unit, or what the outside supplies. -/

namespace Sys2Proof


/-- The instructions of Nalyx (R45 to R47) and the events of the part. -/
inductive Instr where
  /-- Does nothing (R65). -/
  | nop
  /-- Joins engine work and copies, consumes and produces tokens, makes output stores visible and frees the context (R56). -/
  | fin
  /-- Pops the return stack into PC, refilling from the spill area, or acts as FIN when the stack is empty (R68). -/
  | ret
  /-- Resumes at TPC with the level in TSAV.PLV, single-stepping when SS is set (R75). -/
  | eret
  /-- Raises BRK with TVAL 0 (R65). -/
  | brk
  /-- Reloads the heartbeat counter from HBI (R58). -/
  | hb
  /-- Waits until the context's event bit is set, then clears it (R60). -/
  | wfe
  /-- Branches to a halfword displacement (R66). -/
  | b (o : Ops)
  /-- Pushes the next address and branches to a displacement (R66). -/
  | call (o : Ops)
  /-- Jumps to the address in a register after the alignment check (R67). -/
  | jr (o : Ops)
  /-- Pushes the next address and jumps to the address in a register (R67). -/
  | callr (o : Ops)
  /-- Branches when the register is zero (R66). -/
  | bz (o : Ops)
  /-- Branches when the register is non-zero (R66). -/
  | bnz (o : Ops)
  /-- Branches when the register is negative (R66). -/
  | bltz (o : Ops)
  /-- Branches when the register is non-negative (R66). -/
  | bgez (o : Ops)
  /-- Branches when any bit of the mask is set (R66). -/
  | many (o : Ops)
  /-- Branches when every bit of the mask is set (R66). -/
  | mall (o : Ops)
  /-- Writes a sign-extended immediate to a register (R97). -/
  | li (o : Ops)
  /-- Adds a signed immediate (R109). -/
  | addi (o : Ops)
  /-- Ands a signed immediate (R109). -/
  | andi (o : Ops)
  /-- Ors a signed immediate (R109). -/
  | ori (o : Ops)
  /-- Exclusive-ors a signed immediate (R109). -/
  | xori (o : Ops)
  /-- Shifts left by an immediate count (R109). -/
  | shli (o : Ops)
  /-- Shifts right logically by an immediate count (R109). -/
  | shri (o : Ops)
  /-- Shifts right arithmetically by an immediate count (R109). -/
  | srai (o : Ops)
  /-- Copies a window with its tags (R96). -/
  | mov (o : Ops)
  /-- 64-bit integer addition (R106). -/
  | add (o : Ops)
  /-- 64-bit integer subtraction (R106). -/
  | sub (o : Ops)
  /-- Bitwise and (R106). -/
  | andR (o : Ops)
  /-- Bitwise or (R106). -/
  | orR (o : Ops)
  /-- Bitwise exclusive or (R106). -/
  | xorR (o : Ops)
  /-- Shift left by a register count (R106). -/
  | shl (o : Ops)
  /-- Logical shift right by a register count (R106). -/
  | shr (o : Ops)
  /-- Arithmetic shift right by a register count (R106). -/
  | sra (o : Ops)
  /-- Low 64 bits of the product (R106). -/
  | mul (o : Ops)
  /-- High 64 bits of the signed product (R106). -/
  | mulh (o : Ops)
  /-- High 64 bits of the unsigned product (R106). -/
  | mulhu (o : Ops)
  /-- Signed division with fixed corner results (R107). -/
  | div (o : Ops)
  /-- Unsigned division with fixed corner results (R107). -/
  | divu (o : Ops)
  /-- Signed remainder (R107). -/
  | rem (o : Ops)
  /-- Unsigned remainder (R107). -/
  | remu (o : Ops)
  /-- Sets 1 when equal (R106). -/
  | seq (o : Ops)
  /-- Sets 1 when signed less (R106). -/
  | slt (o : Ops)
  /-- Sets 1 when unsigned less (R106). -/
  | sltu (o : Ops)
  /-- Signed minimum (R106). -/
  | minR (o : Ops)
  /-- Signed maximum (R106). -/
  | maxR (o : Ops)
  /-- Unsigned minimum (R106). -/
  | minu (o : Ops)
  /-- Unsigned maximum (R106). -/
  | maxu (o : Ops)
  /-- Counts leading zero bits (R106). -/
  | clz (o : Ops)
  /-- Counts one bits (R106). -/
  | popc (o : Ops)
  /-- Selects a or b by the destination's old value (R108). -/
  | sel (o : Ops)
  /-- Loads a zero-extended word through a LOCAL capability (R110). -/
  | ldw (o : Ops)
  /-- Loads a doubleword through a LOCAL capability (R110). -/
  | ldd (o : Ops)
  /-- Stores a word through a LOCAL capability (R110). -/
  | stw (o : Ops)
  /-- Stores a doubleword through a LOCAL capability (R110). -/
  | std (o : Ops)
  /-- Adds a register to a capability's cursor (R98). -/
  | cinc (o : Ops)
  /-- Adds an immediate to a capability's cursor (R98). -/
  | cinci (o : Ops)
  /-- Copies a capability's bits as DATA (R98). -/
  | cgeta (o : Ops)
  /-- Narrows a capability's bounds to cursor plus length (R98). -/
  | csetb (o : Ops)
  /-- Reduces a capability's permissions (R98). -/
  | cperm (o : Ops)
  /-- Reports a register's tag, presence, arming and recorded fault (R99). -/
  | tagof (o : Ops)
  /-- Reads a state register (R100). -/
  | srd (o : Ops)
  /-- Writes a state register by its field access codes (R100). -/
  | swr (o : Ops)
  /-- Raises SYS with the immediate as TVAL (R77). -/
  | trap (o : Ops)
  /-- Lane-wise add, wrapping, saturating or rounded (R115). -/
  | vadd (sat : Bool) (sc : Bool) (t : VTy) (o : Ops)
  /-- Lane-wise subtract (R115). -/
  | vsub (sat : Bool) (sc : Bool) (t : VTy) (o : Ops)
  /-- Lane-wise multiply, low, high or rounded (R115). -/
  | vmul (hi : Bool) (sc : Bool) (t : VTy) (o : Ops)
  /-- Lane-wise fused multiply-add or negated form (R115). -/
  | vfma (neg : Bool) (sc : Bool) (t : VTy) (o : Ops)
  /-- Lane-wise minimum (R115). -/
  | vmin (sc : Bool) (t : VTy) (o : Ops)
  /-- Lane-wise maximum (R115). -/
  | vmax (sc : Bool) (t : VTy) (o : Ops)
  /-- Lane-wise bitwise and (R114). -/
  | vand (sc : Bool) (t : VTy) (o : Ops)
  /-- Lane-wise bitwise or (R114). -/
  | vor (sc : Bool) (t : VTy) (o : Ops)
  /-- Lane-wise bitwise exclusive or (R114). -/
  | vxor (sc : Bool) (t : VTy) (o : Ops)
  /-- Lane-wise shift left (R115). -/
  | vshl (sc : Bool) (t : VTy) (o : Ops)
  /-- Lane-wise shift right, arithmetic for I, logical for U (R114). -/
  | vshr (sc : Bool) (t : VTy) (o : Ops)
  /-- Lane-wise absolute value (R115). -/
  | vabs (sc : Bool) (t : VTy) (o : Ops)
  /-- Lane-wise negation (R115). -/
  | vneg (sc : Bool) (t : VTy) (o : Ops)
  /-- Compares lanes and writes a mask (R117). -/
  | vcmp (r : Rel) (sc : Bool) (t : VTy) (o : Ops)
  /-- Selects each lane from a or b by the governing mask (R118). -/
  | vsel (t : VTy) (o : Ops)
  /-- Reduces active lanes in fixed order to one value (R119). -/
  | vred (op : RedOp) (t : VTy) (o : Ops)
  /-- Running reduction over active lanes (R119). -/
  | vscan (op : RedOp) (t : VTy) (o : Ops)
  /-- Broadcasts a scalar into active lanes (R118). -/
  | vbcast (t : VTy) (o : Ops)
  /-- Extracts one lane to a scalar (R118). -/
  | vext (t : VTy) (o : Ops)
  /-- Inserts a scalar into one lane (R118). -/
  | vins (t : VTy) (o : Ops)
  /-- Permutes lanes by index (R118). -/
  | vperm (t : VTy) (o : Ops)
  /-- Slides lanes up or down by a count (R118). -/
  | vslide (dn : Bool) (t : VTy) (o : Ops)
  /-- Converts each lane between formats (R120). -/
  | vcvt (cv : CvtTo) (sc : Bool) (t : VTy) (o : Ops)
  /-- Lane-wise division or remainder (R116). -/
  | vdiv (rem : Bool) (sc : Bool) (t : VTy) (o : Ops)
  /-- Lane-wise square root (R116). -/
  | vsqrt (sc : Bool) (o : Ops)
  /-- Lane-wise power of two (R116). -/
  | vexp2 (sc : Bool) (o : Ops)
  /-- Loads sixteen contiguous lanes, converting per bank format (R121). -/
  | vld (t : VTy) (o : Ops)
  /-- Stores sixteen contiguous lanes in ascending order (R121). -/
  | vst (t : VTy) (o : Ops)
  /-- Strided vector load (R121). -/
  | vlds (t : VTy) (o : Ops)
  /-- Strided vector store (R121). -/
  | vsts (t : VTy) (o : Ops)
  /-- Gathers lanes from per-lane offsets (R121). -/
  | vgth (t : VTy) (o : Ops)
  /-- Scatters lanes to per-lane offsets (R121). -/
  | vsct (t : VTy) (o : Ops)
  /-- Mask and (R123). -/
  | mand (o : Ops)
  /-- Mask or (R123). -/
  | mor (o : Ops)
  /-- Mask exclusive or (R123). -/
  | mxor (o : Ops)
  /-- Mask complement (R123). -/
  | mnot (o : Ops)
  /-- Counts mask bits into a register (R123). -/
  | mpopc (o : Ops)
  /-- Index of the lowest set mask bit, or 16 (R123). -/
  | mfirst (o : Ops)
  /-- Sets a mask from a register (R123). -/
  | mset (o : Ops)
  /-- Copies a mask into a register (R123). -/
  | mget (o : Ops)
  /-- Zeroes and types an accumulator set (R197). -/
  | mzero (n : Bool) (int : Bool)
  /-- Issues a tile multiply-accumulate into a set (R197). -/
  | mma (n : Bool) (o : Ops)
  /-- Issues a multiply-accumulate with a compressed A tile (R197). -/
  | mmas (n : Bool) (sh : Shape) (u8 : Bool) (o : Ops)
  /-- Drains a set into a bank, optionally clearing it (R198). -/
  | mdrn (n : Bool) (clr : Bool) (o : Ops)
  /-- Drains half a row of a set into registers (R198). -/
  | mdrnR (n : Bool) (clr : Bool) (o : Ops)
  /-- Loads a set from a tile and types it (R199). -/
  | mlda (n : Bool) (int : Bool) (o : Ops)
  /-- Prunes a dense tile by column norms into a compressed tile and metadata (R200). -/
  | cmpr (sh : Shape) (u8 : Bool) (o : Ops)
  /-- Expands a compressed tile into a dense tile (R201). -/
  | mxpd (sh : Shape) (u8 : Bool) (o : Ops)
  /-- Starts an engine program with a leased register window (R203). -/
  | fork (o : Ops)
  /-- Joins the context's engine work, ending leases and locks, or reports a suspension (R206). -/
  | rdv
  /-- Ends the engine program (R205). -/
  | endp
  /-- Engine-program decrement and branch (R205). -/
  | eloop (o : Ops)
  /-- Engine-program descriptor offset bump (R205). -/
  | ebump (o : Ops)
  /-- Enqueues a tile task from a 64-byte record (R244). -/
  | tqput (o : Ops)
  /-- Joins one tile task (R247). -/
  | tqwait (o : Ops)
  /-- Joins every unjoined task of the context (R247). -/
  | tqwaitAll (o : Ops)
  /-- Reads the engine status ENG (R207). -/
  | mstat (o : Ops)
  /-- Discards suspended and unstarted operations and the program (R206). -/
  | mstatAbort
  /-- Reads and replaces PRC from a register (R151). -/
  | pset (o : Ops)
  /-- Reads PRC and sets only the working length (R151). -/
  | psetW (o : Ops)
  /-- Varifloat addition (R152). -/
  | fvadd (o : Ops)
  /-- Varifloat subtraction (R152). -/
  | fvsub (o : Ops)
  /-- Varifloat multiplication (R152). -/
  | fvmul (o : Ops)
  /-- Varifloat fused multiply-add or negated form (R152). -/
  | fvfma (neg : Bool) (o : Ops)
  /-- Varifloat division (R152). -/
  | fvdiv (o : Ops)
  /-- Varifloat square root (R152). -/
  | fvsqrt (o : Ops)
  /-- Compares varifloat values exactly (R154). -/
  | fvcmp (o : Ops)
  /-- Converts a signed integer to varifloat (R155). -/
  | fvcvtFromi (o : Ops)
  /-- Converts an F32 value to varifloat (R155). -/
  | fvcvtFromf (o : Ops)
  /-- Converts varifloat to a saturated signed integer (R155). -/
  | fvcvtToi (o : Ops)
  /-- Converts varifloat to F32 (R155). -/
  | fvcvtTof (o : Ops)
  /-- Loads a self-sized varifloat and advances the cursor (R159). -/
  | fvld (o : Ops)
  /-- Loads an indexed varifloat of fixed length (R159). -/
  | fvldIx (o : Ops)
  /-- Stores a varifloat as held and advances the cursor (R159). -/
  | fvst (o : Ops)
  /-- Rounds and stores an indexed varifloat of fixed length (R159). -/
  | fvstIx (o : Ops)
  /-- Reads a value's significance count (R157). -/
  | fvsigGet (o : Ops)
  /-- Replaces a value's significance count (R157). -/
  | fvsigSet (o : Ops)
  /-- Rounds a varifloat to a given length (R156). -/
  | fvrnd (o : Ops)
  /-- Gives a value's memory size (R158). -/
  | fvlen (o : Ops)
  /-- Gives the memory size at the working length (R158). -/
  | fvlenW (o : Ops)
  /-- Opens a GEQ verdict against a threshold cell (R218). -/
  | vdopenGeq (o : Ops)
  /-- Opens a GEQ verdict against an immediate threshold (R218). -/
  | vdopenGeqImm (o : Ops)
  /-- Opens a POS verdict (R218). -/
  | vdopenPos (o : Ops)
  /-- Samples the threshold and processes one key bit-plane, abandoning lanes (R219). -/
  | vdps (o : Ops)
  /-- Writes the lanes' lower bounds (R220). -/
  | vdlow (o : Ops)
  /-- Writes the lanes' upper bounds (R220). -/
  | vdupr (o : Ops)
  /-- Writes exact scores or ABN lanes and closes the verdict (R221). -/
  | vdfin (o : Ops)
  /-- Masks lanes not of the ABN payload class (R222). -/
  | vdchkLive (o : Ops)
  /-- Masks lanes of the ABN payload class (R222). -/
  | vdchkAbn (o : Ops)
  /-- Raises a threshold cell to the maximum atomically and returns the old value (R223). -/
  | vtraise (o : Ops)
  /-- Loads 1 to 16 bytes through a capability (R173). -/
  | ld (sg : Bool) (z : Sz) (o : Ops)
  /-- Stores 1 to 16 bytes through a capability (R173). -/
  | st (z : Sz) (o : Ops)
  /-- Loads a granule with its capability tag (R174). -/
  | ldc (o : Ops)
  /-- Stores a capability as a tagged granule (R174). -/
  | stc (o : Ops)
  /-- Atomic read-modify-write at the chosen scope (R267). -/
  | amo (nr : Bool) (dbl : Bool) (op : AmoOp) (o : Ops)
  /-- Atomic compare-and-swap at the chosen scope (R268). -/
  | cas (dbl : Bool) (o : Ops)
  /-- Sends one message to a set of cores of the cluster and waits for acceptance (R235). -/
  | mapp (o : Ops)
  /-- Posts a pending receive from the inbox ring (R236). -/
  | mrecv (o : Ops)
  /-- Range fence with acquire, release or both at a scope (R272). -/
  | fnc (sp : FSp) (ord : FOrd) (o : Ops)
  /-- Fence that invalidates cached translations package-wide (R273). -/
  | fncInv (o : Ops)
  /-- Fence over every address at its scope (R274). -/
  | fnca (ord : FOrd) (o : Ops)
  /-- Issues a copy request and returns a promise ticket (R277). -/
  | cpy (o : Ops)
  /-- Issues a multicast copy to cores of the cluster (R277). -/
  | cpym (o : Ops)
  /-- Issues a fill-time expansion of a compressed tile (R277). -/
  | cpyx (sh : Shape) (u8 : Bool) (o : Ops)
  /-- Joins a copy request, raising PROM once past its promise (R279). -/
  | cwait (o : Ops)
  /-- Polls a copy request without waiting (R280). -/
  | cpoll (o : Ops)
  /-- Binds a field descriptor into a slot (R296). -/
  | sfldBind (o : Ops)
  /-- Unbinds a field slot (R296). -/
  | sfldDrop (o : Ops)
  /-- Creates a record at its owner and returns its handle (R305). -/
  | snew (o : Ops)
  /-- Deletes a record, leaving a tombstone (R309). -/
  | sdel (o : Ops)
  /-- Moves a record, hauling it to a new owner if needed (R306). -/
  | sput (o : Ops)
  /-- Posted record move without a status (R313). -/
  | sputNr (o : Ops)
  /-- Reads record bytes by handle into registers (R310). -/
  | sld (o : Ops)
  /-- Posted write of record payload bytes by handle (R311). -/
  | sst (o : Ops)
  /-- Gives the owner core of a position (R320). -/
  | sown (o : Ops)
  /-- Starts a box query, taking a stamp (R314). -/
  | sqbox (o : Ops)
  /-- Starts a radius query, taking a stamp (R314). -/
  | sqrad (o : Ops)
  /-- Takes the next result or end event of a query (R317). -/
  | sqtake (o : Ops)
  /-- Closes a query and frees its slot and ring (R318). -/
  | sqend (o : Ops)
  /-- Waits for posted spatial operations and reports a failure (R313). -/
  | shwait (o : Ops)
  /-- Counts local LIVE copies by axis-0 bucket (R320). -/
  | scount (o : Ops)
  /-- Finds the next local LIVE copy from a slot (R320). -/
  | sscan (o : Ops)
  /-- Waits until all path counts and HELD are zero, then reports a fabric failure (R380). -/
  | fncp
  /-- Reads outstanding counts per path and HELD (R382). -/
  | pcnt (o : Ops)
  /-- Reads packets sent per path since firing start (R382). -/
  | pcntIss (o : Ops)
  /-- Opens a group with a mirrored decision record (R397). -/
  | gopen (o : Ops)
  /-- Sends a group-tagged store to staging (R398). -/
  | stg (z : Sz) (o : Ops)
  /-- Prepares, decides and publishes or aborts a group (R401). -/
  | gcommit (o : Ops)
  /-- Aborts a group (R405). -/
  | gabort (o : Ops)
  /-- Reads a group's status (R406). -/
  | gstat (o : Ops)
  /-- Reserves an exclusive stream route to a core (R281). -/
  | sopen (o : Ops)
  /-- Sends a window as one message on the stream (R282). -/
  | ssend (o : Ops)
  /-- Sends the closing marker and releases the route (R283). -/
  | sclose (o : Ops)
  /-- Contributes to an in-switch reduction round (R389). -/
  | fred (o : Ops)
  /-- Joins a reduction and writes its status (R392). -/
  | fredw (o : Ops)
  /-- Sends a child firing to a core and waits for accept or bounce (R70). -/
  | spawn (o : Ops)
  /-- Enables route tags (R71). -/
  | ten (o : Ops)
  /-- Disables route tags (R71). -/
  | tdis (o : Ops)
  /-- Reads pending route tags (R71). -/
  | tpnd (o : Ops)
  /-- Defines an actor from an 80-byte descriptor (R72). -/
  | actdef (o : Ops)
  /-- Enables an actor (R73). -/
  | actctlEna (o : Ops)
  /-- Disables an actor (R73). -/
  | actctlDis (o : Ops)
  /-- Sets an actor's priority (R73). -/
  | actctlPri (o : Ops)
  /-- Returns an actor's status word (R73). -/
  | actctlStat (o : Ops)
  /-- Empties a disabled actor's rings (R73). -/
  | actctlFlush (o : Ops)
  /-- Sets the spawn FIFO priority (R73). -/
  | actctlSpri (o : Ops)
  /-- Writes a window into a neighbour's receive buffer (R103). -/
  | nbw (o : Ops)
  /-- Arms registers EMPTY for a neighbour write (R104). -/
  | nbarm (o : Ops)
  /-- Joins a phaser with a mode and combine op (R239). -/
  | phreg (o : Ops)
  /-- Leaves a phaser (R239). -/
  | phdrop (o : Ops)
  /-- Signals a phaser with a contribution, possibly one ahead (R239). -/
  | phsig (o : Ops)
  /-- Waits for a phase and returns its combined value (R239). -/
  | phwait (o : Ops)
  /-- Signals then waits on a phaser in one instruction (R239). -/
  | phadv (o : Ops)
  /-- Reads a wait-table entry (R249). -/
  | waittRead (o : Ops)
  /-- Arms or disarms the hang monitor (R249). -/
  | waittArm (o : Ops)
  /-- Enqueues a launch queue entry from a firing (R353). -/
  | lqput (o : Ops)
  /-- Cancels a launch by identifier (R354). -/
  | cancel (o : Ops)
  /-- The core starts a ready actor or spawned firing on the lowest free context (R54). -/
  | firingStart (cid : Nat)
  /-- A packet arrives at a core's edge for a route tag and is delivered, held or returned (R63). -/
  | routedPacketArrival (id : Nat)
  /-- A held packet is delivered once its tag is enabled and its FIFO or ring has room (R63). -/
  | heldPacketDelivery (cid : Nat) (tag : Nat)
  /-- The sender's cluster unit offers returned packets again when the edge frees a place (R63). -/
  | packetReoffer (cl : Nat) (cid : Nat) (tag : Nat)
  /-- The core drains a routed output ring as packets to the destination core (R52). -/
  | outputDrain (cid : Nat) (act : Nat) (out : Nat)
  /-- A spawn packet reaches the target, which accepts or bounces it (R70). -/
  | spawnArrival (id : Nat)
  /-- The spawn's accept or bounce reply reaches the spawner (R70). -/
  | spawnReply (id : Nat)
  /-- The heartbeat counter reaches zero; the core is fenced and fault messages sent (R58). -/
  | heartbeatMiss (g : Nat)
  /-- A blocked wait's WTO counter reaches zero and the instruction raises WTO (R59). -/
  | waitTimeout (g : Nat)
  /-- A buffered neighbour write lands in armed registers (R105). -/
  | neighbourWriteLand (cid : Nat) (dir : Dir)
  /-- A remote load reply writes its destination FULL or records a fault (R87). -/
  | loadReply (id : Nat)
  /-- A cluster access is performed at its home core's banks with its checks (R229). -/
  | remoteAccessAtHome (id : Nat)
  /-- The home acknowledges a posted cluster store or records a refusal (R231). -/
  | clusterStoreAck (id : Nat)
  /-- A posted DEVICE store is acknowledged or refused and recorded (R265). -/
  | deviceStoreAck (id : Nat)
  /-- A message is written into a free inbox slot and event bits set (R234). -/
  | inboxDelivery (id : Nat)
  /-- A pending receive takes the oldest matching slot into registers (R236). -/
  | mrecvDelivery (g : Nat)
  /-- The cluster unit takes one phaser request in arrival order (R238). -/
  | phaserRequest (id : Nat)
  /-- The cluster unit performs a CLU-scope atomic at the home bank and replies (R232). -/
  | clusterAtomicAtHome (id : Nat) (eccBad : Bool)
  /-- The cluster unit dispatches a ready task to a free engine (R245). -/
  | tileTaskDispatch (cl : Nat)
  /-- A tile task finishes its drain or fails, failing its dependants (R243). -/
  | tileTaskComplete (cl : Nat) (key : Nat)
  /-- The hang count reaches the armed limit and waiters raise HANG (R250). -/
  | hang (cl : Nat)
  /-- Resets a cluster: fences traffic, stops firings and zeroes state (R251). -/
  | clusterReset (cl : Nat)
  /-- A raised flag set arrives at CFU through the OR tree (R141). -/
  | flagUnionUpdate (cl : Nat)
  /-- A queued engine operation starts on its accumulator set (R186). -/
  | engineOpStart (cid : Nat) (set : Nat)
  /-- An engine operation completes, writing accumulators or drains and leases (R187). -/
  | engineOpComplete (cid : Nat) (set : Nat) (sumBad : Bool)
  /-- The engine fetches and issues the next engine-program instruction (R204). -/
  | engineProgramStep (g : Nat)
  /-- One row of a PEER operand is fetched into staging (R191). -/
  | peerRowFetch (cid : Nat) (set : Nat) (outcome : Nat)
  /-- A copy engine performs a queued request in ascending destination address (R278). -/
  | copyRequestPerform (g : Nat) (slot : Nat)
  /-- A copy request completes or fails and sets the event bit (R278). -/
  | copyComplete (g : Nat) (slot : Nat)
  /-- CYC passes a request's promise during CWAIT and PROM is raised once (R279). -/
  | promiseMiss (g : Nat)
  /-- SOPEN tries the route again when the blocking stream closes (R281). -/
  | streamRouteRetry (g : Nat)
  /-- A router on a stream's route is reset or fenced and the stream breaks (R284). -/
  | streamBreak (g : Nat)
  /-- A station translates a request by its cache or a page walk, or fails it with XLAT (R261). -/
  | translation (id : Nat)
  /-- A station sends requests held for a moving page to the new home in arrival order (R287). -/
  | heldRequestRelease (id : Nat)
  /-- Two eligible .NR atomic packets in one router queue merge (R270). -/
  | routerMerge (id1 : Nat) (id2 : Nat)
  /-- The home slice's atomic unit performs an atomic and replies (R269). -/
  | deviceAtomicAtHome (id : Nat) (eccBad : Bool)
  /-- A DEVICE load or store is performed at its home slice (R264). -/
  | deviceAccessAtHome (id : Nat)
  /-- An I/O-page access is performed at the application die (R263). -/
  | ioAccess (id : Nat) (ok : Bool) (data : Nat)
  /-- The scrubber corrects scratchpad words and tag bits every 100 ms (R178). -/
  | scratchpadScrub (cid : Nat)
  /-- The scrubber corrects every DRAM line every 10 s (R288). -/
  | dramScrub (die : Nat)
  /-- An owner holding a haul tombstone forwards a handle request (R301). -/
  | handleForward (id : Nat)
  /-- The handle directory resolves a request to an owner or fails it with HNDL (R301). -/
  | directoryResolve (id : Nat)
  /-- The field home takes a stamp and claims an active-query slot (R303). -/
  | queryTake (id : Nat)
  /-- The field home returns SWEEP and counts an unsettled reservation (R303). -/
  | sweepReservation (id : Nat)
  /-- A reservation settles once its operation has taken effect everywhere (R303). -/
  | reservationSettle (id : Nat)
  /-- The owner allocates a slot and installs a new record (R305). -/
  | recordCreateAtOwner (id : Nat)
  /-- The old owner marks a copy hauling and sends it to the new owner (R306). -/
  | haulSend (id : Nat)
  /-- The new owner installs the hauled copy and held writes are applied (R306). -/
  | haulInstall (id : Nat)
  /-- A FULL or lost new owner answers and the copy is unmarked (R306). -/
  | haulFail (id : Nat)
  /-- A handle write is applied at the owner or held during a haul (R307). -/
  | spatialWriteAtOwner (id : Nat)
  /-- A tombstone's slot is freed once no query slot pins it (R308). -/
  | tombstoneReclaim (cid : Nat) (slot : Nat)
  /-- After settlement, the query sends visits to the owners of touched leaves (R316). -/
  | queryVisitStart (g : Nat) (q : Nat)
  /-- A visited owner scans its pool, writes results and sends done (R316). -/
  | queryOwnerScan (id : Nat)
  /-- A result waiting at the requester's edge enters a freed ring entry (R316). -/
  | queryResultDelivery (g : Nat) (q : Nat)
  /-- A pending SQTAKE receives the next result or end event (R317). -/
  | queryEventDelivery (g : Nat)
  /-- A posted SST or SPUT.NR is acknowledged or records a failure (R313). -/
  | spatialPostedAck (id : Nat)
  /-- A doorbell write enqueues a 64-byte launch entry (R335). -/
  | qdoor (queue : Nat) (entry : Word)
  /-- A write asks to cancel a launch and sets QCRES (R354). -/
  | qcan (queue : Nat) (lid : Word)
  /-- Software advances the consumed-record count, freeing completion ring space (R345). -/
  | qch (queue : Nat) (head : Word)
  /-- A write to a queue control register without behaviour of its own (R335). -/
  | controlPageWrite (queue : Nat) (off : Nat) (val : Word) (feather : Bool)
  /-- The sorter applies cancellations and picks the first placeable launch (R337). -/
  | dispatchDecision
  /-- The command processor reads the image and places the launch on clusters (R343). -/
  | launchPlacement (lid : Nat)
  /-- CYC passes a launch's deadline and the miss is counted (R338). -/
  | deadlineMiss (lid : Nat)
  /-- A subtree's USED reaches its CTB and dispatch stops for it (R339). -/
  | ctbExhausted (dcb : Nat)
  /-- The sorter raises a pre-emption request to meet a tier reservation (R340). -/
  | preemptionRequest (part : Nat) (tier : Nat)
  /-- The context-save engine saves a launch's cluster state (R350). -/
  | contextSave (lid : Nat)
  /-- A save not complete within 5 ms resets the cluster (R342). -/
  | saveTimeout (lid : Nat)
  /-- A saved launch is restored on its original clusters (R351). -/
  | launchResume (lid : Nat)
  /-- A counter reports upward when every share below it is complete (R345). -/
  | shareComplete (lid : Nat) (cid : Nat)
  /-- The command processor writes the completion record and advances QCT (R347). -/
  | completionRecord (lid : Nat)
  /-- A fault message reaches the command processor and its fault domain is applied (R348). -/
  | faultMessageReceipt (id : Nat)
  /-- Each 1,200-clk window the ramp limiter delays issues or adds ballast (R352). -/
  | rampWindow (die : Nat) (used : Nat)
  /-- Package reset starts the Plug core and runs the boot sequence (R357). -/
  | packageReset (flash : FlashImage)
  /-- Plug returns a signed attestation report (R360). -/
  | attestationRequest (nonce : List Byte)
  /-- Plug checks and applies a mailbox partition request (R333). -/
  | partitionRequest (mgmt : Bool) (req : PartReq)
  /-- An access not covered by a window is refused and latched (R362). -/
  | firewallRefusal (agent : Nat) (addr : Word) (n : Nat) (part : Nat) (wr : Bool)
  /-- A cluster unit's periodic beat to the command processor (R365). -/
  | livenessBeat (cl : Nat)
  /-- Four missing beats declare a cluster failed and reset it (R365). -/
  | clusterFailed (cl : Nat) (own : Bool)
  /-- Feather misses its watchdog and Plug restarts it (R366). -/
  | featherWatchdogExpiry
  /-- The hardware watchdog on Plug resets the package (R364). -/
  | plugWatchdogExpiry
  /-- A flit CRC error is replayed or a lane spared (R364). -/
  | linkReplay (link : Nat) (lane : Bool)
  /-- A failed core is replaced by the cluster's spare (R16). -/
  | coreSpare (cid : Nat)
  /-- A second core failure retires the cluster and lowers NCLUP (R368). -/
  | clusterRetire (cl : Nat)
  /-- Plug marks a page failed when row spares run out (R367). -/
  | dramPageFail (page : Nat)
  /-- A home package admits or refuses a peer request under the firewall (R372). -/
  | peerIngress (req : PeerReq)
  /-- A peer reply or acknowledgement ends an outstanding access or is dropped on a stale generation (R375). -/
  | peerReply (id : Nat) (gen : Nat)
  /-- A peer access unanswered for 600,000 clk times out (R376). -/
  | fabricTimeout (id : Nat)
  /-- A lost package is marked in every peer table and its accesses end (R386). -/
  | peerLoss (pkg : Nat)
  /-- Plug clears a peer-table mark after readmission (R386). -/
  | peerReadmit (pkg : Nat)
  /-- A held OF store leaves once earlier peer stores are acknowledged or failed (R379). -/
  | ofStoreRelease (id : Nat)
  /-- A timed-out mirrored copy is sent again under a new generation (R387). -/
  | mirrorResend (id : Nat)
  /-- The home port's atomic unit performs a SYS atomic, mirroring if needed (R383). -/
  | sysAtomicAtHome (id : Nat) (eccBad : Bool)
  /-- A switch combines contributions of a round and sends a partial or result (R390). -/
  | reductionCombine (coll : Nat) (round : Nat) (member : Nat) (contrib : RedContrib)
  /-- A round incomplete after 200 µs ends as INCOMPLETE with a bitmap (R391). -/
  | reductionTimeout (coll : Nat) (round : Nat)
  /-- A reduction's answer reaches the contributor's destination (R392). -/
  | reductionAnswer (g : Nat) (slot : Nat)
  /-- A port stages or discards a group store and acknowledges it (R399). -/
  | stgReceive (id : Nat) (cut : Bool)
  /-- A destination answers READY with prepared locks, or FAIL (R402). -/
  | prepare (id : Nat)
  /-- A destination writes the staged stores and releases its locks (R402). -/
  | publish (id : Nat)
  /-- A destination discards the group's entries and releases locks (R402). -/
  | groupAbortAtPort (id : Nat)
  /-- GCOMMIT's 1 ms wait for answers ends and it tries ABORT (R401). -/
  | prepareAnswerTimeout (gid : Nat)
  /-- Missing publish acknowledgements after 1 ms leave the group draining (R401). -/
  | publishAckTimeout (gid : Nat)
  /-- A prepared destination resolves the group from its record after 2 ms (R403). -/
  | preparedLockTimeout (port : Nat) (gid : Nat)
  /-- A draining group is freed once every destination acknowledged or was lost (R401). -/
  | groupDrainEnd (gid : Nat)
  /-- A cluster reset completes: its cores leave the fence idle and the reset links resume with full allowances (R251). -/
  | clusterResetComplete (cl : Nat)
  /-- Feather's restart from its verified image completes and the work held for Feather resumes (R366). -/
  | featherRestartComplete
  /-- A slice-cache way is retired onto a spare; once the spares run out the slice bypasses its cache and Plug sets HEALTH.REPL (R367). -/
  | sliceCacheWayFail (slice : Nat)
  /-- System software, through Plug, enters a collective into the switches of every plane and into each member's collective table (R389). -/
  | collectiveSetup (coll : Nat) (members : List Nat) (self : Option Nat)
  /-- The serving owner copies the requested bytes of a LIVE record for an SLD in one step and replies (R310). -/
  | recordReadAtOwner (id : Nat)
  /-- The accept or refuse answers for a MAPP's copies reach the sender, which ends its wait and writes the accepted and refused masks (R235). -/
  | mappAcceptanceReply (id : Nat)
  /-- An entry sent by LQPUT reaches the command processor, which checks it, queues or refuses it, and replies with a status and identifier (R353). -/
  | lqputEntryArrival (id : Nat)
  deriving DecidableEq, Repr, Inhabited

/-- Whether a constructor is an event of another agent; the others are instructions of a context. -/
def Instr.isEvent : Instr → Bool
  | .firingStart .. | .routedPacketArrival .. | .heldPacketDelivery .. | .packetReoffer .. | .outputDrain .. | .spawnArrival .. => true
  | .spawnReply .. | .heartbeatMiss .. | .waitTimeout .. | .neighbourWriteLand .. | .loadReply .. | .remoteAccessAtHome .. => true
  | .clusterStoreAck .. | .deviceStoreAck .. | .inboxDelivery .. | .mrecvDelivery .. | .phaserRequest .. | .clusterAtomicAtHome .. => true
  | .tileTaskDispatch .. | .tileTaskComplete .. | .hang .. | .clusterReset .. | .flagUnionUpdate .. | .engineOpStart .. => true
  | .engineOpComplete .. | .engineProgramStep .. | .peerRowFetch .. | .copyRequestPerform .. | .copyComplete .. | .promiseMiss .. => true
  | .streamRouteRetry .. | .streamBreak .. | .translation .. | .heldRequestRelease .. | .routerMerge .. | .deviceAtomicAtHome .. => true
  | .deviceAccessAtHome .. | .ioAccess .. | .scratchpadScrub .. | .dramScrub .. | .handleForward .. | .directoryResolve .. => true
  | .queryTake .. | .sweepReservation .. | .reservationSettle .. | .recordCreateAtOwner .. | .haulSend .. | .haulInstall .. => true
  | .haulFail .. | .spatialWriteAtOwner .. | .tombstoneReclaim .. | .queryVisitStart .. | .queryOwnerScan .. | .queryResultDelivery .. => true
  | .queryEventDelivery .. | .spatialPostedAck .. | .qdoor .. | .qcan .. | .qch .. | .controlPageWrite .. => true
  | .dispatchDecision | .launchPlacement .. | .deadlineMiss .. | .ctbExhausted .. | .preemptionRequest .. | .contextSave .. => true
  | .saveTimeout .. | .launchResume .. | .shareComplete .. | .completionRecord .. | .faultMessageReceipt .. | .rampWindow .. => true
  | .packageReset .. | .attestationRequest .. | .partitionRequest .. | .firewallRefusal .. | .livenessBeat .. | .clusterFailed .. => true
  | .featherWatchdogExpiry | .plugWatchdogExpiry | .linkReplay .. | .coreSpare .. | .clusterRetire .. | .dramPageFail .. => true
  | .peerIngress .. | .peerReply .. | .fabricTimeout .. | .peerLoss .. | .peerReadmit .. | .ofStoreRelease .. => true
  | .mirrorResend .. | .sysAtomicAtHome .. | .reductionCombine .. | .reductionTimeout .. | .reductionAnswer .. | .stgReceive .. => true
  | .prepare .. | .publish .. | .groupAbortAtPort .. | .prepareAnswerTimeout .. | .publishAckTimeout .. | .preparedLockTimeout .. => true
  | .groupDrainEnd .. | .clusterResetComplete .. | .featherRestartComplete | .sliceCacheWayFail .. | .collectiveSetup .. | .recordReadAtOwner .. => true
  | .mappAcceptanceReply .. | .lqputEntryArrival .. => true
  | _ => false

end Sys2Proof
end

