-- ==== Sys2Proof/Config.lean ====
section
/-! DEFINITION. Config.lean: what an implementation fixes and the free values: constants with no body, so that no proof can
rest on a value of theirs. Each one is named in the assumption log. -/

namespace Sys2Proof

/-- The physical faults that a device can meet at any time (log 20): a residue mismatch that repeats, met by a context (R180); a parity
error in a register, mask or return-stack entry of a context (R181); an uncorrectable error in a scratchpad word or in the tag bit of a
granule (R179), or in a line of package DRAM or of a slice cache that holds it modified (R288); the failure of a row of the DRAM bank
that holds a page, which a spare row replaces while one is left (R367); an upset of an accumulator element (R208); and an uncorrectable error in the next write-verify of an atomic that a core performs in its own scratchpad (R176, R223). -/
inductive Physical
  | residue (g : Nat)
  | parity (g : Nat)
  | word (cid off : Nat)
  | tagBit (cid off : Nat)
  | line (phys : Nat)
  | row (page : Nat)
  | element (cid set index : Nat) (v : BitVec 32)
  | verify (cid : Nat)
  deriving DecidableEq, Repr, Inhabited

/-- What the agents of the application die and the command cores do to package DRAM (R329, R362): application cores (0), root-port
devices (1) and command cores (2), for a partition, at a root port; an application core's 8-byte load of a queue's control page (R329,
R335); Feather's signal to Plug's watchdog (R366); and what the other packages of a launch that spans packages have to do with this one's
part of it (R332, R409; log 26): the page that a package's placement gave to a page of a process identifier here, the admission of the
launch's partition to pages of this package that are named there, that a launch waits for the images of the other packages, and that they
are written. -/
inductive AgentReq
  | read (agent port part : Nat) (addr : Word) (n : Nat)
  | write (agent port part : Nat) (addr : Word) (bytes : List Byte)
  | page (queue off part : Nat)
  | signal
  | placed (pkg pid vpn ppn : Nat)
  | aperture (part first last : Nat)
  | block (lid : Word)
  | written (lid : Word)
  deriving DecidableEq, Repr, Inhabited

/-- Whose turn a step is: a hardware context runs, an event takes place, n clk pass, the oldest queued store of a context is performed
(R177), a physical fault occurs, or an agent outside the compute dies acts. -/
inductive Turn
  | ctx (g : Nat)
  | event (i : Instr)
  | tick (n : Nat)
  | drain (g : Nat)
  | fault (x : Physical)
  | agent (r : AgentReq)
  deriving DecidableEq, Repr, Inhabited

/-- The free schedule: what happens next when the agenda of the state is empty (log 1). -/
opaque Config.nextTurn : Nat → Turn
/-- Free natural numbers, one for each draw: a promise, an engine, a caching decision (log 2). -/
opaque Config.freeNat : Nat → Nat
/-- Free bits, one for each draw (log 2). -/
opaque Config.freeBit : Nat → Bool
/-- The actor with which the round-robin of a core starts, by CID: the spec does not say which (R54, log 8). -/
opaque Config.firstActor : Nat → Nat
/-- The router of a die at which its link to another die leaves: the spec says only that it is at the edge (R256, log 24). -/
opaque Config.dieExit : Nat → Nat → Nat
/-- The bank and layer of the stacked DRAM that hold a page, as a number: the spec does not give the interleaving (R367, log 34). -/
opaque Config.dramBank : Nat → Nat
/-- What the context-save engine leaves at a save area: bytes at offsets, in a layout that the spec does not give (R350, log 25). -/
opaque Config.saveImage : Nat → List (Nat × Byte)
/-- SHA3-256 (log 30). -/
opaque Config.sha3 : List Byte → List Byte
/-- The public and the private key of the ML-DSA-44 key pair that a seed gives (log 30). -/
opaque Config.publicKey : List Byte → List Byte
opaque Config.privateKey : List Byte → List Byte
/-- The ML-DSA-44 signature of a message under a private key (log 30). -/
opaque Config.sign : List Byte → List Byte → List Byte
/-- Whether a signature of a message verifies under a public key, by FIPS 204 ML-DSA-44 in its pure form (R356, log 30). -/
opaque Config.verify : List Byte → List Byte → List Byte → Bool
/-- The digest of the vendor key that the ROM holds (R356, log 30). -/
opaque Config.romDigest : List Byte
/-- A byte of the PUF (log 30). -/
opaque Config.puf : Nat → Byte

end Sys2Proof
end

