-- ==== Sys2Proof/Machine/Bits.lean ====
section
/-! DEFINITION. Bits.lean: bit-field, extension and byte-order helpers (R4, R9) used by the decoder and the meanings. -/

namespace Sys2Proof

/-- x[hi:lo] as a number (R4). -/
def fld {w : Nat} (x : BitVec w) (hi lo : Nat) : Nat := x.toNat / 2 ^ lo % 2 ^ (hi + 1 - lo)

/-- A single bit (R4). -/
def bitAt {w : Nat} (x : BitVec w) (i : Nat) : Bool := x.getLsbD i

/-- x with its field [hi:lo] replaced. -/
def setFld {w : Nat} (x : BitVec w) (hi lo : Nat) (v : Nat) : BitVec w :=
  BitVec.ofNat w (x.toNat - fld x hi lo * 2 ^ lo + v % 2 ^ (hi + 1 - lo) * 2 ^ lo)

/-- SignExtend of an n-bit value held in a number (R9), as an integer. -/
def sxNat (n v : Nat) : Int :=
  if n = 0 then 0 else if v % 2 ^ n < 2 ^ (n - 1) then (v % 2 ^ n : Nat) else ((v % 2 ^ n : Nat) : Int) - 2 ^ n

/-- The little-endian bytes of a number (R4). -/
def leBytes : Nat → Nat → List Byte
  | 0, _ => []
  | n + 1, v => BitVec.ofNat 8 v :: leBytes n (v / 256)

/-- The number a little-endian byte list stands for (R4). -/
def leVal : List Byte → Nat
  | [] => 0
  | b :: t => b.toNat + 256 * leVal t

/-- Sat of R9 on integers. -/
def satInt (x lo hi : Int) : Int := if x < lo then lo else if hi < x then hi else x

/-- The first element that satisfies a test, with its position. -/
def firstIdx {α : Type} (p : α → Bool) : List α → Nat → Option (Nat × α)
  | [], _ => none
  | x :: t, i => if p x then some (i, x) else firstIdx p t (i + 1)

end Sys2Proof
end

