-- ==== Sys2Proof/Machine/Flags.lean ====
section
/-! DEFINITION. Flags.lean: exact numbers, the six rounding modes, the binary formats, and the flags that rounding raises
(R124, R127 to R137). Every flag computation of F32 arithmetic, conversions, the matrix engine and varifloat rests on it. -/

namespace Sys2Proof

/-- A value: NaN (signalling or quiet), an infinity, a zero, or the non-zero real ± num / den × 2^ex with num, den > 0. -/
inductive Num
  | nan (sig : Bool)
  | inf (neg : Bool)
  | zero (neg : Bool)
  | fin (neg : Bool) (num den : Nat) (ex : Int)
  deriving DecidableEq, Repr, Inhabited

/-- Flag sets in the order of FCS[8:4] (R138): NX, UF, OF, DZ, NV. -/
abbrev Flags := BitVec 5
def fNX : Flags := 1
def fUF : Flags := 2
def fOF : Flags := 4
def fDZ : Flags := 8
def fNV : Flags := 16

/-- The sign of a value. -/
def Num.neg : Num → Bool
  | .nan _ => false
  | .inf n | .zero n | .fin n .. => n

/-- Whether it is a signalling NaN. -/
def Num.isSig : Num → Bool | .nan true => true | _ => false
/-- Whether it is a NaN. -/
def Num.isNan : Num → Bool | .nan _ => true | _ => false

/-- A signed fraction as a value; zero takes the sign given. -/
def Num.ofFrac (zeroNeg : Bool) (num : Int) (den : Nat) (ex : Int) : Num :=
  if num = 0 then .zero zeroNeg else .fin (decide (num < 0)) num.natAbs den ex

/-- An integer as a value. -/
def Num.ofInt (x : Int) : Num := Num.ofFrac false x 1 0

/-- floor(log2(num / den × 2^ex)) of a positive real. -/
def floorLog2 (num den : Nat) (ex : Int) : Int :=
  let k : Int := (Nat.log2 num : Int) - (Nat.log2 den : Int)
  -- num / den lies in (2^(k-1), 2^(k+1)); one comparison decides
  let ge : Bool := if 0 ≤ k then decide (den * 2 ^ k.toNat ≤ num) else decide (den ≤ num * 2 ^ (-k).toNat)
  (if ge then k else k - 1) + ex

/-- num / den × 2^ex divided by 2^q, as quotient and whether a remainder is left, with the comparison of twice the remainder
against the divisor (R135): (quotient, remainder = 0, less than half, exactly half). -/
def scaled (num den : Nat) (ex q : Int) : Nat × Bool × Bool × Bool :=
  let sh := ex - q
  let n := if 0 ≤ sh then num * 2 ^ sh.toNat else num
  let d := if 0 ≤ sh then den else den * 2 ^ (-sh).toNat
  (n / d, n % d == 0, decide (2 * (n % d) < d), 2 * (n % d) == d)

/-- Whether the magnitude is rounded up from the quotient, in one of the modes of R135 (`rm` below 6; ROD is handled apart). -/
def roundsUp (rm : Nat) (neg : Bool) (q : Nat) (exact below half : Bool) : Bool :=
  if exact then false
  else match rm with
    | 0 => if half then q % 2 == 1 else !below
    | 1 => false
    | 2 => !neg
    | 3 => neg
    | 4 => half || !below
    | _ => q % 2 == 0

/-- Rounds a positive real to a multiple of 2^u in a mode (R135): the multiple and whether it is exact. ROD sets the last bit of
an inexact truncation. -/
def roundAt (rm : Nat) (neg : Bool) (num den : Nat) (ex u : Int) : Nat × Bool :=
  let (q, exact, below, half) := scaled num den ex u
  (if roundsUp rm neg q exact below half then q + 1 else q, exact)

/-- RoundTo of R9: p fraction bits and unbounded exponent: the significand m (2^p ≤ m < 2^(p+1)), the exponent of its
leading bit, and whether the result is exact. -/
def roundTo (rm : Nat) (neg : Bool) (num den : Nat) (ex : Int) (p : Nat) : Nat × Int × Bool :=
  let e := floorLog2 num den ex
  let (m, exact) := roundAt rm neg num den ex (e - p)
  if 2 ^ (p + 1) ≤ m then (m / 2, e + 1, exact) else (m, e, exact)

/-- A binary format (R128, R129): exponent bits, fraction bits, bias, the largest finite pattern without sign, whether it has
infinities, its quiet NaN (none: the format has no NaN), and the total width. -/
structure FFmt where
  ebits : Nat
  p : Nat
  bias : Nat
  maxPat : Nat
  hasInf : Bool
  qnan : Option Nat
  deriving DecidableEq, Repr, Inhabited

def FFmt.width (f : FFmt) : Nat := 1 + f.ebits + f.p
def fp32 : FFmt := { ebits := 8, p := 23, bias := 127, maxPat := 0x7F7FFFFF, hasInf := true, qnan := some 0x7FC00000 }
def fp16 : FFmt := { ebits := 5, p := 10, bias := 15, maxPat := 0x7BFF, hasInf := true, qnan := some 0x7E00 }
def bf16 : FFmt := { ebits := 8, p := 7, bias := 127, maxPat := 0x7F7F, hasInf := true, qnan := some 0x7FC0 }
def e4m3 : FFmt := { ebits := 4, p := 3, bias := 7, maxPat := 0x7E, hasInf := false, qnan := some 0x7F }
def e5m2 : FFmt := { ebits := 5, p := 2, bias := 15, maxPat := 0x7B, hasInf := true, qnan := some 0x7E }
def e2m1 : FFmt := { ebits := 2, p := 1, bias := 1, maxPat := 0x7, hasInf := false, qnan := none }

/-- The smallest normal exponent. -/
def FFmt.emin (f : FFmt) : Int := 1 - (f.bias : Int)

/-- The value of a bit pattern (R128, R129). -/
def FFmt.val (f : FFmt) (x : Nat) : Num :=
  let s := x / 2 ^ (f.ebits + f.p) % 2 == 1
  let e := x / 2 ^ f.p % 2 ^ f.ebits
  let m := x % 2 ^ f.p
  if f.hasInf ∧ e = 2 ^ f.ebits - 1 then
    if m = 0 then .inf s else .nan (decide (m < 2 ^ (f.p - 1)))
  else if f.qnan = some (x % 2 ^ (f.ebits + f.p)) then .nan false
  else if e = 0 then (if m = 0 then .zero s else .fin s m 1 (f.emin - f.p))
  else .fin s (2 ^ f.p + m) 1 ((e : Int) - f.bias - f.p)

/-- The pattern with a sign. -/
def FFmt.signed (f : FFmt) (neg : Bool) (x : Nat) : Nat := (if neg then 2 ^ (f.ebits + f.p) else 0) + x

/-- The infinity of a format; the largest finite value where it has none. -/
def FFmt.infPat (f : FFmt) (neg : Bool) : Nat := f.signed neg (if f.hasInf then (2 ^ f.ebits - 1) * 2 ^ f.p else f.maxPat)

/-- What overflow gives (R136 rule 5). -/
def FFmt.overflow (f : FFmt) (rm : Nat) (neg : Bool) : Nat :=
  let toInf := f.hasInf && (match rm with | 0 => true | 4 => true | 2 => !neg | 3 => neg | _ => false)
  if toInf then f.infPat neg else f.signed neg f.maxPat

/-- Convert of R136 and R137: the pattern and the flags. -/
def convert (f : FFmt) (rm : Nat) : Num → Nat × Flags
  | .nan sig => match f.qnan with
    | some q => (q, if sig then fNV else 0)
    | none => (0, fNV)
  | .inf neg => if f.hasInf then (f.infPat neg, 0) else (f.signed neg f.maxPat, fOF ||| fNX)
  | .zero neg => (f.signed neg 0, 0)
  | .fin neg num den ex =>
    let e := floorLog2 num den ex
    let u := (if e < f.emin then f.emin else e) - f.p
    let (m, exact) := roundAt rm neg num den ex u
    -- m × 2^u; as a pattern the significand carries into the exponent field
    let pat := if e < f.emin then m else ((e + f.bias).toNat - 1) * 2 ^ f.p + m
    if f.maxPat < pat then (f.overflow rm neg, fOF ||| fNX)
    else
      let (m', e', _) := roundTo rm neg num den ex f.p
      let tiny := decide (e' < f.emin) && m' != 0
      (f.signed neg pat, if exact then 0 else if tiny then fNX ||| fUF else fNX)

/-- Rounds to an integer in a mode and saturates to [lo, hi] (R120, R137, R155): NV on saturation and for NaN. -/
def toInteger (rm : Nat) (lo hi : Int) : Num → Int × Flags
  | .nan _ => (0, fNV)
  | .inf neg => (if neg then lo else hi, fNV)
  | .zero _ => (0, 0)
  | .fin neg num den ex =>
    let (m, exact) := roundAt rm neg num den ex 0
    let v : Int := if neg then -(m : Int) else m
    if v < lo then (lo, fNV) else if hi < v then (hi, fNV) else (v, if exact then 0 else fNX)

/-! ## Exact arithmetic -/

/-- The sign of an exact zero sum of operands of opposite sign (R136 rule 3). -/
def zeroSign (rm : Nat) : Bool := rm == 3

/-- A common scale for two fractions: both as integers over one denominator and one power of two. -/
def Num.addFin (rm : Nat) (n1 : Bool) (a1 b1 : Nat) (e1 : Int) (n2 : Bool) (a2 b2 : Nat) (e2 : Int) : Num :=
  let e := min e1 e2
  let x : Int := (if n1 then -1 else 1) * ((a1 * b2 * 2 ^ (e1 - e).toNat : Nat) : Int)
  let y : Int := (if n2 then -1 else 1) * ((a2 * b1 * 2 ^ (e2 - e).toNat : Nat) : Int)
  Num.ofFrac (zeroSign rm) (x + y) (b1 * b2) e

/-- x + y, exact, with the IEEE invalid case (R115, R153). -/
def Num.add (rm : Nat) (x y : Num) : Num × Flags :=
  match x, y with
  | .nan s, .nan t => (.nan false, if s || t then fNV else 0)
  | .nan s, _ => (.nan false, if s then fNV else 0)
  | _, .nan t => (.nan false, if t then fNV else 0)
  | .inf a, .inf b => if a = b then (.inf a, 0) else (.nan false, fNV)
  | .inf a, _ => (.inf a, 0)
  | _, .inf b => (.inf b, 0)
  | .zero a, .zero b => (.zero (if a = b then a else zeroSign rm), 0)
  | .zero _, .fin n a b e => (.fin n a b e, 0)
  | .fin n a b e, .zero _ => (.fin n a b e, 0)
  | .fin n a b e, .fin n' a' b' e' => (Num.addFin rm n a b e n' a' b' e', 0)

/-- −x. -/
def Num.flip : Num → Num
  | .nan s => .nan s
  | .inf n => .inf !n
  | .zero n => .zero !n
  | .fin n a b e => .fin (!n) a b e

/-- x − y, exact. -/
def Num.sub (rm : Nat) (x y : Num) : Num × Flags := Num.add rm x y.flip

/-- x × y, exact. -/
def Num.mul (x y : Num) : Num × Flags :=
  match x, y with
  | .nan s, .nan t => (.nan false, if s || t then fNV else 0)
  | .nan s, _ => (.nan false, if s then fNV else 0)
  | _, .nan t => (.nan false, if t then fNV else 0)
  | .inf _, .zero _ | .zero _, .inf _ => (.nan false, fNV)
  | .inf a, y => (.inf (a != y.neg), 0)
  | x, .inf b => (.inf (x.neg != b), 0)
  | .zero a, y => (.zero (a != y.neg), 0)
  | x, .zero b => (.zero (x.neg != b), 0)
  | .fin n a b e, .fin n' a' b' e' => (.fin (n != n') (a * a') (b * b') (e + e'), 0)

/-- x × y + z, exact; a signalling NaN anywhere, or an invalid product, sets NV. -/
def Num.fma (rm : Nat) (x y z : Num) : Num × Flags :=
  let (p, f) := Num.mul x y
  let (r, g) := Num.add rm p z
  (r, f ||| g)

/-- x / y, exact (R116, R153): a finite non-zero value over zero gives an infinity with DZ. -/
def Num.div (x y : Num) : Num × Flags :=
  match x, y with
  | .nan s, .nan t => (.nan false, if s || t then fNV else 0)
  | .nan s, _ => (.nan false, if s then fNV else 0)
  | _, .nan t => (.nan false, if t then fNV else 0)
  | .inf _, .inf _ | .zero _, .zero _ => (.nan false, fNV)
  | .inf a, y => (.inf (a != y.neg), 0)
  | x, .inf b => (.zero (x.neg != b), 0)
  | .fin n .., .zero b => (.inf (n != b), fDZ)
  | .zero a, y => (.zero (a != y.neg), 0)
  | .fin n a b e, .fin n' a' b' e' => (.fin (n != n') (a * b') (b * a') (e - e'), 0)

/-- Integer square root by bits: the largest r with r × r ≤ n, for n < 4^k. -/
def isqrt : Nat → Nat → Nat
  | 0, _ => 0
  | k + 1, n =>
    let r := 2 * isqrt k (n / 4)
    if (r + 1) * (r + 1) ≤ n then r + 1 else r

/-- √x to at least `bits` leading bits, with a last bit that says whether anything is left below, so that any later rounding to
fewer than `bits` − 2 bits is that of the exact root (R116, R152). -/
def Num.sqrt (bits : Nat) (x : Num) : Num × Flags :=
  match x with
  | .nan s => (.nan false, if s then fNV else 0)
  | .zero n => (.zero n, 0)
  | .inf false => (.inf false, 0)
  | .inf true => (.nan false, fNV)
  | .fin true .. => (.nan false, fNV)
  | .fin false a b e =>
    -- a / b × 2^e with b a power of two in every use: b = 1 after this scaling
    let k := 2 * (bits + Nat.log2 b + 2)
    let e' := if (e - k) % 2 = 0 then e - k else e - k - 1
    let n := a * 2 ^ (e - e').toNat
    let q := n / b
    let r := isqrt (Nat.log2 q + 1) q
    let exact := r * r == q && n % b == 0
    (.fin false (2 * r + (if exact then 0 else 1)) 1 (e' / 2 - 1), 0)

/-- The order of two values that are not NaN: −1, 0 or 1, with −0 = +0. -/
def Num.cmp (x y : Num) : Int :=
  match x, y with
  | .inf a, .inf b => if a = b then 0 else if a then -1 else 1
  | .inf a, _ => if a then -1 else 1
  | _, .inf b => if b then 1 else -1
  | .zero _, .zero _ => 0
  | x, y =>
    match (Num.sub 0 x y).1 with
    | .fin n .. => if n then -1 else 1
    | _ => 0

/-! ## F32 operations (R115, R116) -/

/-- The value of an F32 pattern. -/
def f32Val (x : BitVec 32) : Num := fp32.val x.toNat

/-- Rounds to F32 in a mode, with the flags of the exact step. -/
def toF32 (rm : Nat) (r : Num × Flags) : BitVec 32 × Flags :=
  let (x, f) := convert fp32 rm r.1
  (BitVec.ofNat 32 x, f ||| r.2)

/-- Whether a 32-bit pattern is of the ABN payload class (R134). -/
def isAbn (x : BitVec 32) : Bool := x.extractLsb' 16 16 == 0xFFBA

/-- F32 addition. -/
def f32Add (rm : Nat) (a b : BitVec 32) : BitVec 32 × Flags := toF32 rm (Num.add rm (f32Val a) (f32Val b))
/-- F32 subtraction. -/
def f32Sub (rm : Nat) (a b : BitVec 32) : BitVec 32 × Flags := toF32 rm (Num.sub rm (f32Val a) (f32Val b))
/-- F32 multiplication. -/
def f32Mul (rm : Nat) (a b : BitVec 32) : BitVec 32 × Flags := toF32 rm (Num.mul (f32Val a) (f32Val b))
/-- F32 fused multiply-add: d ± a × b, one rounding. -/
def f32Fma (rm : Nat) (neg : Bool) (d a b : BitVec 32) : BitVec 32 × Flags :=
  toF32 rm (Num.fma rm (if neg then (f32Val a).flip else f32Val a) (f32Val b) (f32Val d))
/-- F32 division. -/
def f32Div (rm : Nat) (a b : BitVec 32) : BitVec 32 × Flags := toF32 rm (Num.div (f32Val a) (f32Val b))
/-- F32 square root. -/
def f32Sqrt (rm : Nat) (a : BitVec 32) : BitVec 32 × Flags := toF32 rm (Num.sqrt 32 (f32Val a))

/-- F32 minimum and maximum (R115): a single NaN gives the other operand, −0 orders below +0. -/
def f32MinMax (max_ : Bool) (a b : BitVec 32) : BitVec 32 × Flags :=
  let x := f32Val a
  let y := f32Val b
  let nv := if x.isSig || y.isSig then fNV else 0
  if x.isNan && y.isNan then (0x7FC00000, nv)
  else if x.isNan then (b, nv)
  else if y.isNan then (a, nv)
  else
    let c := x.cmp y
    let aLess := decide (c < 0) || (c == 0 && x.neg && !y.neg)
    (if aLess != max_ then a else b, nv)

/-- A relation on F32 (R117). -/
def f32Rel (r : Rel) (a b : BitVec 32) : Bool × Flags :=
  let x := f32Val a
  let y := f32Val b
  let quietOnly := match r with | .eq | .ne => true | _ => false
  let nv := if x.isSig || y.isSig || ((x.isNan || y.isNan) && !quietOnly) then fNV else 0
  if x.isNan || y.isNan then (r == .ne, nv)
  else
    let c := x.cmp y
    (match r with
      | .eq => c == 0 | .ne => c != 0 | .lt => decide (c < 0) | .le => decide (c ≤ 0) | .gt => decide (0 < c) | .ge => decide (0 ≤ c), nv)

/-! ## 2^a (R116) -/

/-- Bounds of 2^(f / 2^240) × 2^240 for 0 ≤ f < 2^240, by squarings: `k` bits of f from the top are consumed, with 2^(2^-i) from
repeated square roots `r`, all in fixed point with 240 fraction bits: the lower bound, with an error below the count of steps. -/
def exp2Fix : Nat → Nat → Nat → Nat → Nat
  | 0, _, _, acc => acc
  | k + 1, f, r, acc =>
    -- r is 2^(2^-i) for the bit examined now
    let top := f / 2 ^ 239 % 2
    exp2Fix k (f * 2 % 2 ^ 240) (isqrt 242 (r * 2 ^ 240)) (if top = 1 then acc * r / 2 ^ 240 else acc)

/-- 2^a correctly rounded in a mode: exact for an integer; else a bound below 2^a, closer to it than 2^-229 of its size, is rounded: no F32
operand brings 2^a so near to a value at which the rounding changes (log 15). -/
def f32Exp2 (rm : Nat) (a : BitVec 32) : BitVec 32 × Flags :=
  match f32Val a with
  | .nan s => (0x7FC00000, if s then fNV else 0)
  | .inf true => (0, 0)
  | .inf false => (0x7F800000, 0)
  | .zero _ => (0x3F800000, 0)
  | .fin neg num _ ex =>
    if 16 ≤ floorLog2 num 1 ex then
      -- |a| is at least 2^16: far outside the range
      toF32 rm (.fin false 3 1 (if neg then -100000 else 100000), 0)
    else
      -- a as a fixed-point integer with 240 fraction bits: exact, since an F32 has ex at least -149
      let sgn : Int := if neg then -1 else 1
      let fix : Int := sgn * ((num * 2 ^ (ex + 240).toNat : Nat) : Int)
      let i := fix / 2 ^ 240
      let f := (fix % 2 ^ 240).toNat
      if f = 0 then toF32 rm (.fin false 1 1 i, 0)
      else
        let lo := exp2Fix 240 f (isqrt 242 (2 * 2 ^ 240 * 2 ^ 240)) (2 ^ 240)
        toF32 rm (.fin false (lo * 4 + 1) 1 (i - 242), 0)

end Sys2Proof
end

