-- ==== Sys2Proof/Machine/State.lean ====
section
/-! DEFINITION. State.lean: the machine as plain data: the registers and status of the contexts, the units of cores, clusters,
dies and the package, the memory of every home, what is in flight between them, and the state after reset. The tables list
the units that differ from their reset value. -/

namespace Sys2Proof.Machine

/-! ## Registers (R82 to R105) -/

/-- Register tags (R84). -/
inductive Tag | data | caph | capt | abn
  deriving DecidableEq, Repr, Inhabited

/-- The code of a tag (R84). -/
def Tag.code : Tag → Nat | .data => 0 | .caph => 1 | .capt => 2 | .abn => 3

/-- Presence states (R86). -/
inductive Pres | full | empty | leased
  deriving DecidableEq, Repr, Inhabited

/-- A recorded fault, or a recorded refusal: its cause and the value TVAL will take (R87, R231, R265, R378). -/
structure RFault where
  cause : Cause
  val : Word
  deriving DecidableEq, Repr, Inhabited

/-- One general register (R82, R86, R87, R104). With a recorded fault, `window` holds the places of the registers to which the same record is
attached: the destination of the one load. -/
structure GReg where
  bits : Quad := 0
  tag : Tag := .data
  pres : Pres := .full
  armed : Option Dir := none
  fault : Option RFault := none
  window : List Nat := []
  deriving DecidableEq, Repr, Inhabited

/-- The level of a context (R55, R74). -/
inductive Level | user | system
  deriving DecidableEq, Repr, Inhabited

/-- A blocked wait (R59) with its wait-table data (R248): what is left of WTO and the clk waited so far; `ilen` is the length
of the waiting instruction, `key` tells two waits of one instruction apart, and `met` holds once what was waited for has come. -/
structure Wait where
  kind : Nat
  obj : Nat
  key : Nat := 0
  met : Bool := false
  ilen : Nat
  since : Nat
  left : Nat
  waited : Nat
  deriving DecidableEq, Repr, Inhabited

/-- What a reply brings back to the instruction that waits for it: a failure or data. -/
structure Answer where
  fault : Option RFault := none
  data : Quad := 0
  bytes : List Byte := []
  deriving DecidableEq, Repr, Inhabited

/-- How far an instruction that takes several turns has come: its request has left, its reply is here, or it has done the
first k parts of its effect (`x` is what it must remember). -/
inductive Phase
  | idle
  | sent (id : Nat)
  | done (a : Answer)
  | part (k : Nat) (x : Nat)
  deriving DecidableEq, Repr, Inhabited

/-- Single step (R75): armed by ERET with SS, due once the one instruction has executed. -/
inductive Stepping | off | armed | due
  deriving DecidableEq, Repr, Inhabited

/-- A pending receive of MRECV (R236): the header register (0 for none), the first payload register, the tag mask. -/
structure Recv where
  hdr : Nat
  pay : Nat
  mask : Nat
  deriving DecidableEq, Repr, Inhabited

/-- How a remote load deposits its reply (R121, R159, R173, R174, R310). -/
inductive Deposit
  /-- LD: sign-extension from n bytes, or zero-extension. -/
  | raw (n : Nat) (sg : Bool)
  /-- LDC. -/
  | granule
  /-- One lane of a vector load. -/
  | lane
  /-- FVLD.IX of fraction length `len`, its bytes in one or two parts. -/
  | fvIx (len : Nat)
  /-- Stream FVLD: first the head, then the value, into a window of `w` registers that starts at register `dn`; `capk` is the
  place of the capability window, `va` the address of the head. -/
  | fvHead (w dn capk space : Nat) (va : Word)
  | fvBody
  /-- VDPS: the answer goes to the instruction itself, which waits for it. -/
  | answer (n : Nat)
  /-- SLD: n registers of record bytes. -/
  | record (n : Nat)
  deriving DecidableEq, Repr, Inhabited

/-- An outstanding load (R86, R122): its destination registers, the parts still out, what has come, and the fault with the
lowest part number. -/
structure Load where
  key : Nat
  dest : List Nat
  left : Nat
  how : Deposit
  got : Tab Nat := []
  flags : BitVec 5 := 0
  granTag : Bool := false
  fault : Option (Nat × RFault) := none
  deriving DecidableEq, Repr, Inhabited

/-! ## The store queue (R177) -/

/-- What a queued store writes: its bytes, a granule with its tag bit, or one lane that the format of its bank encodes. -/
inductive QKind | bytes | gran | lane (t : VTy) (v : BitVec 32)
  deriving DecidableEq, Repr, Inhabited

/-- A store to the own scratchpad that waits in the store queue of its context: launch, offset, and what it writes there. -/
structure QStore where
  lid : Word
  off : Nat
  kind : QKind := .bytes
  bytes : List Byte := []
  deriving DecidableEq, Repr, Inhabited

/-! ## Verdicts, engine programs, copies, streams (per context) -/

/-- The verdict state (R213): closed when `isOpen` is false. `src` is VDS.SRC, `cell` the space code and address of the
threshold cell, `imm` the immediate T. -/
structure Verdict where
  isOpen : Bool := false
  src : Nat := 0
  dim : Nat := 0
  query : List Int := []
  cell : Nat × Word := (0, 0)
  imm : Int := 0
  acc : List Int := []
  alive : BitVec 16 := 0
  planes : Nat := 0
  deriving DecidableEq, Repr, Inhabited

/-- The engine program of a context (R203 to R206): its program counter, lease window, and whether it has reached ENDP. -/
structure Prog where
  pc : PcAddr
  first : Nat
  count : Nat
  ended : Bool := false
  susp : Option RFault := none
  reported : Bool := false
  deriving DecidableEq, Repr, Inhabited

/-- The three copies (R277). -/
inductive CopyKind | cpy | cpym | cpyx (sh : Shape) (u8 : Bool)
  deriving DecidableEq, Repr, Inhabited

/-- A copy request slot of a context (R275 to R280); one that is not `queued` waits for room in its engine's queue, with its formats sampled
and its ranges locked: engine and place in its queue, promise, control word, destination and source
as space code and cursor, the bank formats sampled by core, how many bytes a raw copy has written, whether the engine has performed
the request, the CYC at which it completed, its flags and fault, whether PROM has been raised, and whether its firing has ended
(R76). -/
structure CopySlot where
  gen : Nat := 0
  held : Bool := false
  kind : CopyKind := .cpy
  key : Nat := 0
  lid : Word := 0
  pid : Nat := 0
  eng : Nat := 0
  order : Nat := 0
  promise : Word := 0
  ctl : Word := 0
  dst : Nat × Word := (0, 0)
  src : Nat × Word := (0, 0)
  bf : List (Nat × List Word) := []
  pos : Nat := 0
  perf : Bool := false
  doneAt : Option Word := none
  flags : BitVec 5 := 0
  fault : Option RFault := none
  reported : Bool := false
  orphan : Bool := false
  queued : Bool := true
  deriving DecidableEq, Repr, Inhabited

/-- A held stream (R281 to R284): target, tag, the number under which its links are held, messages sent, broken. -/
structure Stream where
  target : Nat
  tag : Nat
  key : Nat := 0
  count : Nat := 0
  broken : Bool := false
  deriving DecidableEq, Repr, Inhabited

/-- An active query of a context (R314 to R318): its field (number, descriptor, the location of SWEEP), stamp and active-query slot; the
region, axes and kind; the result ring; the owners it visits and those that have not sent done; what was withheld; the results that
wait at the edge with their bytes, the filled entries not yet taken, the entry that the last SQTAKE returned, the next entry to fill, and
how many results have been written to the ring. Once the query is being ended, `acks` are the owners that have not acknowledged the stop. -/
structure Query where
  fld : Nat
  desc : Word
  home : Nat
  stamp : Nat
  slot : Nat
  region : List (BitVec 32)
  radial : Bool
  axes : Nat
  ring : Nat
  nent : Nat
  size : Nat
  owners : List Nat
  started : Bool := false
  pending : List Nat := []
  withheld : Nat := 0
  edge : List (Word × List Byte) := []
  filled : List (Nat × Word) := []
  taken : Option Nat := none
  next : Nat := 0
  delivered : Nat := 0
  acks : Option (List Nat) := none
  deriving DecidableEq, Repr, Inhabited

/-- A reduction slot of a context (R389 to R392): the contribution, the offset of its destination with the key of its range lock,
and, once it has one, the answer: status, contributors and the bytes for the destination; `landed` once they are written. -/
structure RedSlot where
  gen : Nat := 0
  held : Bool := false
  coll : Nat := 0
  round : Nat := 0
  op : Nat := 0
  det : Bool := false
  elems : List (BitVec 32) := []
  dst : Nat := 0
  key : Nat := 0
  sent : Bool := false
  ans : Option (Nat × Nat × List Byte) := none
  landed : Bool := false
  orphan : Bool := false
  deriving DecidableEq, Repr, Inhabited

/-- One hardware context (R18, R55, R80): `regs` holds g0 to g63 at 0 to 63 and the system bank g56 to g63 at 64 to 71
(R82); the state registers are the words of R102 and of their chapters. `missed` tells that the heartbeat count has run out and its miss has
been told (R58). -/
structure Ctx where
  busy : Bool := false
  fire : Nat := 0
  floor : Nat := 0
  lid : Word := 0
  pid : BitVec 12 := 0
  actor : Nat := 0
  regs : Vector GReg 72 := Vector.replicate 72 {}
  masks : Vector (BitVec 16) 8 := Vector.replicate 8 0
  pc : PcAddr := 0
  level : Level := .user
  fcs : Word := 0
  prc : Word := 7
  hbi : Word := 1200000
  wto : Word := 0
  rsb : Word := 0
  tcause : Word := 0
  tval : Word := 0
  tpc : Word := 0
  tvec : Word := 0
  tsav : Word := 0
  ctlw : Word := 0
  rstack : List PcAddr := []
  sp : Word := 0
  hb : Nat := 0
  missed : Bool := false
  event : Bool := false
  wait : Option Wait := none
  phase : Phase := .idle
  stepping : Stepping := .off
  verdict : Verdict := {}
  recvs : List Recv := []
  loads : List Load := []
  clusterRef : Option RFault := none
  deviceRef : Option RFault := none
  fabricRef : Option RFault := none
  spFail : Option (Nat × Word) := none
  take : Option (Nat × Nat) := none
  prog : Option Prog := none
  copies : Tab CopySlot := []
  stream : Option Stream := none
  queries : Tab Query := []
  reds : Tab RedSlot := []
  issued : Vector (BitVec 16) 4 := Vector.replicate 4 0
  lastPath : Nat := 3
  storeq : List QStore := []
  deriving DecidableEq, Repr, Inhabited

/-! ## Cores -/

/-- A FIFO entry of an actor (R50): `size` is the token size in bytes, `bind` 0 unused, 1 local link, 2 routed. -/
structure Fifo where
  ring : Nat := 0
  cap : Nat := 0
  size : Nat := 0
  rate : Nat := 0
  tag : Nat := 0
  dst : Nat := 0
  bind : Nat := 0
  deriving DecidableEq, Repr, Inhabited

/-- A token ring, known by its offset (R51, R52): tokens in it, position of the oldest, how many of the oldest are packets
on their way, and how often the ring has been emptied (a packet of an earlier content frees no slot). -/
structure Ring where
  occ : Nat := 0
  head : Nat := 0
  flight : Nat := 0
  gen : Nat := 0
  deriving DecidableEq, Repr, Inhabited

/-- An actor-table entry (R49): inputs are fifos 0 to 3, outputs 4 to 7. `ctx` is the context of its firing. -/
structure Actor where
  entry : PcAddr := 0
  prio : Nat := 0
  en : Bool := false
  serial : Nat := 0
  ctx : Option Nat := none
  fifos : List Fifo := []
  deriving DecidableEq, Repr, Inhabited

/-- A packet for a route tag (R63, R234): its sender context, tag, payload registers (inbox messages and streams) or bytes
(tokens, fault messages), and what its acceptance answers: the ring of a routed output (core, ring offset, generation) or the request of
a MAPP. `msg` marks a message, which the inbox ring may take; `id` is the number under which a stream message left. -/
structure Packet where
  from_ : Nat
  fire : Nat := 0
  to_ : Nat
  tag : Nat
  msg : Bool := false
  regs : List Quad := []
  bytes : List Byte := []
  token : Option (Nat × Nat × Nat) := none
  id : Nat := 0
  reply : Option Nat := none
  deriving DecidableEq, Repr, Inhabited

/-- An accepted spawn in the spawn FIFO (R70). -/
structure SpawnReq where
  pc : PcAddr
  lid : Word
  args : List (Quad × Tag)
  deriving DecidableEq, Repr, Inhabited

/-- A range-lock entry (R170): `key` names the holding operation. -/
structure Lock where
  base : Nat
  len : Nat
  dst : Bool
  ctx : Nat
  src : Nat
  g : Nat
  key : Nat
  deriving DecidableEq, Repr, Inhabited

/-- The operations of the matrix engine (R196). -/
inductive EKind
  | mzero (int : Bool) | mma | mmas (sh : Shape) (u8 : Bool) | mdrn (clr : Bool) | mdrnR (clr : Bool) (sel : Nat) | mlda (int : Bool)
  | cmpr (sh : Shape) (u8 : Bool) | mxpd (sh : Shape) (u8 : Bool)
  deriving DecidableEq, Repr, Inhabited

/-- The row of a PEER operand that is being fetched (R191, R385): operand and row, the packets still out, what has come by piece, and the fault
of the lowest piece. -/
structure RowFetch where
  operand : Nat
  row : Nat
  left : Nat
  got : Tab Nat := []
  fault : Option (Nat × RFault) := none
  deriving DecidableEq, Repr, Inhabited

/-- A queued operation (R186, R206): the context and firing that issued it, the core of its engine, the process identifier and
launch it runs under, the descriptors of the operands in the order a, b, c (drains and loads use the first), the
metadata bits, the registers it has leased, the sampled bank formats of each descriptor, the next chunk of each element,
the staged rows of PEER operands with the one being fetched, and its suspension; `fin` once it has completed and is not yet joined. `task` is the tile task it belongs to. -/
structure EOp where
  id : Nat
  g : Nat
  fire : Nat := 0
  cid : Nat := 0
  pid : Nat := 0
  lid : Word := 0
  kind : EKind
  set : Nat
  descs : List Quad := []
  dregs : List Nat := []
  metaBits : Nat := 0
  metaLen : Nat := 0
  dest : Nat := 0
  destLen : Nat := 0
  leased : List Nat := []
  bf : List (List Word) := []
  mayRes : Bool := false
  started : Bool := false
  fin : Bool := false
  prog : Bool := false
  chunk : Nat := 0
  rows : List (Nat × Nat × List Byte) := []
  row : Nat := 0
  fetch : Option RowFetch := none
  susp : Option RFault := none
  reported : Bool := false
  task : Option Nat := none
  flags : BitVec 5 := 0
  deriving DecidableEq, Repr, Inhabited

/-- An accumulator set (R186): its type and 1,024 elements, row-major; an empty list stands for all zero. `upset` holds the elements that
differ from what was last written there (R208), with the value written: the checksums were formed from those. -/
structure AccSet where
  int : Bool := false
  elems : Tab (BitVec 32) := []
  upset : Tab (BitVec 32) := []
  deriving DecidableEq, Repr, Inhabited

/-- An upset of element i: it holds v, where the checksums stand for what was written (R208). -/
def AccSet.disturb (a : AccSet) (i : Nat) (v : BitVec 32) : AccSet :=
  { a with elems := a.elems.put i v, upset := if (a.upset.find i).isSome then a.upset else a.upset.put i (a.elems.get 0 i) }

/-- A neighbour write waiting in a receive buffer (R103, R105). -/
structure NbMsg where
  ctx : Nat
  first : Nat
  vals : List (Quad × Tag)
  deriving DecidableEq, Repr, Inhabited

/-- A bound field slot (R296, R297): the static bits of FSLOT, the descriptor's address and process identifier, the location of
SWEEP, the bounds of the owning axes, the directory's address and size, the tree, and the banks of this core that its leaves name. -/
structure FSlot where
  word : Word := 0
  desc : Word := 0
  pid : Nat := 0
  home : Nat := 0
  lo : List (BitVec 32) := []
  hi : List (BitVec 32) := []
  dir : Nat := 0
  dirk : Nat := 0
  nodes : List Quad := []
  banks : List Nat := []
  deriving DecidableEq, Repr, Inhabited

/-- The state of a copy in a pool slot (R299). -/
inductive PoolState | inbound | live | tomb
  deriving DecidableEq, Repr, Inhabited

/-- A used pool slot of the spatial unit (R299, R304, R307): the copy's state, handle and stamp interval, the owner a haul's tombstone
forwards to, the haul or deletion in progress, and the writes held for it in arrival order. -/
structure PoolSlot where
  st : PoolState
  handle : Word
  born : Nat := 0
  died : Nat := 0
  fwd : Option Nat := none
  busy : Option Nat := none
  queue : List Nat := []
  deriving DecidableEq, Repr, Inhabited

/-- One core (R54, R63, R101). -/
structure Core where
  tagsEn : BitVec 16 := 0
  edge : List Packet := []
  spawnFifo : List SpawnReq := []
  spawnSerial : Nat := 0
  spri : Nat := 4
  actors : Tab Actor := []
  rings : Tab Ring := []
  lastFired : Tab Nat := []
  ild : Word := 0
  inbox : List (Nat × Nat) := []
  arrivals : Nat := 0
  bfmt : Vector Word 16 := Vector.replicate 16 0
  locks : Vector (Option Lock) 16 := Vector.replicate 16 none
  sets : Vector AccSet 2 := Vector.replicate 2 {}
  equeue : List EOp := []
  path : Word := 0x0F
  fslots : Vector FSlot 4 := Vector.replicate 4 {}
  hcache : Tab Nat := []
  pool : Tab PoolSlot := []
  serials : Tab Nat := []
  links : Tab NbMsg := []
  fenced : Bool := false
  resetting : Bool := false
  lid : Word := 0
  verifyBad : Bool := false
  deriving DecidableEq, Repr, Inhabited

/-! ## Clusters and dies -/

/-- A phaser member (R237): context, mode (1 SIG, 2 WAIT, 3 SIGWAIT), whether it counts towards the open phase, its flag,
its mark w, the completed bit, whether w has been waited, and the value its phase gave. -/
structure Member where
  g : Nat
  mode : Nat
  counts : Bool
  flag : Bool := false
  mark : BitVec 32 := 0
  completed : Bool := false
  waited : Bool := false
  val : Word := 0
  deriving DecidableEq, Repr, Inhabited

/-- A phaser (R237): phase, op, owner launch, running combination, last combined value, members, held one-ahead signals. -/
structure Phaser where
  phase : BitVec 32 := 0
  op : Nat := 0
  lid : Word := 0
  run : Option Word := none
  last : Word := 0
  members : List Member := []
  held : List (Nat × Word) := []
  deriving DecidableEq, Repr, Inhabited

/-- How a tile task stands (R245, R246). -/
inductive TaskState | pending | running (cid : Nat) | done | failed (f : RFault)
  deriving DecidableEq, Repr, Inhabited

/-- A tile task (R243 to R247). -/
structure Task where
  key : Nat
  g : Nat
  fire : Nat
  lid : Word
  pid : Nat := 0
  id : Nat
  deps : List Nat
  bytes : List Byte
  st : TaskState := .pending
  flags : BitVec 5 := 0
  joined : Bool := false
  deriving DecidableEq, Repr, Inhabited

/-- A flag set on its way to CFU (R141): the core in the cluster, the flags, and the CYC at which they were raised. -/
structure FlagSet where
  core : Nat
  flags : BitVec 5
  born : Nat
  deriving DecidableEq, Repr, Inhabited

/-- A cluster unit (R140, R237 to R251, R16, R344, R365, R368); `came` holds the bits that arrived at CFU at a CYC, which a clearing write of
the same clk does not clear (R141). -/
structure Cluster where
  cfu : Word := 0
  flagsIn : List FlagSet := []
  came : Nat × Word := (0, 0)
  phasers : Tab Phaser := []
  tasks : List Task := []
  monLimit : Nat := 0
  hang : Nat := 0
  returned : List Packet := []
  rsid : BitVec 32 := 0
  beat : Nat := 0
  failed : Bool := false
  resetReq : Bool := false
  resetting : Bool := false
  spareUsed : Bool := false
  retired : Bool := false
  lid : Word := 0
  lastPart : Nat := 0
  lastUse : Nat := 0
  deriving DecidableEq, Repr, Inhabited

/-- A cached translation of a station (R259, R262): process identifier, first VPN of the leaf's span, leaf entry. -/
structure TlbEntry where
  pid : BitVec 12
  vpn : Nat
  leaf : Word
  deriving DecidableEq, Repr, Inhabited

/-- A compute die: station caches, ramp window (R352). -/
structure Die where
  tlb : List (Nat × TlbEntry) := []
  ramp : Nat := 0
  deriving DecidableEq, Repr, Inhabited

/-! ## Requests and messages in flight -/

/-- What an access does at its home. -/
inductive AccKind
  | load | loadPlane | loadGran | loadLane (t : VTy) | loadFv (max : Nat) | store | storeGran | storeLane (t : VTy)
  deriving DecidableEq, Repr, Inhabited

/-- How far a request in flight has come: waiting at the station, held there for a moving page (R287), translated to a local
home, to an I/O address or to a peer package, answered, or, of what is posted, lost: cut at a link by a cluster reset, so that no
acknowledgement comes (R252). -/
inductive Stage
  | new
  | held
  | home (phys : Nat)
  | io (phys : Nat)
  | peer (pkg : Nat) (mpkg : Option Nat) (phys : Nat)
  | answered (a : Answer)
  | lost
  deriving DecidableEq, Repr, Inhabited

/-- One piece of an access, performed as one single-copy atomic step (R122, R160, R175): its part number, address, length,
and the bytes to store. -/
structure Piece where
  part : Nat
  va : Word
  n : Nat
  bytes : List Byte := []
  deriving DecidableEq, Repr, Inhabited

/-- A load or store on its way to one home, within one 64-byte block (R229, R231, R264, R265, R373): the space code, the pieces
still to perform, how many it had, what has been read, and for a store the first refusal, for a load the faults by part.
`key` is the load it belongs to. For a peer's page, `todo` holds the pieces still to perform at each copy (R387), and `wrote` tells
that one copy is written. With `chain` it follows the request sent just before it (R160). A packet of a row of a PEER operand has the core of
the engine and the operation in `row` (R191, R385). -/
structure Acc where
  kind : AccKind
  space : Nat
  pieces : List Piece
  weight : Nat
  got : Tab Nat := []
  faults : List (Nat × RFault) := []
  flags : BitVec 5 := 0
  gtag : Bool := false
  sys : Bool := false
  key : Nat := 0
  ord : Bool := false
  todo : List (Nat × List Piece) := []
  wrote : Bool := false
  chain : Bool := false
  row : Option (Nat × Nat) := none
  deriving DecidableEq, Repr, Inhabited

/-- The atomics on their way (R232, R266, R268, R223). -/
inductive AtomKind | amo (op : AmoOp) | cas (cmp : Word) | raise
  deriving DecidableEq, Repr, Inhabited

/-- The issuer of a .NR atomic that was merged into another (R270): context, firing, launch, and the address it used. -/
structure Issuer where
  g : Nat
  fire : Nat
  lid : Word := 0
  va : Word := 0
  deriving DecidableEq, Repr, Inhabited

/-- An atomic on its way: scope, width, data, and whether it returns a value. `also` are the issuers of the .NR atomics merged into it
(R270). -/
structure Atom where
  kind : AtomKind
  space : Nat
  va : Word
  dbl : Bool
  val : Word
  nr : Bool
  scp : Scope
  det : Bool := false
  ord : Bool := false
  also : List Issuer := []
  deriving DecidableEq, Repr, Inhabited

/-! ## Groups, staging ports and reductions (package) -/

/-- How a group stands (R395, R401). -/
inductive GroupState | free | opened | committing | draining
  deriving DecidableEq, Repr, Inhabited

/-- How far the coordinator has come with a commit or abort (R401, R405): waiting for the acknowledgements of the group's stores, for those
of the context's stores, for the answers to PREPARE, for the CAS, for the acknowledgements of the outcome, or done with a result. -/
inductive GroupStep | gather | settle | prepared | deciding | telling | finished (result : Word) | lost
  deriving DecidableEq, Repr, Inhabited

/-- A group of this package (R395 to R407): generation of its index, owner with its launch, decision record (package, mirror, physical address, and
the owner's address of it), stores sent by destination (package × 32 + port), for those whose stores are all
to mirrored pages the packages of the other copies, the next
sequence number, whether it is doomed and whether an acknowledgement has said so (R406), the coordinator's step with the value it tries, its reason, since when it waits, and who has acknowledged. -/
structure Group where
  gen : Nat := 0
  st : GroupState := .free
  g : Nat := 0
  fire : Nat := 0
  lid : Word := 0
  record : Nat × Nat × Nat := (0, 0, 0)
  recVa : Word := 0
  sent : Tab Nat := []
  mirrored : Tab (List Nat) := []
  seq : Nat := 0
  doomed : Bool := false
  heard : Bool := false
  auto : Bool := false
  gabort : Bool := false
  step : GroupStep := .gather
  tried : Nat := 0
  reason : Nat := 0
  since : Nat := 0
  answers : Tab Bool := []
  acked : List Nat := []
  deriving DecidableEq, Repr, Inhabited

/-- A staged store (R399), with the launch that has sent it and the address that it used (R27); of a peer's, neither is known here. -/
structure Staged where
  gid : Nat
  seq : Nat
  phys : Nat
  bytes : List Byte
  lid : Word := BitVec.allOnes 64
  va : Word := 0
  deriving DecidableEq, Repr, Inhabited

/-- A fabric port as a destination of groups (R399, R402, R403): staged stores, stores received by group, doomed groups, and the
prepared groups with the CYC of their READY and their decision record. -/
structure Port where
  entries : List Staged := []
  recv : Tab Nat := []
  doomed : List Nat := []
  prepared : List (Nat × Nat × (Nat × Nat × Nat)) := []
  deriving DecidableEq, Repr, Inhabited

/-- A collective (R389): member packages by index. -/
structure Coll where
  members : List Nat
  self : Option Nat
  deriving DecidableEq, Repr, Inhabited

/-- A round of a collective in the switches (R390, R391): the contributions combined so far in arrival order, by member index, with the CYC at which
each arrived, and whether the round has ended as INCOMPLETE. -/
structure Round where
  coll : Nat
  round : Nat
  op : Nat
  nel : Nat
  det : Bool
  got : List (Nat × List (BitVec 32)) := []
  times : List Nat := []
  ended : Bool := false
  deriving DecidableEq, Repr, Inhabited

/-- A store of a group on its way to a destination (R398): group, sequence number, port of the package, physical address, and
of a mirrored page the package of the other copy. -/
structure Stg where
  gid : Nat
  seq : Nat
  pkg : Nat
  port : Nat
  phys : Nat
  bytes : List Byte
  mir : Option Nat
  deriving DecidableEq, Repr, Inhabited

/-- What the coordinator of a group sends (R401): PREPARE with the count of stores sent there, PUBLISH, ABORT, and the CAS of its
decision record. -/
inductive GroupOp | prepare (n : Nat) | publish | abort | cas (val : Nat)
  deriving DecidableEq, Repr, Inhabited

/-! ## Spatial requests -/

/-- What a spatial request does (R305, R306, R309 to R311, R303, R316, R318): creation and moving carry the adjusted coordinates, a read the
offset, the bytes and the load it belongs to, a query take the query that it opens; a visit and a stop go to an owner of a query. -/
inductive SpOp
  | create (pos : List (BitVec 32))
  | put (pos : List (BitVec 32))
  | del
  | read (off n key : Nat)
  | write (off : Nat) (bytes : List Byte)
  | take (q : Nat) (x : Query)
  | visit (q stamp : Nat)
  | stop (q : Nat)
  deriving DecidableEq, Repr, Inhabited

/-- How far a spatial request has come: at an owner, at the directory, sent on in a haul, a slot reserved at the new owner, with its
reservation, the copy marked for deletion, in effect with the reservation to be settled, or ended with a status (16: HNDL). A posted one whose
request or acknowledgement was cut at a link (R252) is lost: no acknowledgement comes. -/
inductive SpStep
  | owner
  | dir
  | moving (to_ : Nat)
  | placed (to_ slot : Nat)
  | stamped (to_ slot v : Nat)
  | marked
  | settling (v st : Nat)
  | ended (st : Nat)
  | lost
  deriving DecidableEq, Repr, Inhabited

/-- A spatial request in flight: the field as the requester has bound it, the handle, the owner it is at or goes to, how often it was
forwarded, the core that forwarded it last, whether the directory named that owner (R301), and of a read whether the issuing core has held it back
for earlier posted operations (R310). -/
structure SpReq where
  op : SpOp
  fld : Nat
  desc : Word
  home : Nat
  handle : Word := 0
  owner : Nat := 0
  hops : Nat := 0
  via : Option Nat := none
  named : Bool := false
  step : SpStep := .owner
  posted : Bool := false
  held : Bool := false
  deriving DecidableEq, Repr, Inhabited

/-- What travels (R63, R70, R103, R231, R237, R257, R265, R353, R354). -/
inductive Body
  | acc (a : Acc)
  | atom (a : Atom)
  | spawn (target : Nat) (pc : PcAddr) (lid : Word) (args : List (Quad × Tag))
  | spawnReply (req status : Nat)
  | packet (p : Packet)
  | mappReply (req core : Nat) (ok : Bool)
  | phaser (op : Nat) (n : Nat) (arg : Word)
  | faultCopy (bytes : List Byte)
  | stg (x : Stg)
  | group (op : GroupOp) (gid pkg port : Nat)
  | sp (x : SpReq)
  | entry (queue : Nat) (bytes : List Byte)
  | cancel (lid : Word) (part : Nat)
  deriving DecidableEq, Repr, Inhabited

/-- One thing in flight: its number, the context it comes from and that context's firing, launch and process identifier, its content
and its stage. A packet to a peer has its path, the generation of its tag slot, the CYC at which it left, and the address that a
failure names (R373, R375, R376). Once it is answered, `from_` names where the reply comes from (0: no mesh reply) and `done` the turn
in which it left there (R257); of a peer access `was` names the copy that answered, the other copy and the physical address (R386, R388).
`span` is the range of addresses of the leaf that translated it (R273). -/
structure Msg where
  id : Nat
  g : Nat
  fire : Nat
  lid : Word
  pid : Nat
  body : Body
  stage : Stage := .new
  path : Option Nat := none
  gen : Nat := 0
  sent : Nat := 0
  va : Word := 0
  from_ : Nat := 0
  done : Nat := 0
  was : Option (Nat × Option Nat × Nat) := none
  span : Nat × Nat := (0, 0)
  deriving DecidableEq, Repr, Inhabited

/-! ## The field homes -/

/-- The home of a field (R303, R292, R301): the stamps of the active-query slots, the stamps of the reservations not yet settled, and the
handle directory (handle, owner, deleted), whose layout in memory the spec leaves to the device (log 25). -/
structure Home where
  queries : Tab Nat := []
  unsettled : List Nat := []
  dir : List (Word × Nat × Bool) := []
  deriving DecidableEq, Repr, Inhabited

/-! ## The command processor -/

/-- The control page of a launch queue (R335, R336): `serial` counts its launches. -/
structure Queue where
  cfg : Word := 0
  ring : Word := 0
  door : Word := 0
  last : Nat := 0
  lid : Word := 0
  tail : BitVec 32 := 0
  head : BitVec 32 := 0
  miss : Word := 0
  can : Word := 0
  cres : Nat := 0
  serial : Nat := 0
  deriving DecidableEq, Repr, Inhabited

/-- How a launch stands: pending, dispatched and being placed, running, asked to be saved, saved, being stopped, or finished with its
completion record still to be written (R337, R343, R345, R349, R350). -/
inductive LaunchState | pending | placing | running | saving | saved | stopping | done
  deriving DecidableEq, Repr, Inhabited

/-- The saved state of one cluster of a launch (R350): its unit, cores, contexts, the bytes of the banks that are not resident with their
tag and poison bits, and the visits of its open queries that wait at their owners. -/
structure SavedCluster where
  cl : Nat
  clu : Cluster
  cores : List (Nat × Core)
  ctxs : List (Nat × Ctx)
  bytes : List Host.Cell
  tagged : List Nat
  tagPoison : List Nat
  poison : List Nat
  msgs : List Msg
  deriving DecidableEq, Repr, Inhabited

/-- A launch (R334, R336, R345 to R351): its entry, what its DCB gave when it was last read (partition, tier, process identifier, fault
domain, resident set, save area), how it stands, its outcome, its clusters in list order, the CYC of its dispatch decision, of its
completion, and of its pre-emption request, that up to which its cluster-time is accounted, and from its image the placed cores (core,
scratch BASE, LIMIT, AT), control values, firing-start capabilities and launch arguments. -/
structure Launch where
  lid : Word
  dcb : Nat
  deadline : Nat
  args : Word
  tag : Word
  arrival : Nat
  part : Nat := 0
  tier : Nat := 0
  pid : Nat := 0
  fdom : Nat := 0
  rsid : Nat := 0
  save : Nat := 0
  st : LaunchState := .pending
  missed : Bool := false
  status : Nat := 0
  cause : Nat := 0
  kind : Nat := 0
  cid : Nat := 0
  clusters : List Nat := []
  decided : Nat := 0
  ended : Nat := 0
  acct : Nat := 0
  asked : Nat := 0
  cores : List (Nat × Nat × Nat × Bool) := []
  ctl : Tab Word := []
  caps : Tab (Quad × Quad) := []
  argw : List Word := []
  shares : List Nat := []
  saved : List SavedCluster := []
  deriving DecidableEq, Repr, Inhabited

/-! ## Plug and Feather -/

/-- A partition as Plug has set it up (R333): its DCB and its clusters. -/
structure Part where
  dcb : Nat
  clusters : List Nat
  deriving DecidableEq, Repr, Inhabited

/-- What the management port is told (R357, R358, R364, R367): that a boot step failed, with a cause code, that a configuration record was
rejected, that the hardware watchdog has reset the package, that a page has failed. -/
inductive Report
  | boot (step cause : Nat)
  | record (index : Nat)
  | watchdog
  | page (n : Nat)
  deriving DecidableEq, Repr, Inhabited

/-- The Plug core and what it reports (R355 to R368): the boot step reached (6: released) with the cause code of a failure, the rollback
floor, the configuration options, the digests of the accepted images, the accepted configuration records, the private identity key with the
vendor certificate, the root DCB, HEALTH, the latched firewall refusals (agent, address, count), whether Feather runs and the CYC of its
last signal, the attestation reports and mailbox answers given, what the management port has been told, the partitions, the spares used
(lanes by link, ways by slice, DRAM rows by bank and layer), the failed pages, the cores reported for sparing (R180, R208, R246), and, of the
bytes that hold PID or SAVE where a DCB stands, those that Feather has stored (R333, log 63). -/
structure Plug where
  step : Nat := 0
  cause : Nat := 0
  floor : Nat := 0
  options : Tab Nat := []
  digests : List (List Byte) := []
  records : List Byte := []
  key : List Byte := []
  cert : List Byte := []
  root : Nat := 0
  health : Word := 0
  latched : List (Nat × Word × Nat) := []
  feather : Bool := false
  fed : Nat := 0
  reports : List (List Byte) := []
  answers : List Bool := []
  told : List Report := []
  parts : Tab Part := []
  lanes : Tab Nat := []
  ways : Tab Nat := []
  rows : Tab Nat := []
  failedPages : List Nat := []
  reported : List Nat := []
  byFeather : List Nat := []
  deriving DecidableEq, Repr, Inhabited

/-- What a placed launch fetches from (R27): identifier, process identifier, its level-0 table and memory as they stood when it was
dispatched, with `held` for the bytes that launches not complete then had stored over; and the bytes of package DRAM that the launch itself has
stored since, the latest value of each: `own` by physical address, true as long as nobody else has stored there, and `ownVa` by the address it used. -/
structure LaunchText where
  lid : Word
  pid : BitVec 12
  root : Option Nat := none
  mem : List Host.Cell := []
  held : List (Nat × Byte) := []
  own : List (Nat × Byte × Bool) := []
  ownVa : List (Nat × Byte) := []
  deriving DecidableEq, Repr, Inhabited

/-- What this package answers to an agent outside its compute dies: an application core, a root-port device or a command core (R362), or a
peer package (R372) with the number and the generation of its request; or the coordinator of a group of a peer package, from one of this
package's ports (R401, R402). -/
inductive Asker
  | agent (kind part : Nat)
  | peer (pkg gen : Nat)
  | group (pkg gid port : Nat)
  deriving DecidableEq, Repr, Inhabited

/-- How such an access ends: with the bytes that it read (none for a write), as a RISC-V access fault or an Unsupported Request
completion (R362), with a fault that the requester of a peer access records (R372, R376), as the acknowledgement of a group's store with its
DOOMED bit (R399), as READY or FAIL (R401), or as the acknowledgement of a group's outcome (R402). -/
inductive Reply
  | data (bytes : List Byte)
  | accessFault
  | unsupported
  | fault (c : Cause)
  | stored (doomed : Bool)
  | ready (ok : Bool)
  | told
  deriving DecidableEq, Repr, Inhabited

/-! ## The machine -/

/-- The whole machine. `cur`, `ilen`, `turns`, `agenda`, `nextId` and `draws` are the model's own (log 1, 2): the context
whose turn it is, the length of the instruction it executes, the count of steps, the turns already decided, the number of
the next thing in flight, and the count of free values drawn. `heldText` holds, for bytes of package DRAM that a placed launch has stored and
that are not yet program text of a launch dispatched now, what such a launch fetches there (R27). `msix` holds the queues for which an MSI-X has
been raised (R335), `replies` the answers to agents outside, `peerPages` the pages that other packages' placements gave to the pages of a process
identifier (package, identifier, page, and the physical page there), `blocks` the launches that wait for the images of other packages (R332,
R409), `decision` the CYC after that of the last dispatch decision (R337), and `owed` the additions to counters of DCBs that wait for a line locked
for a group, with the location and the amount of each (R402). Contexts are listed by g = 4 × CID + context, cores by CID,
clusters by 16 × die + cluster. Memory is keyed by home location: `Loc.spad` and the physical addresses (log 4). -/
structure State where
  cyc : Word := 0
  pkgNo : Nat := 0
  mem : List Host.Cell := []
  tagged : List Nat := []
  poison : List Nat := []
  tagPoison : List Nat := []
  net : List Msg := []
  ctxs : Tab Ctx := []
  cores : Tab Core := []
  clusters : Tab Cluster := []
  dies : Tab Die := []
  strLinks : Tab Nat := []
  texts : List LaunchText := []
  heldText : List (Nat × Byte) := []
  levelZero : Tab Nat := []
  partOf : Tab Nat := []
  windows : Tab Quad := []
  peerTable : List Nat := []
  groups : Tab Group := []
  ports : Tab Port := []
  colls : Tab Coll := []
  rounds : List Round := []
  lateFab : List (Word × Word × Nat) := []
  resGrant : List Word := []
  homes : Tab Home := []
  queues : Tab Queue := []
  launches : List Launch := []
  arrivals : Nat := 0
  decision : Nat := 0
  msix : List Nat := []
  replies : List (Asker × Reply) := []
  pages : List (Nat × Word) := []
  peerPages : List ((Nat × Nat × Nat) × Nat) := []
  blocks : List Word := []
  owed : List (Nat × Nat) := []
  plug : Plug := {}
  cur : Nat := 0
  ilen : Nat := 1
  turns : Nat := 0
  agenda : List Turn := []
  nextId : Nat := 0
  draws : Nat := 0
  deriving DecidableEq, Repr, Inhabited

/-- Why the machine stops with a fault. -/
inductive Fault
  /-- Raised by no meaning of this model: every access the spec forbids ends in a trap, a recorded refusal or a status. Safe. -/
  | stuck
  deriving DecidableEq, Repr, Inhabited

/-- Why the machine refuses an instruction. -/
inductive Refusal
  /-- Raised by Dispatch for an instruction without a meaning. Safe. -/
  | notModelled (mnemonic : String)
  deriving DecidableEq, Repr, Inhabited

/-- The outcome of a step of this machine. -/
abbrev Out := Host.Outcome State Fault Refusal

/-- The machine right after package reset: every unit at its reset value, nothing listed in memory (R6, R8, R251; log 3, 4, 5, 8, 42). -/
def State.reset : State := {}

/-! ## The units of the current context -/

/-- The context with global number g. -/
def State.ctxAt (s : State) (g : Nat) : Ctx := s.ctxs.get {} g
/-- Changes one context. -/
def State.updCtx (s : State) (g : Nat) (f : Ctx → Ctx) : State := { s with ctxs := s.ctxs.put g (f (s.ctxAt g)) }
/-- The context whose turn it is. -/
def State.me (s : State) : Ctx := s.ctxAt s.cur
/-- Changes the context whose turn it is. -/
def State.updMe (s : State) (f : Ctx → Ctx) : State := s.updCtx s.cur f
/-- The core with identifier cid. -/
def State.coreAt (s : State) (cid : Nat) : Core := s.cores.get {} cid
/-- Changes one core. -/
def State.updCore (s : State) (cid : Nat) (f : Core → Core) : State := { s with cores := s.cores.put cid (f (s.coreAt cid)) }
/-- CID of the context whose turn it is (R102). -/
def State.cid (s : State) : Nat := s.cur / 4
/-- The core of the context whose turn it is. -/
def State.myCore (s : State) : Core := s.coreAt s.cid
/-- Changes that core. -/
def State.updMyCore (s : State) (f : Core → Core) : State := s.updCore s.cid f
/-- The cluster unit with number 16 × die + cluster, which is CID / 16 (R17). -/
def State.cluAt (s : State) (cl : Nat) : Cluster := s.clusters.get {} cl
/-- Changes one cluster unit. -/
def State.updClu (s : State) (cl : Nat) (f : Cluster → Cluster) : State := { s with clusters := s.clusters.put cl (f (s.cluAt cl)) }
/-- The cluster of the context whose turn it is. -/
def State.clu (s : State) : Nat := s.cid / 16
/-- One die. -/
def State.dieAt (s : State) (d : Nat) : Die := s.dies.get {} d
/-- Changes one die. -/
def State.updDie (s : State) (d : Nat) (f : Die → Die) : State := { s with dies := s.dies.put d (f (s.dieAt d)) }
/-- The die of the context whose turn it is. -/
def State.die (s : State) : Nat := s.cid / 256

end Sys2Proof.Machine
end

