-- ==== Sys2Proof/Machine/Regs.lean ====
section
/-! DEFINITION. Regs.lean: the register file (R82 to R90): reading and writing registers, windows, masks and lanes, the order
of the register checks (R88), the tag checks (R85), and the ways an instruction can end short of completing. -/

namespace Sys2Proof.Machine

/-- How an instruction ends when it does not complete. -/
inductive Stop
  /-- A precise trap: the state is as before the instruction (R10). -/
  | trap (c : Cause) (v : Word)
  /-- An asynchronous report (AS = 1, R79), from the given state. -/
  | report (c : Cause) (v : Word) (t : State)
  /-- A precise trap that follows a write (R10, R149), or that consumes a recorded fault (R87). -/
  | post (c : Cause) (v : Word) (t : State)
  /-- A blocked wait (R59) of a wait-table kind and object (R248); `key` tells two waits of one instruction apart. -/
  | wait (kind obj : Nat) (t : State) (key : Nat := 0)
  /-- A wait that is not a blocked wait (R231, R265). -/
  | stall (t : State)
  /-- The firing is over, or the next state is already whole. -/
  | over (t : State)
  deriving DecidableEq, Repr, Inhabited

/-- The result of a part of an instruction. -/
abbrev Ex (α : Type) := Except Stop α

/-- Check of R9: the trap when the condition is false. -/
def check (cond : Bool) (c : Cause) (v : Word) : Ex Unit := if cond then .ok () else .error (.trap c v)

/-! ## Waits -/

/-- Whether the answer that a context waits for has come (R59: its wait has ended by itself). -/
def Phase.isDone : Phase → Bool | .done _ => true | _ => false

/-- Whether a context is in a blocked wait now (R59, R248): a wait whose object has come is over. -/
def Ctx.waits (c : Ctx) : Bool := c.busy && c.wait.any (fun w => !w.met) && !c.phase.isDone

/-! ## Registers -/

/-- The place of register number n in the file: at system level g56 to g63 name the system bank (R82). -/
def Ctx.ix (c : Ctx) (n : Nat) : Nat := if c.level = .system ∧ 56 ≤ n ∧ n < 64 then n + 8 else n

/-- The register at a place of the file; g0 reads as zero, DATA, FULL (R82). -/
def Ctx.regAt (c : Ctx) (k : Nat) : GReg := if h : 0 < k ∧ k < 72 then c.regs[k]'h.2 else {}

/-- Replaces the register at a place of the file; g0 stays (R82). -/
def Ctx.setRegAt (c : Ctx) (k : Nat) (r : GReg) : Ctx :=
  if h : 0 < k ∧ k < 72 then { c with regs := c.regs.set k r h.2 } else c

/-- The register numbered n at the present level. -/
def Ctx.reg (c : Ctx) (n : Nat) : GReg := c.regAt (c.ix n)

/-- Raising the fault recorded at a place consumes the record (R87): every register that holds it is FULL and zero, tagged DATA. -/
def Ctx.consume (c : Ctx) (k : Nat) : Ctx :=
  (k :: (c.regAt k).window.filter (fun j => (c.regAt j).fault == (c.regAt k).fault && (c.regAt j).window == (c.regAt k).window)).foldl
    (fun c j => c.setRegAt j {}) c

/-- Writes bits and tag to register n: FULL, unarmed, without a recorded fault (R84, R86). -/
def Ctx.wr (c : Ctx) (n : Nat) (v : Quad) (t : Tag := .data) : Ctx := c.setRegAt (c.ix n) { bits := v, tag := t }

/-- Writes consecutive registers (R82: lowest number, least significant). -/
def Ctx.wrList (c : Ctx) (n : Nat) : List (Quad × Tag) → Ctx
  | [] => c
  | (v, t) :: rest => Ctx.wrList (c.wr n v t) (n + 1) rest

/-- The bits of register n of the current context. -/
def State.bits (s : State) (n : RegNo) : Quad := (s.me.reg n.toNat).bits
/-- Its low 64 bits. -/
def State.lo (s : State) (n : RegNo) : Word := (s.bits n).setWidth 64
/-- Writes a 64-bit result: bits [127:64] zero, DATA, FULL (R82). -/
def State.put (s : State) (n : RegNo) (v : Word) : State := s.updMe (fun c => c.wr n.toNat (v.setWidth 128))
/-- Writes 128 bits with a tag. -/
def State.putQ (s : State) (n : RegNo) (v : Quad) (t : Tag := .data) : State := s.updMe (fun c => c.wr n.toNat v t)
/-- Writes a window. -/
def State.putL (s : State) (n : RegNo) (vs : List (Quad × Tag)) : State := s.updMe (fun c => c.wrList n.toNat vs)
/-- The registers of a window with their tags, lowest first. -/
def State.win (s : State) (n : RegNo) (len : Nat) : List (Quad × Tag) :=
  (List.range len).map (fun i => let r := s.me.reg (n.toNat + i); (r.bits, r.tag))

/-! ## Masks (R83) -/

/-- A mask register; m0 reads as 0xFFFF. -/
def Ctx.mask (c : Ctx) (n : Nat) : BitVec 16 := if h : 0 < n ∧ n < 8 then c.masks[n]'h.2 else 0xFFFF
/-- Writes a mask register; a write to m0 is discarded. -/
def Ctx.setMask (c : Ctx) (n : Nat) (v : BitVec 16) : Ctx :=
  if h : 0 < n ∧ n < 8 then { c with masks := c.masks.set n v h.2 } else c
/-- The governing mask of an instruction (R112). -/
def State.gov (s : State) (o : Ops) : BitVec 16 := s.me.mask o.msk.toNat

/-! ## Lanes (R82) -/

/-- Lane i of the window that starts at register n. -/
def Ctx.lane (c : Ctx) (n i : Nat) : BitVec 32 := (c.reg (n + i / 4)).bits.extractLsb' (i % 4 * 32) 32

/-- The sixteen lanes of a :4 window. -/
def State.lanes (s : State) (n : RegNo) : List (BitVec 32) := (List.range 16).map (fun i => s.me.lane n.toNat i)

/-- Four lanes as one register. -/
def quadOf (a b c d : BitVec 32) : Quad := d ++ c ++ b ++ a

/-- Sixteen lanes as the four registers of a window. -/
def laneRegs (l : List (BitVec 32)) : List Quad :=
  (List.range 4).map (fun k => quadOf (l.getD (4 * k) 0) (l.getD (4 * k + 1) 0) (l.getD (4 * k + 2) 0) (l.getD (4 * k + 3) 0))

/-- Writes a :4 window of lanes, DATA and FULL. -/
def State.putLanes (s : State) (n : RegNo) (l : List (BitVec 32)) : State :=
  s.putL n ((laneRegs l).map (fun q => (q, Tag.data)))

/-! ## The register checks of R88 -/

/-- A register operand for R88: its first register, its window length, whether it is read, and whether its empty policy is
"trap". -/
structure Rd where
  n : Nat
  len : Nat := 1
  src : Bool := true
  trap : Bool := false
  deriving DecidableEq, Repr, Inhabited

/-- A destination window. -/
def dst (n : RegNo) (len : Nat := 1) : Rd := { n := n.toNat, len := len, src := false }
/-- A source read through a or b, with its empty policy (R34). -/
def src (n : RegNo) (trap : Bool) (len : Nat := 1) : Rd := { n := n.toNat, len := len, trap := trap }
/-- A source read through c, or any further register: it blocks on EMPTY (R34). -/
def srcC (n : RegNo) (len : Nat := 1) : Rd := { n := n.toNat, len := len }

/-- The single registers of the operands, in order. -/
def rdRegs (l : List Rd) : List (Nat × Rd) := l.flatMap (fun r => (List.range r.len).map (fun i => (r.n + i, r)))

/-- Whether a register is a destination of a pending receive, with the receive (R236, R248). -/
def Ctx.recvOf (c : Ctx) (k : Nat) : Option Recv := c.recvs.find? (fun r => r.hdr == k && k != 0 || (r.pay ≤ k && k < r.pay + 8))

/-- The lowest tag of a tag mask, 0 when none (the wait-table object of a receive, log 9). -/
def lowestTag (m : Nat) : Nat := ((List.range 16).find? (fun t => m.testBit t)).getD 0

/-- The register checks in the order of R88: LEASED, a recorded fault, an EMPTY source under the trap policy, then waits for
the EMPTY sources and destinations. -/
def check88 (s : State) (l : List Rd) : Ex Unit :=
  let c := s.me
  let rs := rdRegs l
  match rs.find? (fun r => (c.reg r.1).pres == .leased) with
  | some r => .error (.trap .lease (BitVec.ofNat 64 r.1))
  | none =>
    match rs.find? (fun r => (c.reg r.1).fault.isSome) with
    | some r =>
      let f := (c.reg r.1).fault.getD default
      .error (.post f.cause f.val (s.updMe (fun c => c.consume (c.ix r.1))))
    | none =>
      match rs.find? (fun r => r.2.src && r.2.trap && (c.reg r.1).pres == .empty) with
      | some r => .error (.trap .empty (BitVec.ofNat 64 r.1))
      | none =>
        match (rs.filter (·.2.src) ++ rs).find? (fun r => (c.reg r.1).pres == .empty) with
        | some r =>
          match c.recvOf (c.ix r.1) with
          | some v => .error (.wait 3 (lowestTag v.mask) s (r.1 + 1))
          | none => .error (.wait 6 0 s (r.1 + 1))
        | none => .ok ()

/-! ## The tag checks of R85 -/

/-- A source treated as a number: CAPH and CAPT raise TAG, ABN raises ABN, with the register number. -/
def numTag (s : State) (n : Nat) : Ex Unit :=
  match (s.me.reg n).tag with
  | .data => .ok ()
  | .abn => .error (.trap .abn (BitVec.ofNat 64 n))
  | _ => .error (.trap .tag (BitVec.ofNat 64 n))

/-- The number checks of several registers, in order. -/
def numTags (s : State) : List Nat → Ex Unit
  | [] => .ok ()
  | n :: t => do numTag s n; numTags s t

/-- The number checks of a window. -/
def numWin (s : State) (n : RegNo) (len : Nat) : Ex Unit := numTags s ((List.range len).map (n.toNat + ·))

/-- Store data (R85): as a number, but an ABN register is stored as its bits. -/
def dataTag (s : State) (n : Nat) : Ex Unit :=
  match (s.me.reg n).tag with
  | .data | .abn => .ok ()
  | _ => .error (.trap .tag (BitVec.ofNat 64 n))

/-- The store-data checks of a window. -/
def dataTags (s : State) : List Nat → Ex Unit
  | [] => .ok ()
  | n :: t => do dataTag s n; dataTags s t

/-- The operand must be a capability (R85); the TVAL of TAG is the first register of the window, whichever of the two has the wrong tag
(log 49). -/
def capTag (s : State) (n : RegNo) : Ex Unit :=
  if (s.me.reg n.toNat).tag != .caph then .error (.trap .tag (BitVec.ofNat 64 n.toNat))
  else if (s.me.reg (n.toNat + 1)).tag != .capt then .error (.trap .tag (BitVec.ofNat 64 n.toNat))
  else .ok ()

/-! ## Flags (R138 to R141) -/

/-- SetFlags (R9, R141) for the context g: the sticky flags, and the flag set on its way to CFU. The flag set is FCS[8:4]:
NX 1, UF 2, OF 4, DZ 8, NV 16. -/
def State.setFlagsOf (s : State) (g : Nat) (f : BitVec 5) : State :=
  if f = 0 then s
  else
    (s.updCtx g (fun c => { c with fcs := c.fcs ||| (f.setWidth 64 <<< 4) })).updClu (g / 64)
      (fun u => { u with flagsIn := u.flagsIn ++ [{ core := g / 4 % 16, flags := f, born := s.cyc.toNat }] })

/-- SetFlags for the current context. -/
def State.setFlags (s : State) (f : BitVec 5) : State := s.setFlagsOf s.cur f

/-- The flags raised on behalf of a context that reach only CFU now (R137: the sticky flags follow at completion). -/
def State.unionFlags (s : State) (g : Nat) (f : BitVec 5) : State :=
  if f = 0 then s
  else s.updClu (g / 64) (fun u => { u with flagsIn := u.flagsIn ++ [{ core := g / 4 % 16, flags := f, born := s.cyc.toNat }] })

/-- The bits that a flag set makes in CFU: the flags, and the core's bit of CORES (R141). -/
def FlagSet.bits (x : FlagSet) : Word := (x.flags.setWidth 64 <<< 4) ||| BitVec.ofNat 64 (2 ^ (16 + x.core))

/-- FCS.RM (R135); 6 and 7 round as RNE. -/
def Ctx.rm (c : Ctx) : Nat := if fld c.fcs 2 0 < 6 then fld c.fcs 2 0 else 0

end Sys2Proof.Machine
end

