-- ==== Sys2Proof/Machine/Mem.lean ====
section
/-! DEFINITION. Mem.lean: memory (R4, R22, R95, R161, R178, R258): the bytes of every home in one canonical form, tag and poison
bits, capabilities and their checks (R92 to R94), range locks (R170, R171), resident banks (R164), and translation (R259 to
R263, R363, R371). -/

namespace Sys2Proof.Machine

/-! ## Bytes -/

/-- What an unlisted byte reads as: zero (R251 for scratchpads; log 4 for DRAM). -/
def Memory.blank : Byte := 0

/-- The canonical form: addresses strictly rising, and no entry equal to what an unlisted address reads as. -/
def Memory.wf : List Host.Cell → Bool
  | [] => true
  | [c] => c.2 != Memory.blank
  | c :: d :: t => c.2 != Memory.blank && decide (c.1 < d.1) && Memory.wf (d :: t)

/-- Reads one byte. -/
def Memory.read : List Host.Cell → Nat → Byte
  | [], _ => Memory.blank
  | c :: t, a => if c.1 = a then c.2 else if a < c.1 then Memory.blank else Memory.read t a

/-- Writes one byte; the value an unlisted byte reads as removes the entry. -/
def Memory.write : List Host.Cell → Nat → Byte → List Host.Cell
  | [], a, b => if b = Memory.blank then [] else [(a, b)]
  | c :: t, a, b =>
    if a < c.1 then (if b = Memory.blank then c :: t else (a, b) :: c :: t)
    else if c.1 = a then (if b = Memory.blank then t else (a, b) :: t)
    else c :: Memory.write t a b

/-- Reads n bytes, lowest address first. -/
def Memory.readL (m : List Host.Cell) (a : Nat) : Nat → List Byte
  | 0 => []
  | n + 1 => Memory.read m a :: Memory.readL m (a + 1) n

/-- Writes bytes in ascending address order. -/
def Memory.writeL (m : List Host.Cell) (a : Nat) : List Byte → List Host.Cell
  | [] => m
  | b :: t => Memory.writeL (Memory.write m a b) (a + 1) t

/-- Inserts into a strictly rising list. -/
def insertNat (k : Nat) : List Nat → List Nat
  | [] => [k]
  | h :: t => if k < h then k :: h :: t else if k = h then h :: t else h :: insertNat k t

/-- The location of byte `off` of the scratchpad of core cid (R161). -/
def spad (cid off : Nat) : Nat := 2 ^ 48 + cid * 2 ^ 19 + off
/-- Whether a location is in a scratchpad. -/
def isSpad (loc : Nat) : Bool := decide (2 ^ 48 ≤ loc ∧ loc < 2 ^ 49)
/-- The location of a physical address of peer package p. -/
def peerLoc (p phys : Nat) : Nat := 2 ^ 50 * (p + 1) + phys
/-- The start of the unit that is poisoned as a whole: 8 bytes of a scratchpad (R179), 64 bytes of DRAM (R289). -/
def poisonUnit (loc : Nat) : Nat := if isSpad loc then loc / 8 * 8 else loc / 64 * 64

/-- The bytes at a location. -/
def State.bytesAt (s : State) (loc n : Nat) : List Byte := Memory.readL s.mem loc n
/-- The little-endian number at a location (R4). -/
def State.numAt (s : State) (loc n : Nat) : Nat := leVal (s.bytesAt loc n)

/-- Notes what a launch itself stores into package DRAM that it may be executing from (R27): locations with what is stored. A store of
another's leaves its own value there no longer. -/
def noteText (lid : Word) (ws : List (Nat × Byte)) (t : LaunchText) : LaunchText :=
  if t.lid = lid then { t with own := t.own.filter (fun e => !ws.any (·.1 == e.1)) ++ ws.map (fun e => (e.1, e.2, true)) }
  else { t with own := t.own.map (fun e => if ws.any (·.1 == e.1) then (e.1, e.2.1, false) else e) }

/-- The bytes that a launch dispatched now would not fetch from memory, after a store (R27): a placed launch's store leaves the text as it was
until that launch has completed; any other store is text at once. -/
def State.heldAfter (s : State) (lid : Word) (loc n : Nat) : List (Nat × Byte) :=
  let as := (List.range n).map (loc + ·)
  if s.texts.any (fun t => t.lid == lid) then
    s.heldText ++ ((as.filter (fun a => !s.heldText.any (·.1 == a))).map (fun a => (a, Memory.read s.mem a)))
  else s.heldText.filter (fun e => !as.contains e.1)

/-- Notes a launch's store under the DEVICE address that it used (R27). -/
def State.noteVa (s : State) (lid va : Word) (loc : Nat) (bs : List Byte) : State :=
  if isSpad loc then s
  else { s with texts := s.texts.map (fun t =>
    let ws := ((List.range bs.length).map (va.toNat + ·)).zip bs
    if t.lid = lid then { t with ownVa := t.ownVa.filter (fun e => !ws.any (·.1 == e.1)) ++ ws } else t) }

/-- A launch has completed, or is gone: what it has stored is text for the launches dispatched from now on (R27); where another placed launch has
stored too, that launch's value is still held back. -/
def State.dropText (s : State) (lid : Word) : State :=
  let rest := s.texts.filter (fun t => t.lid != lid)
  let own := (s.texts.filter (fun t => t.lid == lid)).flatMap (·.own)
  { s with
    texts := rest
    heldText := s.heldText.filterMap (fun e =>
      match own.find? (fun x => x.1 == e.1) with
      | some x => if rest.any (fun t => t.own.any (fun y => y.1 == e.1)) then some (e.1, x.2.1) else none
      | none => some e) }

/-- Stores bytes at a location of a home for a launch: clears the tag bits of the granules they touch (R95). DESIGN CHOICE (log 70): a tag-bit
error that waits for its LDC (R179) is cleared with the tag bit. -/
def State.store (s : State) (lid : Word) (loc : Nat) (bs : List Byte) : State :=
  { s with
    mem := Memory.writeL s.mem loc bs
    tagged := s.tagged.filter (fun g => !(decide (loc < (g + 1) * 32) && decide (g * 32 < loc + bs.length)))
    tagPoison := s.tagPoison.filter (fun g => !(decide (loc < (g + 1) * 32) && decide (g * 32 < loc + bs.length)))
    texts := if isSpad loc then s.texts
             else s.texts.map (noteText lid (((List.range bs.length).map (loc + ·)).zip bs))
    heldText := if isSpad loc then s.heldText else s.heldAfter lid loc bs.length }

/-- Stores a granule with its tag bit set (STC, R95, R174). -/
def State.storeGran (s : State) (lid : Word) (loc : Nat) (bs : List Byte) : State :=
  let t := s.store lid loc bs
  { t with tagged := insertNat (loc / 32) t.tagged }

/-- The first poisoned byte of a range, if any (R179, R289). -/
def State.poisonedAt (s : State) (loc n : Nat) : Option Nat :=
  (List.range n).findSome? (fun i => if s.poison.contains (poisonUnit (loc + i)) then some (loc + i) else none)

/-- A store that covers whole poisoned units clears their poison; the units it covers only in part stop it (R179, R289). -/
def State.partPoison (s : State) (loc n : Nat) : Option Nat :=
  (List.range n).findSome? (fun i =>
    let u := poisonUnit (loc + i)
    let len := if isSpad loc then 8 else 64
    if s.poison.contains u && !(decide (loc ≤ u) && decide (u + len ≤ loc + n)) then some (loc + i) else none)

/-- Removes the poison of the units that a store covers. -/
def State.unpoison (s : State) (loc n : Nat) : State :=
  { s with poison := s.poison.filter (fun u => !(decide (loc ≤ u) && decide (u + (if isSpad loc then 8 else 64) ≤ loc + n))) }

/-- Writes bytes of a core's scratchpad for no thread. Who may write a resident bank is its callers' concern (R164): deliveries and
pool slots go through `State.edgeWrite` (log 29, 62), scratchpad images through `State.imageWrite`. -/
def State.rawWrite (s : State) (cid off : Nat) (bs : List Byte) : State :=
  (s.unpoison (spad cid off) bs.length).store (s.coreAt cid).lid (spad cid off) bs

/-- Poisons the unit of a location (R179, R289). -/
def State.setPoison (s : State) (loc : Nat) : State := { s with poison := insertNat (poisonUnit loc) s.poison }

/-! ## Capabilities (R92 to R94) -/

/-- The fields of a capability. -/
structure Cap where
  cur : Word
  base : Word
  lim : Word
  prm : BitVec 8
  spc : Nat
  deriving DecidableEq, Repr, Inhabited

/-- Reads the fields of a CAPH and a CAPT register (R92). -/
def capOf (h t : Quad) : Cap where
  cur := h.setWidth 64
  base := (h >>> 64).setWidth 64
  lim := t.setWidth 64
  prm := BitVec.ofNat 8 (fld t 71 64)
  spc := fld t 75 72

/-- The two registers of a capability (R92). -/
def Cap.head (c : Cap) : Quad := c.base ++ c.cur
/-- The tail register (R92). -/
def Cap.tail (c : Cap) : Quad := (BitVec.ofNat 52 0 ++ BitVec.ofNat 4 c.spc ++ c.prm) ++ c.lim

/-- The capability in the window that starts at n. -/
def State.capAt (s : State) (n : RegNo) : Cap := capOf (s.me.reg n.toNat).bits (s.me.reg (n.toNat + 1)).bits

/-- The permission bits of R93. -/
def pRD : Nat := 0
def pWR : Nat := 1
def pEX : Nat := 2
def pAT : Nat := 3
def pLC : Nat := 4
def pSC : Nat := 5
def pGL : Nat := 6
def pSY : Nat := 7

/-- Checks 2 to 4 of R94 at address A for the permissions an access needs; check 1 is `capTag`. -/
def capPerm (s : State) (c : Cap) (a : Word) (need : List Nat) : Ex Unit := do
  check (decide (c.spc < 5)) .perm a
  check (!(bitAt c.prm pSY) || s.me.level == .system) .perm a
  check (need.all (bitAt c.prm)) .perm a

/-- n bytes at A lie within the space's own range (R22). -/
def inSpace (spc : Nat) (a : Word) (n : Nat) : Bool :=
  match spc with | 0 => decide (a.toNat + n ≤ 0x80000) | 1 => decide (a.toNat + n ≤ 0x800000) | _ => true

/-- Check 5 of R94: n bytes at A lie within the bounds, and within the space's own range (R22). -/
def capBound (c : Cap) (a : Word) (n : Nat) : Ex Unit :=
  check (decide (c.base.toNat ≤ a.toNat ∧ a.toNat + n ≤ c.lim.toNat) && inSpace c.spc a n) .bound a

/-- The access must be in one of the spaces given, or PERM, after the checks 1 to 4 of R94 (R110, R173). -/
def capSpace (c : Cap) (a : Word) (ok : List Nat) : Ex Unit := check (ok.contains c.spc) .perm a

/-- The home core of a LOCAL or CLUSTER address of the current context (R22, R229). -/
def State.homeCore (s : State) (spc : Nat) (a : Word) : Nat :=
  if spc = 0 then s.cid else s.clu * 16 + a.toNat / 2 ^ 19 % 16

/-- Whether an address of a space is in the own scratchpad. -/
def State.isOwn (s : State) (spc : Nat) (a : Word) : Bool := decide (spc < 2) && s.homeCore spc a == s.cid

/-! ## Range locks and resident banks -/

/-- The first locked offset in [off, off + n) of a core's scratchpad (R171). -/
def Core.lockedAt (c : Core) (off n : Nat) : Option Nat :=
  let starts := c.locks.toList.filterMap (fun l => l.bind (fun l =>
    if off < l.base + l.len ∧ l.base < off + n then some (max off l.base) else none))
  starts.foldl (fun m x => match m with | none => some x | some y => some (min x y)) none

/-- Whether a core can be reached: it is neither fenced (R58) nor in reset (R251). -/
def Core.open_ (c : Core) : Bool := !c.fenced && !c.resetting

/-- Whether a write to [off, off + n) touches a resident bank (R164). -/
def Core.resAt (c : Core) (off n : Nat) : Option Nat :=
  (List.range n).findSome? (fun i =>
    match c.bfmt[(off + i) / 0x8000 % 16]? with
    | some w => if bitAt w 31 then some (off + i) else none
    | none => none)

/-- A delivery into a ring of a core (R51, R234, R316), or a write of the spatial unit to a pool slot (R298; log 29). What lies
in a resident bank is not written, by R164's "any other write ... writes nothing";
the delivery goes on, since there is no thread to trap (log 62). -/
def State.edgeWrite (s : State) (cid off : Nat) (bs : List Byte) : State :=
  if ((s.coreAt cid).resAt off bs.length).isSome then s else s.rawWrite cid off bs

/-- The first byte of [off, off + n) that lies in a pool bank of the spatial unit, which no store may touch (R298). -/
def Core.poolAt (c : Core) (off n : Nat) : Option Nat :=
  (List.range n).findSome? (fun i =>
    if c.fslots.toList.any (fun f => bitAt f.word 0 && f.banks.contains ((off + i) / 0x8000 % 16)) then some (off + i) else none)

/-- The address of scratchpad offset `off` in the form of the access (R22): TVAL names it as the program does. -/
def asAddr (a : Word) (base off : Nat) : Word := a + BitVec.ofNat 64 off - BitVec.ofNat 64 base

/-- Access checks at a home core for n bytes at an offset (R164, R171, R179): lock, resident bank (writes), poison. The
answer is the cause and the offset of the first refused byte. -/
def homeCheck (s : State) (cid off n : Nat) (write sys : Bool) : Except (Cause × Nat) Unit :=
  match (s.coreAt cid).lockedAt off n with
  | some o => .error (.lock, o)
  | none =>
    match (if write && !sys then (s.coreAt cid).resAt off n else none).orElse
        (fun _ => if write then (s.coreAt cid).poolAt off n else none) with
    | some o => .error (.perm, o)
    | none =>
      match (if write then s.partPoison (spad cid off) n else s.poisonedAt (spad cid off) n) with
      | some l => .error (.pois, l - spad cid 0)
      | none => .ok ()

/-- Whether an access kind stores. -/
def AccKind.stores : AccKind → Bool
  | .store | .storeGran | .storeLane _ => true
  | _ => false

/-- An access that has not been performed at its home yet. -/
def Msg.unperformed (m : Msg) : Bool := match m.stage with | .answered _ => false | _ => true

/-- The head of a value is here, and what follows it may still have to be read (R160): a stream FVLD whose answer has not arrived yet. -/
def Msg.headOut (m : Msg) : Bool :=
  match m.body, m.stage with
  | .acc a, .answered _ => (match a.kind with | .loadFv _ => true | _ => false)
  | _, _ => false

/-- Something in flight is not performed to its end yet. -/
def Msg.pending (m : Msg) : Bool := m.unperformed || m.headOut

/-- A .NR atomic at the cluster, or on a scratchpad cell: everything later of its context waits until it is performed (R215, R232, R253, R266). -/
def Atom.first (a : Atom) : Bool := a.nr && (a.scp == .clu || decide (a.space < 2))

/-- Whether such an atomic of the current context is not performed yet. -/
def State.nrOut (s : State) : Bool :=
  s.net.any (fun m => m.g == s.cur && m.fire == s.me.fire && m.unperformed && (match m.body with | .atom a => a.first | _ => false))

/-- The firewall refuses an access (R362): the agent, the address and the count are latched for Plug. -/
def State.latch (s : State) (agent : Nat) (addr : Word) : State :=
  let old := s.plug.latched
  let new := if old.any (fun e => e.1 == agent && e.2.1 == addr) then
      old.map (fun e => if e.1 = agent ∧ e.2.1 = addr then (e.1, e.2.1, e.2.2 + 1) else e)
    else old ++ [(agent, addr, 1)]
  { s with plug := { s.plug with latched := new } }

/-! ## Translation -/

/-- Whether the partition that owns a process identifier may reach a physical address (R263, R361, R363). -/
def State.admits (s : State) (pid phys : Nat) : Bool :=
  match s.partOf.find pid with
  | none => false
  | some part => s.windows.any (fun w =>
      bitAt w.2 0 && decide (fld w.2 41 16 ≤ phys / 2 ^ 16 ∧ phys / 2 ^ 16 < fld w.2 67 42) &&
      (fld w.2 75 68 == part || fld w.2 75 68 == 0xFF))

/-- A pointer entry is well formed (R261). -/
def ptrOk (e : Word) : Bool := bitAt e 0 && fld e 12 1 == 0 && fld e 63 56 == 0

/-- The walk of R261 from a table at level `lvl`: the leaf and its level. -/
def walk (s : State) (va : Word) : Nat → Nat → Nat → Option (Nat × Word)
  | 0, _, _ => none
  | k + 1, lvl, t =>
    let e := BitVec.ofNat 64 (s.numAt (t + 8 * fld va (55 - 10 * lvl) (46 - 10 * lvl)) 8)
    if !bitAt e 0 then none
    else if lvl ≤ 1 ∨ (lvl = 2 ∧ fld e 9 8 ≠ 2) then
      if ptrOk e then walk s va k (lvl + 1) (fld e 55 13 * 2 ^ 13) else none
    else some (lvl, e)

/-- The span of a leaf in pages of 64 KiB (R260). -/
def leafSpan (leaf : Word) : Nat := match fld leaf 9 8 with | 0 => 1 | 1 => 32 | _ => 2 ^ 14

/-- The addresses that the leaf of a virtual address spans, as start and length (R260). -/
def leafRange (leaf va : Word) : Nat × Nat := (fld va 55 16 / leafSpan leaf * leafSpan leaf * 2 ^ 16, leafSpan leaf * 2 ^ 16)

/-- The physical address a leaf gives (R261). -/
def leafPhys (leaf va : Word) : Nat :=
  fld leaf 63 38 * 2 ^ 16 + (match fld leaf 9 8 with | 0 => fld va 15 0 | 1 => fld va 20 0 | _ => fld va 29 0)

/-- The structural leaf checks of R261, R263 and R371. -/
def leafOk (s : State) (pid : Nat) (lvl : Nat) (leaf va : Word) : Bool :=
  let ppn := fld leaf 63 38
  let phys := leafPhys leaf va
  let other := !bitAt leaf 5 && !bitAt leaf 6 && fld leaf 24 12 == 0 && fld leaf 37 25 == 0
  (if lvl = 3 then decide (fld leaf 9 8 ≤ 1) else fld leaf 9 8 == 2) && ppn % leafSpan leaf == 0 &&
  (match fld leaf 11 10 with
   | 0 => other && decide (ppn < 2 ^ 22) && s.admits pid phys
   | 1 => fld leaf 24 12 != s.pkgNo && decide (phys < 2 ^ 38) &&
          (if bitAt leaf 6 then fld leaf 37 25 != fld leaf 24 12 && fld leaf 37 25 != s.pkgNo else fld leaf 37 25 == 0)
   | 2 => other && !bitAt leaf 3 && phys / 2 ^ 38 == 8 && s.admits pid phys
   | _ => false)

/-- The leaf that translates a virtual address for a process identifier at the station of a die (R259, R261, R262; bits 63 to 56 of the
address, which the 56-bit VA of R22 does not have, are not looked at: log 43): a cached one, or the one the walk finds, which the station then caches; its level is 3 unless it spans 1 GiB. -/
def findLeaf (s : State) (die pid : Nat) (va : Word) : Option (Nat × Word) × State :=
  if pid = 0 then (none, s)
  else
    let vpn := fld va 55 16
    match (s.dieAt die).tlb.find? (fun e => e.1 == vpn % 32 && e.2.pid.toNat == pid && decide (e.2.vpn ≤ vpn) &&
        decide (vpn < e.2.vpn + leafSpan e.2.leaf)) with
    | some e => (some (if fld e.2.leaf 9 8 = 2 then 2 else 3, e.2.leaf), s)
    | none =>
      match s.levelZero.find pid with
      | none => (none, s)
      | some t =>
        match walk s va 4 0 t with
        | none => (none, s)
        | some (lvl, leaf) =>
          if leafOk s pid lvl leaf va then
            let e : TlbEntry := { pid := BitVec.ofNat 12 pid, vpn := vpn / leafSpan leaf * leafSpan leaf, leaf := leaf }
            let keep (d : Die) :=
              if (d.tlb.filter (fun e => e.1 == vpn % 32)).length < 4096 then d.tlb
              else match d.tlb.findIdx? (fun e => e.1 == vpn % 32) with | some i => d.tlb.eraseIdx i | none => d.tlb
            (some (lvl, leaf), s.updDie die (fun d => { d with tlb := keep d ++ [(vpn % 32, e)] }))
          else (none, s)

/-- The kinds a translated address can have (R260). -/
inductive Target | moving | home (phys : Nat) | io (phys : Nat) | peer (pkg : Nat) (mpkg : Option Nat) (phys : Nat)
  deriving DecidableEq, Repr, Inhabited

/-- Translation of R261: none is a translation fault. `need` are leaf bits the access requires. -/
def translate (s : State) (die pid : Nat) (va : Word) (need : List Nat) : Option (Word × Target) × State :=
  match findLeaf s die pid va with
  | (none, t) => (none, t)
  | (some (lvl, leaf), t) =>
    if leafOk t pid lvl leaf va && need.all (bitAt leaf) then
      let phys := leafPhys leaf va
      (some (leaf, if bitAt leaf 7 then .moving
        else match fld leaf 11 10 with
          | 0 => .home phys
          | 1 => .peer (fld leaf 24 12) (if bitAt leaf 6 then some (fld leaf 37 25) else none) phys
          | _ => .io phys), t)
    else (none, t)

/-- The leaf bits of R260. -/
def lRD : Nat := 1
def lWR : Nat := 2
def lEX : Nat := 3
def lAT : Nat := 4
def lRAP : Nat := 5

end Sys2Proof.Machine
end

