-- ==== Sys2Proof/Machine/Formats.lean ====
section
/-! DEFINITION. Formats.lean: element formats of banks (R124 to R131), and vector lanes in formatted banks (R163 to R168). -/

namespace Sys2Proof.Machine

/-- What a bank format code says of its elements (R124, R162): moved raw, an integer, a float, a block-scaled float, or
bit-planes. -/
inductive EFmt
  | raw
  | int (bits : Nat) (signed : Bool)
  | flt (f : FFmt)
  | blk (f : FFmt)
  | bp8
  deriving DecidableEq, Repr, Inhabited

/-- The format of a code (R124). -/
def efmt : Nat → EFmt
  | 1 => .int 8 true
  | 2 => .int 8 false
  | 3 => .int 4 true
  | 4 => .bp8
  | 5 => .flt e4m3
  | 6 => .flt e5m2
  | 7 => .blk e4m3
  | 8 => .blk e2m1
  | 9 => .flt bf16
  | 10 => .flt fp16
  | 11 => .flt fp32
  | 12 => .int 32 true
  | _ => .raw

/-- Element width in bits (R124, R125); BP8 counts 8 over its planes. -/
def EFmt.bits : EFmt → Nat
  | .raw => 32
  | .int b _ => b
  | .flt f => f.width
  | .blk f => f.width
  | .bp8 => 8

/-- The value of an element's bits with its block scale byte (R128 to R131); a scale of 0xFF makes it NaN. -/
def EFmt.value (e : EFmt) (x scale : Nat) : Num :=
  match e with
  | .raw => Num.ofInt x
  | .int b sgn => Num.ofInt (if sgn then sxNat b x else x)
  | .bp8 => Num.ofInt (sxNat 8 x)
  | .flt f => f.val x
  | .blk f => if scale = 0xFF then .nan false else match f.val x with
    | .fin n a b ex => .fin n a b (ex + scale - 127)
    | v => v

/-- Convert(format, v) of R137 under RNE, with the block scale kept (R168): the element's bits and the flags. -/
def EFmt.encode (e : EFmt) (v : Num) (scale : Nat) : Nat × Flags :=
  match e with
  | .raw => (0, 0)
  | .int b sgn =>
    let r := toInteger 0 (if sgn then -(2 ^ (b - 1)) else 0) (if sgn then 2 ^ (b - 1) - 1 else 2 ^ b - 1) v
    ((BitVec.ofInt b r.1).toNat, r.2)
  | .bp8 => let r := toInteger 0 (-128) 127 v; ((BitVec.ofInt 8 r.1).toNat, r.2)
  | .flt f => convert f 0 v
  | .blk f =>
    if scale = 0xFF then ((f.qnan.getD 0), fNV)
    else convert f 0 (match v with | .fin n a b ex => .fin n a b (ex + 127 - scale) | v => v)

/-- Where a vector lane at an offset of a core's scratchpad finds its bytes (R165, R166): raw, or an element with the offset of
its (first) byte, its nibble, and the offset of its scale byte if it has one; an element outside the bank (BOUND), or one whose scale
would lie at an offset outside (BOUND at that address, R130). -/
inductive LaneLoc
  | bytes
  | elem (e : EFmt) (off : Nat) (high : Bool) (scale : Option Nat)
  | outside
  | noScale (addr : Nat)
  deriving DecidableEq, Repr, Inhabited

/-- The bank format register of an offset (R161, R162). -/
def Core.bfmtOf (k : Core) (off : Nat) : Word := (k.bfmt[off / 0x8000 % 16]?).getD 0

/-- See `LaneLoc`. -/
def Core.laneLoc (k : Core) (off : Nat) (t : VTy) : LaneLoc :=
  let w := k.bfmtOf off
  let e := efmt (fld w 4 0)
  let same : Bool := match e with
    | .raw => true
    | .bp8 => true
    | .flt f => f == fp32 && t == .f32
    | .int 32 _ => t != .f32
    | _ => false
  if e = .raw ∨ e = .bp8 then .bytes
  else
    let j := fld w 35 32 * 8192 + off % 0x8000 / 4
    if 262144 / e.bits ≤ j then .outside
    else if same then .bytes
    else
      let bank := off / 0x8000 * 0x8000
      let at_ := bank + j * e.bits / 8
      match e with
      | .blk _ =>
        let sc := fld w 26 12 + j / 24
        if 0x8000 ≤ sc then .noScale (fld w 11 8 * 0x8000 + sc) else .elem e at_ (e.bits == 4 && j % 2 == 1) (some (fld w 11 8 * 0x8000 + sc))
      | _ => .elem e at_ (e.bits == 4 && j % 2 == 1) none

/-- The byte range that a lane touches. -/
def LaneLoc.range (l : LaneLoc) (off : Nat) : Nat × Nat :=
  match l with
  | .bytes => (off, 4)
  | .elem e o _ _ => (o, (e.bits + 7) / 8)
  | .outside | .noScale _ => (off, 0)

/-- The checks of one lane at its home (R121, R164, R166, R167, R171, R179): the cause of a refusal. `v` is the lane to store. The resident bank and
the poison, which R121 gives no place for a lane of the own scratchpad, come after LOCK and before ABN (log 60). -/
def laneCheck (s : State) (cid off : Nat) (t : VTy) (v : Option (BitVec 32)) (sys : Bool) : Option Cause :=
  let l := (s.coreAt cid).laneLoc off t
  match l with
  | .outside | .noScale _ => some .bound
  | _ =>
    let (o, n) := l.range off
    match homeCheck s cid o n v.isSome sys with
    | .error (c, _) => some c
    | .ok () =>
      match l with
      | .elem _ _ _ sc =>
        let bad := match sc with
          | some so => (match homeCheck s cid so 1 false sys with | .error (c, _) => some c | .ok () => none)
          | none => none
        match bad with
        | some c => some c
        | none => if v.any (fun x => t == .f32 && isAbn x) then some .abn else none
      | _ => none

/-- TVAL of a lane refused at its home: the lane's address (R121), and for a scale outside its bank the LOCAL address of the scale (R130). -/
def Core.laneTval (k : Core) (off : Nat) (t : VTy) (c : Cause) (va : Word) : Word :=
  match c, k.laneLoc off t with
  | .bound, .noScale x => BitVec.ofNat 64 x
  | _, _ => va

/-- The lane value of a load at its home (R166, R167, R168), with its flags. DESIGN CHOICE (log 68): an I32 or U32 load of an FP32 element of the
ABN payload class converts it as the NaN it is, to 0 with NV; R134 and R167 give a load lane no ABN. -/
def laneRead (s : State) (cid off : Nat) (t : VTy) : BitVec 32 × Flags :=
  match (s.coreAt cid).laneLoc off t with
  | .elem e o hi sc =>
    let raw := s.numAt (spad cid o) ((e.bits + 7) / 8)
    let x := if e.bits = 4 then (if hi then raw / 16 else raw % 16) else raw
    let scale := match sc with | some so => s.numAt (spad cid so) 1 | none => 127
    let v := e.value x scale
    match t with
    | .f32 => toF32 0 (v, 0)
    | .i32 => let r := toInteger 0 (-(2 ^ 31)) (2 ^ 31 - 1) v; (BitVec.ofInt 32 r.1, r.2)
    | .u32 => let r := toInteger 0 0 (2 ^ 32 - 1) v; (BitVec.ofInt 32 r.1, r.2)
  | _ => (BitVec.ofNat 32 (s.numAt (spad cid off) 4), 0)

/-- Stores a lane at its home (R167, R168): the state and the flags; a 4-bit element leaves the other nibble. -/
def laneWrite (s : State) (lid : Word) (cid off : Nat) (t : VTy) (v : BitVec 32) : State × Flags :=
  match (s.coreAt cid).laneLoc off t with
  | .elem e o hi sc =>
    let scale := match sc with | some so => s.numAt (spad cid so) 1 | none => 127
    let x := match t with | .f32 => f32Val v | .i32 => Num.ofInt v.toInt | .u32 => Num.ofInt v.toNat
    let (bits, f) := e.encode x scale
    let old := s.numAt (spad cid o) 1
    let new := if e.bits = 4 then (if hi then old % 16 + bits * 16 else old / 16 * 16 + bits) else bits
    (s.store lid (spad cid o) (leBytes ((e.bits + 7) / 8) new), f)
  | _ => ((s.unpoison (spad cid off) 4).store lid (spad cid off) (leBytes 4 v.toNat), 0)

/-! ## Quantising a block (R132, R133) -/

/-- The flush of R133: an element whose rounded value is subnormal becomes a zero of its sign, with UF and NX. -/
def flushSub (f : FFmt) (r : Nat × Flags) : Nat × Flags :=
  let x := r.1 % 2 ^ (f.ebits + f.p)
  if x / 2 ^ f.p = 0 ∧ x ≠ 0 then (r.1 - x, r.2 ||| fUF ||| fNX) else r

/-- Quantises up to 24 values to a scale and elements (R132); `flush` for an engine drain. -/
def quantBlock (f : FFmt) (flush : Bool) (vs : List Num) : Nat × List Nat × Flags :=
  if vs.any Num.isNan then
    (0xFF, vs.map (fun _ => f.qnan.getD 0), if vs.any Num.isSig then fNV else 0)
  else
    let logs := vs.filterMap (fun v => match v with | .fin _ a b e => some (floorLog2 a b e) | _ => none)
    let emax : Int := if f.ebits = 4 then 8 else 2
    let x : Nat := match logs with
      | [] => 127
      | l :: t => (satInt (t.foldl max l - emax + 127) 0 254).toNat
    let rs := vs.map (fun v =>
      let r := convert f 0 (match v with | .fin n a b e => .fin n a b (e - (x - 127)) | v => v)
      if flush then flushSub f r else r)
    (x, rs.map (·.1), rs.foldl (fun g r => g ||| r.2) 0)

end Sys2Proof.Machine
end

