-- ==== Sys2Proof/Machine/Queue.lean ====
section
/-! DEFINITION. Queue.lean: the store queue of a context (R177), and the own scratchpad as the context itself sees it (R110, R173, R179). -/

namespace Sys2Proof.Machine

/-! ## Performing a queued store -/

/-- A queued store is performed at the banks of core cid (R168, R174, R177, R179). -/
def State.perform (s : State) (cid : Nat) (e : QStore) : State :=
  match e.kind with
  | .bytes => (s.unpoison (spad cid e.off) e.bytes.length).store e.lid (spad cid e.off) e.bytes
  | .gran => (s.unpoison (spad cid e.off) e.bytes.length).storeGran e.lid (spad cid e.off) e.bytes
  | .lane t v => (laneWrite s e.lid cid e.off t v).1

/-- The oldest queued store of context g is performed (R177); when, is free (log 54). -/
def State.drain (s : State) (g : Nat) : State :=
  match (s.ctxAt g).storeq with
  | [] => s
  | e :: rest => (s.updCtx g (fun c => { c with storeq := rest })).perform (g / 4) e

/-- Memory as context g sees it (R177): with its queued stores performed. -/
def State.view (s : State) (g : Nat) : State := (s.ctxAt g).storeq.foldl (fun t e => t.perform (g / 4) e) s

/-- Memory as the current context sees it. -/
def State.mine (s : State) : State := s.view s.cur

/-- The current context queues a store to its own scratchpad (R177). -/
def State.queueStore (s : State) (e : QStore) : State := s.updMe (fun c => { c with storeq := c.storeq ++ [e] })

/-- The offset and the length of what a queued store writes in the scratchpad of core k. -/
def QStore.range (k : Core) (e : QStore) : Nat × Nat :=
  match e.kind with
  | .lane t _ => (k.laneLoc e.off t).range e.off
  | _ => (e.off, e.bytes.length)

/-- Whether a queued store of context g meets the bytes [off, off + n). -/
def State.queueMeets (s : State) (g off n : Nat) : Bool :=
  (s.ctxAt g).storeq.any (fun e =>
    let r := e.range (s.coreAt (g / 4))
    decide (r.1 < off + n ∧ off < r.1 + r.2))

/-- How many bytes a piece with the end of a value's head reads at once (R160): the whole value, as far as the granule goes, when it is no
longer than `max`; else the head's bytes. `head` are the bytes of the piece, the last of which carries LQ. -/
def Piece.fvSpan (p : Piece) (max head : Nat) : Nat :=
  let len := head / 256 ^ (p.n - 1) % 32 + 1
  if p.part + p.n < 4 ∨ 28 < len ∨ max < 4 + len then p.n else Nat.min (4 + len - p.part) (32 - p.va.toNat % 32)

/-- Whether a queued store of context g meets what a piece in its own scratchpad reads, the rest of a value that is read with its head included
(R160, R177). -/
def State.pieceQueued (s : State) (g : Nat) (k : AccKind) (p : Piece) : Bool :=
  let off := p.va.toNat % 2 ^ 19
  s.queueMeets g off p.n ||
    (match k with | .loadFv max => s.queueMeets g off (p.fvSpan max (s.numAt (spad (g / 4) off) p.n)) | _ => false)

/-- Whether a queued store of any context of a core meets those bytes. -/
def State.anyQueued (s : State) (cid off n : Nat) : Bool := (List.range 4).any (fun i => s.queueMeets (4 * cid + i) off n)

/-- Whether the current context has a queued store: what the K cells of R177 and R253 order behind its stores waits. -/
def State.queueOut (s : State) : Bool := !s.me.storeq.isEmpty

/-! ## Stream messages (R282) -/

/-- A message of a stream of a context's firing: an M of R81, which later accesses follow. -/
def Packet.ofStream (p : Packet) (g fire : Nat) : Bool := p.from_ == g && p.fire == fire && p.msg && p.reply.isNone

/-- A stream message of context g, sent before number `before`, is not accepted yet. -/
def State.streamOut (s : State) (g fire before : Nat) : Bool :=
  s.net.any (fun m => decide (m.id < before) && (match m.body with | .packet p => p.ofStream g fire | _ => false)) ||
  (s.cluAt (g / 64)).returned.any (fun p => decide (p.id < before) && p.ofStream g fire)

/-- A message of the context's stream has not been accepted yet. -/
def State.streamBusy (s : State) (g : Nat) : Bool := s.streamOut g (s.ctxAt g).fire s.nextId

/-- A load of the current context that is on its way reads its own scratchpad, or may do so with the rest of a value (R160): later accesses to
it wait (R81). -/
def State.nearLoad (s : State) : Bool :=
  s.net.any (fun m => m.g == s.cur && m.fire == s.me.fire && m.pending && (match m.body with
    | .acc a => !a.kind.stores && decide (a.space < 2) && a.pieces.any (fun p => s.isOwn a.space p.va ||
        (match a.kind with | .loadFv _ => s.isOwn a.space (p.va + BitVec.ofNat 64 (32 - p.va.toNat % 32)) | _ => false))
    | _ => false))

/-- Something that every later access of the current context follows is not performed yet: a .NR atomic, a stream message, or a load that
reads its own scratchpad (R81, R232, R253, R266, R282, R291). -/
def State.gate (s : State) : Bool := s.nrOut || s.streamBusy s.cur || s.nearLoad

/-! ## The own scratchpad -/

/-- The checks of an access of the current context to its own scratchpad, which trap (R110, R173, R179). -/
def ownCheck (s : State) (a : Word) (n : Nat) (write : Bool) : Ex Unit :=
  let off := a.toNat % 2 ^ 19
  if s.gate then .error (.stall s)
  else match homeCheck s.mine s.cid off n write (s.me.level == .system) with
  | .ok () => .ok ()
  | .error (c, o) => .error (.trap c (asAddr a off o))

/-- Reads n bytes of the own scratchpad at an address: a byte of a queued store as it was stored (R110, R173, R177). -/
def ownRead (s : State) (a : Word) (n : Nat) : List Byte := s.mine.bytesAt (spad s.cid (a.toNat % 2 ^ 19)) n
/-- Stores bytes to the own scratchpad through the store queue (R110, R173, R177). -/
def ownWrite (s : State) (a : Word) (bs : List Byte) : State :=
  s.queueStore { lid := s.me.lid, off := a.toNat % 2 ^ 19, bytes := bs }

end Sys2Proof.Machine
end

