-- ==== Sys2Proof/Machine/Phaser.lean ====
section
/-! DEFINITION. Phaser.lean: what the cluster unit does to a phaser (R237 to R240): signals, completion of a phase, dropping a
member. The instructions are in Cluster.lean. -/

namespace Sys2Proof.Machine

/-- The combine operations (R237); op 0 gives 0. -/
def phaserOp (op : Nat) (x y : Word) : Word :=
  match op with
  | 1 => x + y
  | 2 => if x.toInt ≤ y.toInt then x else y
  | 3 => if x.toInt ≤ y.toInt then y else x
  | 4 => if x.toNat ≤ y.toNat then x else y
  | 5 => if x.toNat ≤ y.toNat then y else x
  | 6 => x &&& y
  | 7 => x ||| y
  | _ => 0

/-- A member's contribution to the open phase: its flag is set, its mark becomes the open phase, which clears the completed
bit (R237, R239). -/
def Phaser.contribute (p : Phaser) (g : Nat) (v : Word) : Phaser :=
  { p with
    run := if p.op = 0 then p.run else some (match p.run with | none => v | some r => phaserOp p.op r v)
    members := p.members.map (fun m =>
      if m.g = g then { m with counts := true, flag := true, mark := p.phase, completed := false, waited := false } else m) }

/-- Whether the open phase is complete: every member that signals and counts has signalled, and there is one (R238). -/
def Phaser.ready (p : Phaser) : Bool :=
  let sigs := p.members.filter (fun m => m.mode != 2 && m.counts)
  !sigs.isEmpty && sigs.all (·.flag)

/-- Completes the open phase (R238): the result, the next phase, the flags cleared, the waiters released, and the held
one-ahead signals applied in arrival order. -/
def Phaser.complete (p : Phaser) : Phaser :=
  let res := if p.op = 0 then 0 else p.run.getD 0
  let q : Phaser := { p with
    phase := p.phase + 1
    run := none
    last := res
    held := []
    members := p.members.map (fun m =>
      let m := { m with counts := true, flag := false }
      if m.mode != 1 && m.mark == p.phase && !m.completed then { m with completed := true, val := res } else m) }
  p.held.foldl (fun q h => q.contribute h.1 h.2) q

/-- Completes phases while the open one is complete; the count says how many. -/
def Phaser.settle : Nat → Phaser → Phaser × Nat
  | 0, p => (p, 0)
  | k + 1, p => if p.ready then let r := Phaser.settle k p.complete; (r.1, r.2 + 1) else (p, 0)

/-- The member that a context is. -/
def Phaser.member (p : Phaser) (g : Nat) : Option Member := p.members.find? (·.g == g)

/-- Stores a phaser back after a request; a phaser without members is free (R237). An advance sets the event bits of the
members (R60) and counts as progress (R250). -/
def State.putPhaser (s : State) (cl n : Nat) (p : Phaser) : State :=
  let r := Phaser.settle 65 p
  let q := if r.1.members.isEmpty then {} else r.1
  let t := s.updClu cl (fun u => { u with phasers := u.phasers.put n q, hang := if r.2 = 0 then u.hang else 0 })
  if r.2 = 0 then t else p.members.foldl (fun t m => t.updCtx m.g (fun c => { c with event := true })) t

/-- The phaser n of a cluster. -/
def State.phaser (s : State) (cl n : Nat) : Phaser := (s.cluAt cl).phasers.get {} n

/-- Drops a membership (R239, R240): the member stops counting, and a signal it holds one ahead goes with it. -/
def State.dropMember (s : State) (g n : Nat) : State :=
  let p := s.phaser (g / 64) n
  s.putPhaser (g / 64) n { p with members := p.members.filter (·.g != g), held := p.held.filter (·.1 != g) }

/-- Drops every membership of a context (R240). -/
def State.dropMembers (s : State) (g : Nat) : State :=
  (s.cluAt (g / 64)).phasers.foldl (fun s e => if (e.2.member g).isSome then s.dropMember g e.1 else s) s

/-- Withdraws a held one-ahead signal of a context (R239: the wait ended in a trap). -/
def State.withdraw (s : State) (g : Nat) : State :=
  s.updClu (g / 64) (fun u =>
    { u with phasers := u.phasers.map (fun e => (e.1, { e.2 with held := e.2.held.filter (·.1 != g) })) })

end Sys2Proof.Machine
end

