-- ==== Sys2Proof/Machine/GroupUnit.lean ====
section
/-! DEFINITION. GroupUnit.lean: sending, and the coordinator of group commits (R395, R401, R405): what the group unit does between
the steps of a GCOMMIT or GABORT. The instructions and the destinations are in Groups.lean. -/

namespace Sys2Proof.Machine

/-- Sends something for a context's firing that may have ended: it gets the next number and joins what is in flight. -/
def State.sendAs (s : State) (g fire : Nat) (b : Body) (st : Stage := .new) : State :=
  { s with
    net := s.net ++ [{
      id := s.nextId, g := g, fire := fire, lid := (s.ctxAt g).lid, pid := (s.ctxAt g).pid.toNat, body := b, stage := st }]
    nextId := s.nextId + 1 }

/-- Sends something for the firing that a context holds. -/
def State.send (s : State) (g : Nat) (b : Body) (st : Stage := .new) : State := s.sendAs g (s.ctxAt g).fire b st

/-- The gid of a group (R395). -/
def gidOf (pkg index gen : Nat) : Nat := index + pkg * 2 ^ 10 + gen * 2 ^ 23

/-- The group that a gid names, with its index (R395). -/
def State.groupOf (s : State) (gid : Nat) : Option (Nat × Group) :=
  let i := gid % 1024
  match s.groups.find i with
  | some x => if x.st ≠ .free ∧ gid = gidOf s.pkgNo i x.gen then some (i, x) else none
  | none => none

/-- Changes a group. -/
def State.updGroup (s : State) (i : Nat) (f : Group → Group) : State := { s with groups := s.groups.put i (f (s.groups.get {} i)) }

/-- Frees a group's index (R401). -/
def Group.freed (x : Group) : Group := { gen := x.gen }

/-- The destinations of a group, as package × 32 + port. -/
def Group.dests (x : Group) : List Nat := x.sent.map (·.1)

/-- Whether something in flight is a store, or an atomic that returns no value, of a context's firing (R383, R401). -/
def Msg.isStoreOf (m : Msg) (g fire : Nat) : Bool :=
  m.g == g && m.fire == fire && (match m.body with
    | .acc a => (match a.kind with | .store | .storeGran | .storeLane _ => true | _ => false)
    | .atom a => a.nr
    | _ => false)

/-- Something in flight is an .NR atomic of a context's firing that was merged into another (R270). -/
def Msg.mergedOf (m : Msg) (g fire : Nat) : Bool :=
  match m.body with | .atom a => a.also.any (fun e => e.g == g && e.fire == fire) | _ => false

/-- Whether a cluster, DEVICE or peer store or an .NR atomic of a context's firing is not acknowledged (R383, R401). -/
def State.storesOut (s : State) (g fire : Nat) : Bool := s.net.any (fun m => m.isStoreOf g fire || m.mergedOf g fire)

/-- Stores of a group whose packets have not ended. -/
def State.stgOut (s : State) (gid : Nat) : Nat :=
  (s.net.filter (fun m => match m.body with | .stg x => x.gid == gid | _ => false)).length

/-- Sends the same to every destination of a group. -/
def State.tell (s : State) (i : Nat) (op : Nat → GroupOp) : State :=
  let x := s.groups.get {} i
  x.sent.foldl (fun s d => s.sendAs x.g x.fire (.group (op d.2) (gidOf s.pkgNo i x.gen) (d.1 / 32) (d.1 % 32))) s

/-- The coordinator tries to write a decision into the record (R396). -/
def State.groupDecide (s : State) (i tried reason : Nat) : State :=
  let t := s.updGroup i (fun x => { x with step := .deciding, tried := tried, reason := reason })
  let x := t.groups.get {} i
  t.sendAs x.g x.fire (.group (.cas tried) (gidOf t.pkgNo i x.gen) x.record.1 0)

/-- The coordinator starts, once the stores of the group are acknowledged or ended (R401, R405). -/
def State.groupStart (s : State) (i : Nat) : State :=
  let x := s.groups.get {} i
  if x.gabort then s.groupDecide i 2 0
  else if x.sent.isEmpty then s.groupDecide i 1 0
  else if x.doomed then s.groupDecide i 2 1
  else (s.updGroup i (fun x => { x with step := .prepared, since := s.cyc.toNat })).tell i GroupOp.prepare

/-- A group that is done leaves: freed when every destination has acknowledged or is lost, draining otherwise (R401). -/
def State.groupLeave (s : State) (i : Nat) : State :=
  s.updGroup i (fun x => if x.dests.all (fun d => x.acked.contains d || s.peerTable.contains (d / 32)) then x.freed else { x with st := .draining })

/-- The result of GCOMMIT (R401); GABORT gives 0 (R405), and so does GCOMMIT of a group without destinations. -/
def Group.result (x : Group) : Word :=
  let total := x.dests.length
  let missing := (x.dests.filter (fun d => !x.acked.contains d)).length
  if x.gabort || x.sent.isEmpty then 0 else BitVec.ofNat 64 ((if x.tried = 1 then 0 else x.reason) + missing % 256 * 2 ^ 8 + total % 256 * 2 ^ 16)

/-- The outcome has been told as far as it can be: the owner's instruction takes the result, or nobody does (R404, R407). -/
def State.groupFinish (s : State) (i : Nat) : State :=
  let t := s.updGroup i (fun x => { x with step := .finished x.result })
  if (s.groups.get {} i).auto then t.groupLeave i else t

/-- The value that the record holds after the CAS is the outcome (R396, R401); a GABORT sends ABORT whatever it is (R405). -/
def State.groupDecided (s : State) (i v : Nat) : State :=
  let out := if v = 1 ∧ !(s.groups.get {} i).gabort then 1 else 2
  let t := s.updGroup i (fun x => { x with
    tried := out, reason := if x.tried = 1 ∧ out = 2 then 2 else x.reason, step := .telling, since := s.cyc.toNat })
  if (t.groups.get {} i).sent.isEmpty then t.groupFinish i
  else t.tell i (fun _ => if out = 1 then .publish else .abort)

/-- The coordinator goes on if it can. Where the owner's instruction is gone (`auto`), it does what that did: it waits for the stores, and where
the record could not be reached it tries again, until the destinations have resolved the group (R403, R404, R407). -/
def State.groupPoke (s : State) (i : Nat) : State :=
  let x := s.groups.get {} i
  match x.step with
  | .gather => if x.st = .committing ∧ x.auto ∧ s.stgOut (gidOf s.pkgNo i x.gen) = 0 then s.groupStart i else s
  | .settle => if x.auto ∧ !s.storesOut x.g x.fire then s.groupStart i else s
  | .lost => if !x.auto then s else if x.dests.all x.acked.contains then s.groupFinish i else s.groupDecide i x.tried x.reason
  | .prepared =>
    if x.dests.all (fun d => (x.answers.find d).isSome) then
      (if x.dests.all (fun d => x.answers.get false d) then s.groupDecide i 1 0 else s.groupDecide i 2 1)
    else s
  | .telling => if x.dests.all x.acked.contains then s.groupFinish i else s
  | _ => s

/-- Aborts the open groups of a firing; a commit that is past its first wait is completed by the coordinator (R76, R404, R407). -/
def State.abortGroupsOf (s : State) (g fire : Nat) : State :=
  s.groups.foldl (fun s e =>
    let x := e.2
    if x.g = g ∧ x.fire = fire then
      match x.st, x.step with
      | .opened, _ | .committing, .gather | .committing, .lost =>
        (s.updGroup e.1 (fun x => { x with st := .committing, step := .gather, auto := true, gabort := true })).groupPoke e.1
      | .committing, .finished _ => s.groupLeave e.1
      | .committing, _ => s.updGroup e.1 (fun x => { x with auto := true })
      | _, _ => s
    else s) s

/-- A GCOMMIT or GABORT of a context ends with a trap that is not its own (log 55): before anything has been sent the group is open again;
later the coordinator goes on alone. -/
def State.leaveGroups (s : State) (g : Nat) : State :=
  s.groups.foldl (fun s e =>
    let x := e.2
    if x.g = g ∧ x.fire = (s.ctxAt g).fire ∧ x.st = .committing ∧ !x.auto then
      match x.step with
      | .gather | .settle => s.updGroup e.1 (fun x => { x with st := .opened, step := .gather, gabort := false })
      | .finished _ => s.groupLeave e.1
      | .lost => s
      | _ => s.updGroup e.1 (fun x => { x with auto := true })
    else s) s

/-- Aborts the open groups of the firing that a context holds. -/
def State.abortGroups (s : State) (g : Nat) : State := s.abortGroupsOf g (s.ctxAt g).fire

end Sys2Proof.Machine
end

