-- ==== Sys2Proof/Machine/Ends.lean ====
section
/-! DEFINITION. Ends.lean: what ends with a firing: leases and range locks of engine operations (R171, R206), streams (R283),
queries, groups and phaser memberships (R76, R240), fault messages (R64), and abandoning a firing (R76). -/

namespace Sys2Proof.Machine

/-- Releases the range locks of an operation, in every core (R171). -/
def State.unlock (s : State) (key : Nat) : State :=
  { s with cores := s.cores.map (fun e =>
      (e.1, { e.2 with locks := e.2.locks.map (fun l => l.bind (fun l => if l.key = key then none else some l)) })) }

/-- Ends the lease of every LEASED register of a context: FULL with the value the engine left (R206). -/
def Ctx.endLeases (c : Ctx) : Ctx :=
  { c with regs := c.regs.map (fun r => if r.pres = .leased then { r with pres := .full } else r) }

/-- The operation was issued by a firing of a context (tile tasks belong to no firing). -/
def EOp.mine (e : EOp) (g fire : Nat) : Bool := e.g == g && e.fire == fire && e.task.isNone

/-- Discards a context's engine operations and program as MSTAT.ABORT does, ends its leases and releases its locks (R76, R206). An
operation that is running ends by itself, with its locks (R171). -/
def State.dropEngine (s : State) (g : Nat) : State :=
  let fire := (s.ctxAt g).fire
  let stays (e : EOp) : Bool := e.started && !e.fin && e.susp.isNone
  let gone := (s.coreAt (g / 4)).equeue.filter (fun e => e.mine g fire && !stays e)
  let t := gone.foldl (fun t e => t.unlock e.id) s
  (t.updCore (g / 4) (fun c => { c with equeue := c.equeue.filter (fun e => !e.mine g fire || stays e) })).updCtx g
    (fun c => { c.endLeases with prog := none })

/-- Releases the STR links of a stream (R283). -/
def State.dropLinks (s : State) (x : Option Stream) : State :=
  match x with
  | some x => { s with strLinks := s.strLinks.filter (fun e => e.2 != x.key) }
  | none => s

/-- Releases a context's stream with its STR links (R283). -/
def State.dropStream (s : State) (g : Nat) : State :=
  (s.dropLinks (s.ctxAt g).stream).updCtx g (fun c => { c with stream := none })

/-- The end event of a query (R317, R318): kind 1 when nothing was withheld, kind 2 otherwise; owners that have not sent done count as
withheld. -/
def Query.endEvent (q : Query) : Quad :=
  let w := q.withheld + (if q.started then q.pending.length else q.owners.length)
  BitVec.ofNat 128 (q.delivered % 2 ^ 32 + q.owners.length % 2 ^ 16 * 2 ^ 32 + w % 2 ^ 16 * 2 ^ 48 + (if w = 0 then 1 else 2) * 2 ^ 120)

/-- The key of a field: its process identifier and its number (R296). -/
def fieldKey (pid fld : Nat) : Nat := pid * 256 + fld

/-- Changes the home of a field. -/
def State.updHome (s : State) (k : Nat) (f : Home → Home) : State := { s with homes := s.homes.put k (f (s.homes.get {} k)) }

/-- Coordinates, owning dimensions and record size of a bound field (R292, R297). -/
def FSlot.crd (f : FSlot) : Nat := fld f.word 15 12
def FSlot.dim (f : FSlot) : Nat := fld f.word 11 10
def FSlot.size (f : FSlot) : Nat := 32 * 2 ^ fld f.word 17 16
def FSlot.num (f : FSlot) : Nat := fld f.word 9 2
def FSlot.bound (f : FSlot) : Bool := bitAt f.word 0

/-- Whether a core holds a copy of a record in any state (R299). -/
def Core.hasCopy (k : Core) (pid n : Nat) (h : Word) : Bool :=
  k.fslots.toList.any (fun f => f.bound && f.pid == pid && f.num == n && k.pool.any (fun e => e.2.handle == h && f.banks.contains (e.1 / 0x8000)))

/-- Whether a copy of a record remains, be it in the pool of a saved launch (R292). -/
def State.hasCopy (s : State) (pid n : Nat) (h : Word) : Bool :=
  s.cores.any (fun e => e.2.hasCopy pid n h) || s.launches.any (fun l => l.saved.any (fun c => c.cores.any (fun e => e.2.hasCopy pid n h)))

/-- The entries of deleted handles of which no copy remains leave a field's directory: they are free for reuse (R292). -/
def State.pruneDir (s : State) (pid n : Nat) : State :=
  s.updHome (fieldKey pid n) (fun h => { h with dir := h.dir.filter (fun e => !e.2.2 || s.hasCopy pid n e.1) })

/-- The same for every field. -/
def State.pruneDirs (s : State) : State := s.homes.foldl (fun t e => t.pruneDir (e.1 / 256) (e.1 % 256)) s

/-- Whether the spatial unit may write a slot now: it waits while a byte is range-locked (R298, R171). -/
def State.unlocked (s : State) (cid off n : Nat) : Bool := ((s.coreAt cid).lockedAt off n).isNone

/-- Frees a pool slot: it is written with zero (R298), unless it lies in a resident bank, which the unit may not write (R164; log 29). -/
def State.freeSlotAt (s : State) (f : FSlot) (cid off : Nat) : State :=
  (s.edgeWrite cid off (List.replicate f.size 0)).updCore cid (fun k => { k with pool := k.pool.drop off })

/-- A pool slot whose tombstone no active query pins is freed, unless a byte of it is locked (R308, R298). -/
def State.reclaim (s : State) (f : FSlot) (cid off : Nat) (p : PoolSlot) : State :=
  if p.st = .tomb ∧ (s.homes.get {} (fieldKey f.pid f.num)).queries.all (fun e => decide (p.died ≤ e.2)) ∧ s.unlocked cid off f.size
  then (s.freeSlotAt f cid off).pruneDir f.pid f.num else s

/-- The tombstones of a field that are pinned no longer are freed (R308). -/
def State.reclaimField (s : State) (pid n : Nat) : State :=
  s.cores.foldl (fun t e => (e.2.fslots.toList.filter (fun f => f.bound && f.pid == pid && f.num == n)).foldl (fun t f =>
    (e.2.pool.filter (fun p => f.banks.contains (p.1 / 0x8000))).foldl (fun t p => t.reclaim f e.1 p.1 p.2) t) t) s

/-- Whether something in flight is a visit or a stop of a query of a context. -/
def Msg.isVisit (m : Msg) (g q : Nat) : Bool :=
  m.g == g && (match m.body with | .sp x => (match x.op with | .visit n _ | .stop n => n == q | _ => false) | _ => false)

/-- A query of a context is to end (R318): the owners that it visits are told to stop. -/
def State.stopQuery (s : State) (g q : Nat) : State :=
  match (s.ctxAt g).queries.find q with
  | none => s
  | some x =>
    if x.acks.isSome then s
    else
      let to_ := if x.started then x.owners else []
      to_.foldl (fun t o => t.send g (.sp { op := .stop q, fld := x.fld, desc := x.desc, home := x.home, owner := o }))
        (s.updCtx g (fun c => { c with queries := c.queries.put q { x with acks := some to_ } }))

/-- Whether a query waits for owners to acknowledge its stop. -/
def State.stopping (s : State) (g q : Nat) : Bool :=
  match (s.ctxAt g).queries.find q with | some x => x.acks != some [] | none => false

/-- Closes a query of a context (R318): the active-query slot is freed, with the tombstones that it pinned, and a pending SQTAKE receives the
end event. -/
def State.closeQuery (s : State) (g q : Nat) : State :=
  match (s.ctxAt g).queries.find q with
  | none => s
  | some x =>
    let pid := (s.ctxAt g).pid.toNat
    let t := (s.updHome (fieldKey pid x.fld) (fun h => { h with queries := h.queries.drop x.slot })).reclaimField pid x.fld
    let t : State := { t with net := t.net.filter (fun m => !m.isVisit g q) }
    t.updCtx g (fun c =>
      let c := { c with queries := c.queries.drop q }
      match c.take with
      | some (k, n) => if n = q then { (c.setRegAt k { bits := x.endEvent }) with take := none } else c
      | none => c)

/-- Closes every open query of a context (R318, R76). -/
def State.closeQueries (s : State) (g : Nat) : State := (s.closeQuery g 0).closeQuery g 1

/-- The cluster supervisor of a core (R58): core 0 of the cluster, or core 1 when it is core 0 itself. -/
def supervisor (cid : Nat) : Nat := cid / 16 * 16 + (if cid % 16 = 0 then 1 else 0)

/-- The mesh neighbour of a core in a direction (R17, R103). -/
def neighbour (cid : Nat) (d : Dir) : Option Nat :=
  let die := cid / 256
  let col := cid / 16 % 4 * 4 + cid % 4
  let row := cid / 64 % 4 * 4 + cid / 4 % 4
  let at_ (c r : Nat) : Nat := die * 256 + (r / 4 * 4 + c / 4) * 16 + (r % 4 * 4 + c % 4)
  match d with
  | .n => if row = 0 then none else some (at_ col (row - 1))
  | .e => if col = 15 then none else some (at_ (col + 1) row)
  | .s => if row = 15 then none else some (at_ col (row + 1))
  | .w => if col = 0 then none else some (at_ (col - 1) row)

/-- The 32 bytes of a fault message (R64). -/
def faultBytes (g kind : Nat) (cause : Nat) (pc : PcAddr) (lid cyc : Word) : List Byte :=
  leBytes 2 (g / 4 + g % 4 * 2 ^ 11) ++ [BitVec.ofNat 8 kind, BitVec.ofNat 8 cause] ++ leBytes 4 0 ++
  leBytes 8 pc.toNat ++ leBytes 8 lid.toNat ++ leBytes 8 cyc.toNat

/-- A fault message as a packet for tag 15 of a core (R64); the pc it names is the context's present one, which is the last pc of the
firing: in a trap handler TPC is not sent (log 44). -/
def faultPacket (g to_ : Nat) (bs : List Byte) : Packet :=
  { from_ := g, to_ := to_, tag := 15, bytes := bs }

/-- Sends a fault message (R58, R64): to the supervisor, for a missed heartbeat also to the mesh neighbours, and a copy to the
command processor. -/
def State.faultMsg (s : State) (g kind cause : Nat) (pc : PcAddr) : State :=
  let bs := faultBytes g kind cause pc (s.ctxAt g).lid s.cyc
  let to_ := supervisor (g / 4) :: (if kind = 1 then [Dir.n, .e, .s, .w].filterMap (neighbour (g / 4)) else [])
  (to_.foldl (fun s c => s.send g (.packet (faultPacket g c bs))) s).send g (.faultCopy bs)

/-- What stays of a context when its firing ends: the generation counters, the copy and reduction requests that still run, and the
stores that wait in its queue (R56, R76, R177). -/
def Ctx.freed (c : Ctx) : Ctx :=
  { fire := max (c.fire + 1) c.floor
    storeq := c.storeq
    copies := c.copies.map (fun e => (e.1, if e.2.held && e.2.doneAt.isNone then { e.2 with orphan := true } else { gen := e.2.gen }))
    reds := c.reds.map (fun e => (e.1, if e.2.held && !e.2.landed then { e.2 with orphan := true } else { gen := e.2.gen })) }

/-- A copy whose issue has not come to its end is undone: nothing has been issued (R275). -/
def State.unissue (s : State) (g : Nat) : State :=
  let mine := (s.ctxAt g).copies.filter (fun e => e.2.held && !e.2.queued)
  if mine.isEmpty then s
  else (mine.foldl (fun t e => t.unlock e.2.key) s).updCtx g (fun c =>
    { c with copies := c.copies.map (fun e => (e.1, if e.2.held && !e.2.queued then { gen := e.2.gen } else e.2)) })

/-- The keys of the operations of a context's firing that have ended without being joined: copies, reductions and tile tasks. -/
def State.endedKeys (s : State) (g : Nat) : List Nat :=
  let c := s.ctxAt g
  (c.copies.filter (fun e => e.2.held && e.2.doneAt.isSome)).map (·.2.key) ++ (c.reds.filter (fun e => e.2.held && e.2.landed)).map (·.2.key) ++
  ((s.cluAt (g / 64)).tasks.filter (fun t => t.g == g && t.fire == c.fire && !t.joined &&
    (match t.st with | .pending => false | .running _ => false | _ => true))).map (·.key)

/-- Whether something in flight is a posted request of context g that was cut at a link, or whose acknowledgement was (R252). -/
def Msg.isLost (m : Msg) (g : Nat) : Bool := m.g == g && m.stage == .lost

/-- The end common to FIN and abandonment: memberships, receives, the stream, queries and groups go, what has ended releases its range
locks, and the context is free (R76, R171, R240). -/
def State.freeCtx (s : State) (g : Nat) : State :=
  let t := (s.endedKeys g).foldl State.unlock (s.unissue g)
  let t := ((((t.dropMembers g).dropStream g).closeQueries g).abortGroups g).updCtx g Ctx.freed
  { t with net := t.net.filter (fun m => !m.isLost g) }

/-- Reports a core for sparing to Plug (R180, R208, R246). -/
def State.reportCore (s : State) (cid : Nat) : State := { s with plug := { s.plug with reported := s.plug.reported ++ [cid] } }

/-- Abandons the firing of context g (R76): no tokens move, the actor is disabled, engine work is discarded, the context is
free, and a fault message tells. -/
def State.abandon (s : State) (g kind cause : Nat) : State :=
  let c := s.ctxAt g
  let t := (s.faultMsg g kind cause c.pc).dropEngine g
  let t := t.updCore (g / 4) (fun k => { k with actors := k.actors.map (fun e =>
    (e.1, if e.2.ctx = some (g % 4) then { e.2 with en := false, ctx := none } else e.2)) })
  t.freeCtx g

end Sys2Proof.Machine
end

