-- ==== Sys2Proof/Machine/Ops.lean ====
section
/-! DEFINITION. Ops.lean: how instructions end: completing, blocked waits (R59), taking an exception (R74, R76), returning
from one (R75), control transfers (R25, R66 to R69), and the waits for acknowledgements with the reports of recorded
refusals (R231, R265, R378). -/

namespace Sys2Proof.Machine

/-! ## Completing -/

/-- The instruction is complete: the pc moves, no wait is left, and a single step is due if it was armed (R75). -/
def Ctx.complete (c : Ctx) (pc : PcAddr) : Ctx :=
  { c with
    pc := pc
    wait := none
    phase := .idle
    stepping := match c.stepping with | .armed => .due | x => x }

/-- The instruction after the current one (R24). -/
def State.nextPc (s : State) : PcAddr := s.me.pc + BitVec.ofNat 56 (2 * s.ilen)

/-- Ends the instruction at a given pc. -/
def State.endAt (s : State) (pc : PcAddr) : State := s.updMe (·.complete pc)

/-- Ends the instruction in sequence. -/
def State.endNext (s : State) : State := s.endAt s.nextPc

/-! ## Blocked waits -/

/-- WTO.LIM (R61): 0 acts as 2^40 − 1. -/
def Ctx.waitLimit (c : Ctx) : Nat := if fld c.wto 39 0 = 0 then 2 ^ 40 - 1 else fld c.wto 39 0

/-- The context is in a blocked wait of a kind on an object (R59, R248): a wait that goes on keeps its counter, another one loads it
from WTO. -/
def State.blocked (s : State) (kind obj key : Nat) : State :=
  let fresh (c : Ctx) : Wait :=
    { kind := kind, obj := obj, key := key, ilen := s.ilen, since := s.cyc.toNat, left := c.waitLimit, waited := 0 }
  s.updMe (fun c => { c with wait := some (match c.wait with
    | some w => if w.kind = kind ∧ w.obj = obj ∧ w.key = key ∧ !w.met then { w with ilen := s.ilen } else fresh c
    | none => fresh c) })

/-! ## Exceptions -/

/-- TVEC.VB as an address (R74). -/
def Ctx.vectorBase (c : Ctx) : PcAddr := BitVec.ofNat 56 (fld c.tvec 55 6 * 64)

/-- Trap entry in a context (R74), as one step. -/
def Ctx.enterTrap (c : Ctx) (cause : Cause) (val : Word) (as : Bool) (ilen : Nat) : Ctx :=
  { c with
    tpc := c.pc.setWidth 64
    tcause := BitVec.ofNat 64 (cause.code.toNat + as.toNat * 256)
    tval := val
    tsav := BitVec.ofNat 64 (ilen % 8 + (if c.level = .system then 8 else 0))
    level := .system
    pc := c.vectorBase + BitVec.ofNat 56 (cause.code.toNat * 64)
    wait := none
    phase := .idle
    stepping := .off }

/-- Whether a trap would be a double trap, or finds no vector base (R76). -/
def Ctx.doubleTrap (c : Ctx) : Bool :=
  (c.level == .system && !bitAt c.tsav 4) || fld c.tvec 55 6 == 0

/-- TAKING AN EXCEPTION in context g (R74): the trap is entered, or the firing is abandoned (R76). A signal held one ahead, and a copy that
waits for room, are withdrawn with the wait that the trap ends (R239, R275), and a group's commit is left (log 55). -/
def State.takeTrap (s : State) (g : Nat) (cause : Cause) (val : Word) (as : Bool) (ilen : Nat) : State :=
  if (s.ctxAt g).doubleTrap then s.abandon g 3 cause.code.toNat
  else (if (s.ctxAt g).phase = .idle then s else ((s.withdraw g).unissue g).leaveGroups g).updCtx g (fun c => c.enterTrap cause val as ilen)

/-- RETURN FROM AN EXCEPTION (R75): pc from TPC, level from TSAV.PLV; with SS one instruction is armed, unless this ERET is itself the
one instruction of an earlier ERET. The checks are the instruction's. -/
def Ctx.returnFromTrap (c : Ctx) : Ctx :=
  { c with
    pc := c.tpc.setWidth 56
    level := if bitAt c.tsav 3 then .system else .user
    stepping := match c.stepping with | .armed => .due | _ => if bitAt c.tsav 6 then .armed else .off
    wait := none
    phase := .idle }

/-- How an instruction of the current context ends. -/
def State.settle (s : State) : Ex State → Out
  | .ok t => .next t.endNext
  | .error (.trap c v) => .next (s.takeTrap s.cur c v false s.ilen)
  | .error (.report c v t) => .next (t.takeTrap t.cur c v true t.ilen)
  | .error (.post c v t) => .next (t.takeTrap t.cur c v false t.ilen)
  | .error (.wait k o t key) => .next (t.blocked k o key)
  | .error (.stall t) => .next (t.updMe (fun c => { c with wait := none }))
  | .error (.over t) => .next t

/-- A control transfer of the current context to a target. -/
def jump (s : State) (pc : PcAddr) : Ex State := .error (.over (s.endAt pc))

/-- A control transfer to a register's address: bit 0 is checked first (R25). -/
def jumpChecked (s : State) (target : Word) : Ex State := do
  check (!bitAt target 0) .align target
  jump s (target.setWidth 56)

/-- Sets the phase of the current context. -/
def State.setPhase (s : State) (p : Phase) : State := s.updMe (fun c => { c with phase := p })

/-! ## The return stack (R68, R69) -/

/-- RSB.BASE and RSB.LIM (R61). -/
def Ctx.rsbBase (c : Ctx) : Nat := fld c.rsb 31 0
def Ctx.rsbLim (c : Ctx) : Nat := fld c.rsb 63 32

/-- The spill area is well formed (R68). -/
def Ctx.rsbOk (c : Ctx) : Bool := c.rsbBase % 8 == 0 && c.rsbLim % 8 == 0 && decide (c.rsbLim ≤ 0x80000)

/-- Push of R68: with eight entries the oldest is spilled first. The stack holds the newest entry first. -/
def push (s : State) (v : PcAddr) : Ex State :=
  let c := s.me
  if c.rstack.length < 8 then .ok (s.updMe (fun c => { c with rstack := v :: c.rstack }))
  else do
    check (c.rsbOk && decide (c.sp.toNat + 8 ≤ c.rsbLim)) .stk c.sp
    ownCheck s c.sp 8 true
    let t := ownWrite s c.sp (leBytes 8 ((c.rstack.getLast?.getD 0).toNat))
    .ok (t.updMe (fun c => { c with rstack := v :: c.rstack.dropLast, sp := c.sp + 8 }))

/-- Pop of R68: none means that the pop acts as FIN (R57). -/
def pop (s : State) : Ex (Option (PcAddr × State)) :=
  let c := s.me
  match c.rstack with
  | v :: rest => .ok (some (v, s.updMe (fun c => { c with rstack := rest })))
  | [] =>
    if c.sp.toNat = c.rsbBase then .ok none
    else do
      check (c.rsbOk && decide (c.rsbBase + 8 ≤ c.sp.toNat) && decide (c.sp.toNat ≤ c.rsbLim)) .stk c.sp
      ownCheck s (c.sp - 8) 8 false
      let v := BitVec.ofNat 64 (leVal (ownRead s (c.sp - 8) 8))
      check (!bitAt v 0) .align (v.setWidth 56 |>.setWidth 64)
      .ok (some (v.setWidth 56, s.updMe (fun c => { c with sp := c.sp - 8 })))

/-! ## Acknowledgements and reports -/

/-- Whether something in flight is a posted cluster store of a context's firing (R231). -/
def Msg.isCluStore (m : Msg) (g fire : Nat) : Bool :=
  m.g == g && m.fire == fire && (match m.body with | .acc a => a.kind.stores && decide (a.space < 2) | _ => false)

/-- Whether something in flight is known to go to a peer package (R373). -/
def Msg.toPeer (m : Msg) : Bool := m.path.isSome || (match m.stage with | .peer .. => true | _ => false)

/-- Whether a peer access of the context is still out (R381): its leaf is known to be a peer's. -/
def Msg.isPeer (m : Msg) (g fire : Nat) : Bool := m.g == g && m.fire == fire && m.toPeer

/-- Whether something in flight is a posted DEVICE store or .NR atomic of a context's firing to this package's memory or the
application die (R265, R269); one to a peer counts under the fabric's own rules once its leaf is known (R378). -/
def Msg.isDevStore (m : Msg) (g fire : Nat) : Bool :=
  m.g == g && m.fire == fire && (match m.body with
    | .acc a => a.kind.stores && a.space == 2
    | .atom a => a.nr && (a.scp == .dev || a.scp == .sys)
    | _ => false) && !m.toPeer

/-- How many DEVICE stores and .NR atomics of a firing something in flight stands for: its own, and those that were merged into
it (R270). -/
def Msg.devCount (m : Msg) (g fire : Nat) : Nat :=
  (if m.isDevStore g fire then (match m.body with | .acc a => a.weight | _ => 1) else 0) +
  (match m.body with | .atom a => (a.also.filter (fun e => e.g == g && e.fire == fire)).length | _ => 0)

/-- Whether something in flight is a load part of a context's firing; the packets of a PEER operand are the engine's. -/
def Msg.isLoad (m : Msg) (g fire : Nat) : Bool :=
  m.g == g && m.fire == fire && (match m.body with | .acc a => !a.kind.stores && a.row.isNone | _ => false)

/-- How many stores something in flight stands for (R122: each lane is one). -/
def Msg.weight (m : Msg) : Nat := match m.body with | .acc a => a.weight | _ => 1

/-- Unacknowledged cluster stores of the current context. -/
def State.cluStores (s : State) : Nat := ((s.net.filter (fun m => m.isCluStore s.cur s.me.fire)).map Msg.weight).sum
/-- Unacknowledged DEVICE stores and .NR atomics of the current context. -/
def State.devStores (s : State) : Nat := (s.net.map (fun m => m.devCount s.cur s.me.fire)).sum

/-- Reports recorded refusals, one at a time in the order cluster, DEVICE, fabric (R231, R265, R378); each report clears its
record. The three flags say which records the instruction reports. -/
def reportRefusals (s : State) (clu dev fab : Bool) : Ex Unit :=
  match (if clu then s.me.clusterRef else none) with
  | some f => .error (.report f.cause f.val (s.updMe (fun c => { c with clusterRef := none })))
  | none =>
    match (if dev then s.me.deviceRef else none) with
    | some f => .error (.report f.cause f.val (s.updMe (fun c => { c with deviceRef := none })))
    | none =>
      match (if fab then s.me.fabricRef else none) with
      | some f => .error (.report f.cause f.val (s.updMe (fun c => { c with fabricRef := none })))
      | none => .ok ()

/-- Keeps the first unreported refusal. -/
def keepFirst (old new : Option RFault) : Option RFault := old.orElse (fun _ => new)

/-- Records a refused DEVICE store or .NR atomic in a context (R265). -/
def Ctx.refuseDev (c : Ctx) (f : Option RFault) : Ctx := { c with deviceRef := keepFirst c.deviceRef f }

/-- Waits until the posted cluster stores (and, for `dev`, the DEVICE stores) of the context are acknowledged, then reports
their recorded refusals (R231, R265). -/
def settleStores (s : State) (dev : Bool) : Ex Unit :=
  if s.cluStores ≠ 0 ∨ (dev ∧ s.devStores ≠ 0) then .error (.wait 6 0 s) else reportRefusals s true dev false

/-! ## Waiting for earlier accesses (R81, R177, R253, R291) -/

/-- Whether a load of the current context is not performed yet. -/
def State.loadsOut (s : State) : Bool := s.net.any (fun m => m.isLoad s.cur s.me.fire && m.pending)

/-- The pieces of a request that touch scratchpad bytes of a core. -/
def Acc.touches (a : Acc) (g cid : Nat) : Bool :=
  decide (a.space < 2) && a.pieces.any (fun p =>
    (if a.space = 0 then g / 4 else g / 64 * 16 + p.va.toNat / 2 ^ 19 % 16) == cid)

/-- Whether a cluster store of the current context to the scratchpad of a core is not performed yet. -/
def State.storesTo (s : State) (cid : Nat) : Bool :=
  s.net.any (fun m => m.isCluStore s.cur s.me.fire && m.unperformed &&
    (match m.body with | .acc a => a.touches m.g cid | _ => false))

/-- Whether any cluster store of the current context is not performed yet. -/
def State.cluStoresOut (s : State) : Bool := s.net.any (fun m => m.isCluStore s.cur s.me.fire && m.unperformed)

/-- The order of a message towards a target core (R81 note 5, R253): earlier loads, atomics and messages have been performed, and so have the
earlier stores whose home is that core. -/
def orderMsg (s : State) (cid : Nat) : Ex Unit :=
  if s.loadsOut || s.gate || s.storesTo cid || (cid == s.cid && s.queueOut) then .error (.stall s) else .ok ()

/-- A fault message (R64): the one kind of packet of the class FLT (R257). -/
def Packet.isFault (p : Packet) : Bool := !p.msg && p.token.isNone

/-- A packet or spawn under way to a core: a fault message, or one of the class MSG (R257). -/
def Msg.goesTo (m : Msg) (fault : Bool) (to_ : Nat) : Bool :=
  match m.body with
  | .packet q => q.to_ == to_ && q.isFault == fault
  | .spawn target .. => !fault && target == to_
  | _ => false

/-! ## Requests that wait for a reply -/

/-- An instruction that sends one request and waits for its reply as a blocked wait: `req` gives the state with the request
sent (its number is the state's nextId before), `use` what the instruction does with the reply. -/
def rpc (s : State) (kind obj : Nat) (req : Ex State) (use : Answer → Ex State) : Ex State :=
  match s.me.phase with
  | .done a => use a
  | .sent _ => .error (.wait kind obj s)
  | _ => do
    let t ← req
    .error (.wait kind obj (t.setPhase (.sent s.nextId)))

/-- The same for a reply that is not a blocked wait. -/
def ask (s : State) (req : Ex State) (use : Answer → Ex State) : Ex State :=
  match s.me.phase with
  | .done a => use a
  | .sent _ => .error (.stall s)
  | _ => do
    let t ← req
    .error (.stall (t.setPhase (.sent s.nextId)))

/-- A reply reaches the context that waits for request `id` (a reply to an ended firing, or to a wait that has ended, is
discarded: R87). -/
def State.reply (s : State) (g fire id : Nat) (a : Answer) : State :=
  if (s.ctxAt g).fire = fire ∧ (s.ctxAt g).phase = .sent id then s.updCtx g (fun c => { c with phase := .done a }) else s

/-- Removes something from what is in flight. -/
def State.gone (s : State) (id : Nat) : State := { s with net := s.net.filter (fun m => m.id != id) }
/-- What is in flight under a number. -/
def State.msg (s : State) (id : Nat) : Option Msg := s.net.find? (fun m => m.id == id)
/-- Changes what is in flight under a number. -/
def State.updMsg (s : State) (id : Nat) (f : Msg → Msg) : State :=
  { s with net := s.net.map (fun m => if m.id = id then f m else m) }

/-- Draws a free number (log 2). -/
def State.draw (s : State) : Nat × State := (Config.freeNat s.draws, { s with draws := s.draws + 1 })

/-! ## Paths (R373, R374) -/

/-- Outstanding accesses of a context on a path (R373). -/
def State.outOn (s : State) (g p : Nat) : Nat := (s.net.filter (fun m => m.g == g && m.path == some p)).length

/-- Whether a fabric port is enabled (R358) and has not been disabled (R367). -/
def State.portUp (s : State) (i : Nat) : Bool := (s.plug.options.get (2 ^ 32 - 1) 4).testBit i && decide (s.plug.lanes.get 0 i < 2)

/-- The path a packet of context g takes (R373, R374), a port that is up; none when it must wait for room, or when no port is left (log 34). -/
def State.pathFor (s : State) (g : Nat) : Option Nat :=
  let w := (s.coreAt (g / 4)).path
  let en (p : Nat) : Bool := (fld w 3 0 == 0 || bitAt w p) && s.portUp (4 * (g / 1024) + p)
  let fp := fld w 6 5
  if bitAt w 4 && en fp then (if s.outOn g fp < 64 then some fp else none)
  else
    let free := (List.range 4).filter (fun p => en p && decide (s.outOn g p < 64))
    let least := free.foldl (fun m p => min m (s.outOn g p)) 64
    ((List.range 4).map (fun i => ((s.ctxAt g).lastPath + 1 + i) % 4)).find? (fun p => free.contains p && s.outOn g p == least)

/-- A packet of a context takes a path: it counts as sent (R373, R382). -/
def Ctx.took (c : Ctx) (p : Nat) : Ctx :=
  { c with lastPath := p, issued := Vector.ofFn (fun (i : Fin 4) => if i.val = p then c.issued[i] + 1 else c.issued[i]) }

end Sys2Proof.Machine
end

