-- ==== Sys2Proof/Machine/Operands.lean ====
section
/-! DEFINITION. Operands.lean: the operand forms that many instructions share: scalar sources and a destination (R40, R85,
R88), a LOCAL access through a capability (R110), masks, and status results. -/

namespace Sys2Proof.Machine

/-- Destination and sources a and b, all single registers (R40), after R88 and the number checks. -/
def alu2 (o : Ops) (s : State) (f : Word → Word → Word) : Ex State := do
  check88 s [dst o.d, src o.a o.epa, src o.b o.epb]
  numTags s [o.a.toNat, o.b.toNat]
  .ok (s.put o.d (f (s.lo o.a) (s.lo o.b)))

/-- Destination and source b. -/
def alu1 (o : Ops) (s : State) (f : Word → Word) : Ex State := do
  check88 s [dst o.d, src o.b o.epb]
  numTag s o.b.toNat
  .ok (s.put o.d (f (s.lo o.b)))

/-- Destination, source a and the immediate (R109). -/
def aluImm (o : Ops) (s : State) (f : Word → Word → Word) : Ex State := do
  check88 s [dst o.d, src o.a o.epa]
  numTag s o.a.toNat
  .ok (s.put o.d (f (s.lo o.a) o.imm))

/-- A conditional branch on register a (R66). -/
def branchOn (o : Ops) (s : State) (taken : Word → Bool) : Ex State := do
  check88 s [src o.a o.epa]
  numTag s o.a.toNat
  if taken (s.lo o.a) then jump s (s.me.pc + (o.imm + o.imm).setWidth 56) else .ok s

/-- A branch on a mask (R66). -/
def branchMask (o : Ops) (s : State) (taken : BitVec 16 → Bool) : Ex State :=
  if taken (s.me.mask o.a.toNat) then jump s (s.me.pc + (o.imm + o.imm).setWidth 56) else .ok s

/-- The target of a displacement (R39). -/
def State.target (s : State) (o : Ops) : PcAddr := s.me.pc + (o.imm + o.imm).setWidth 56

/-- The checks of the short LOCAL accesses (R110) for n bytes: the address, which LOCK names too (R110, where R171 says the lowest
locked address: log 57). -/
def localAccess (o : Ops) (s : State) (n : Nat) (write : Bool) : Ex Word := do
  capTag s o.b
  let c := s.capAt o.b
  let a := c.cur + o.imm
  capPerm s c a [if write then pWR else pRD]
  capSpace c a [0]
  capBound c a n
  check (a.toNat % n == 0) .align a
  match ownCheck s a n write with
  | .error (.trap .lock _) => .error (.trap .lock a)
  | .error e => .error e
  | .ok () => .ok a

/-- LDW and LDD (R110). -/
def localLoad (o : Ops) (s : State) (n : Nat) : Ex State := do
  check88 s [dst o.d, src o.b o.epb 2]
  let a ← localAccess o s n false
  .ok (s.put o.d (BitVec.ofNat 64 (leVal (ownRead s a n))))

/-- STW and STD (R110). -/
def localStore (o : Ops) (s : State) (n : Nat) : Ex State := do
  check88 s [src o.a o.epa, src o.b o.epb 2]
  dataTag s o.a.toNat
  let a ← localAccess o s n true
  .ok (ownWrite s a (leBytes n (s.lo o.a).toNat))

/-- A destination and a capability destination and source a (R98): the new capability. -/
def capOp (o : Ops) (s : State) (f : Cap → Ex Cap) : Ex State := do
  capTag s o.a
  let c ← f (s.capAt o.a)
  .ok (s.putL o.d [(c.head, .caph), (c.tail, .capt)])

/-- Two mask sources and a mask destination (R123). -/
def maskOp (o : Ops) (s : State) (v : BitVec 16) : Ex State := .ok (s.updMe (fun c => c.setMask o.d.toNat v))

/-- A general register receives a number made from mask b (R123). -/
def maskGet (o : Ops) (s : State) (v : Nat) : Ex State := do
  check88 s [dst o.d]
  .ok (s.put o.d (BitVec.ofNat 64 v))

/-- Destination and source b: the check of an instruction that works on the number in b. -/
def arg1 (o : Ops) (s : State) : Ex Word := do
  check88 s [dst o.d, src o.b o.epb]
  numTag s o.b.toNat
  .ok (s.lo o.b)

/-- Destination and sources a and b: their numbers. -/
def arg2 (o : Ops) (s : State) : Ex (Word × Word) := do
  check88 s [dst o.d, src o.a o.epa, src o.b o.epb]
  numTags s [o.a.toNat, o.b.toNat]
  .ok (s.lo o.a, s.lo o.b)

end Sys2Proof.Machine
end

