-- ==== Sys2Proof/Machine/Registers.lean ====
section
/-! DEFINITION. Registers.lean: MOV, LI, the capability instructions, TAGOF (R96 to R99), the state registers (R100 to R102 and
the field maps of their chapters), and the neighbour links (R103 to R105). -/

namespace Sys2Proof.Machine

/-- MOV (R96). -/
def execMov (o : Ops) (s : State) : Out := s.settle (do
  let n := 2 ^ o.l.toNat
  check88 s [dst o.d n, src o.b o.epb n]
  .ok (s.putL o.d (s.win o.b n)))

/-- LI (R97). -/
def execLi (o : Ops) (s : State) : Out := s.settle (do
  check88 s [dst o.d]
  .ok (s.put o.d o.imm))

/-- CINC (R98). -/
def execCinc (o : Ops) (s : State) : Out := s.settle (do
  check88 s [dst o.d 2, src o.a o.epa 2, src o.b o.epb]
  capTag s o.a
  numTag s o.b.toNat
  capOp o s (fun c => .ok { c with cur := c.cur + s.lo o.b }))

/-- CINCI (R98). -/
def execCinci (o : Ops) (s : State) : Out := s.settle (do
  check88 s [dst o.d 2, src o.a o.epa 2]
  capOp o s (fun c => .ok { c with cur := c.cur + o.imm }))

/-- CGETA (R98): the bits unchanged, as DATA. -/
def execCgeta (o : Ops) (s : State) : Out := s.settle (do
  check88 s [dst o.d 2, src o.b o.epb 2]
  capTag s o.b
  .ok (s.putL o.d ((s.win o.b 2).map (fun v => (v.1, .data)))))

/-- CSETB (R98): compared as unbounded integers. -/
def execCsetb (o : Ops) (s : State) : Out := s.settle (do
  check88 s [dst o.d 2, src o.a o.epa 2, src o.b o.epb]
  capTag s o.a
  numTag s o.b.toNat
  let len := s.lo o.b
  capOp o s (fun c => do
    check (decide (c.base.toNat ≤ c.cur.toNat)) .bound c.cur
    check (decide (c.cur.toNat + len.toNat ≤ c.lim.toNat)) .bound (c.cur + len)
    .ok { c with base := c.cur, lim := c.cur + len }))

/-- CPERM (R98). -/
def execCperm (o : Ops) (s : State) : Out := s.settle (do
  check88 s [dst o.d 2, src o.a o.epa 2, src o.b o.epb]
  capTag s o.a
  numTag s o.b.toNat
  capOp o s (fun c => .ok { c with prm := c.prm &&& (s.lo o.b).setWidth 8 }))

/-- TAGOF (R99): neither waits for an EMPTY source nor raises its recorded fault; a LEASED one raises LEASE. Where source and destination are one
register, R99 decides for it too (log 52). -/
def execTagof (o : Ops) (s : State) : Out := s.settle (do
  let r := s.me.reg o.b.toNat
  check ((s.me.reg o.d.toNat).pres != .leased) .lease (BitVec.ofNat 64 o.d.toNat)
  check (r.pres != .leased) .lease (BitVec.ofNat 64 o.b.toNat)
  if o.d ≠ o.b then check88 s [dst o.d]
  .ok (s.put o.d (BitVec.ofNat 64 (r.tag.code + (r.pres == .empty).toNat * 4 + r.armed.isSome.toNat * 8 + r.fault.isSome.toNat * 16))))

/-! ## State registers -/

/-- The tags with a packet waiting undelivered (R62, R63). -/
def Core.pending (c : Core) : Nat := c.edge.foldl (fun m p => m ||| 2 ^ p.tag) 0

/-- RLKn as read (R170). -/
def lockWord : Option Lock → Word
  | none => 0
  | some l => BitVec.ofNat 64 (l.base + l.len * 2 ^ 32 + 2 ^ 52 + l.dst.toNat * 2 ^ 53 + l.ctx * 2 ^ 54 + l.src * 2 ^ 56)

/-- VDS as read (R213). -/
def Verdict.word (v : Verdict) : Word :=
  if v.isOpen then BitVec.ofNat 64 (1 + v.src * 2 + v.planes * 8 + v.dim * 2 ^ 7 + v.alive.toNat * 2 ^ 16) else 0

/-- ENG as context g sees it (R207). -/
def State.engWord (s : State) (g : Nat) : Word :=
  let k := s.coreAt (g / 4)
  let mine := k.equeue.filter (fun e => e.mine g (s.ctxAt g).fire)
  let p := (s.ctxAt g).prog
  let susp := (mine.find? (fun e => e.susp.isSome))
  let cause := match susp with
    | some e => (e.susp.map (fun f => f.cause.code.toNat)).getD 0
    | none => ((p.bind (·.susp)).map (fun f => f.cause.code.toNat)).getD 0
  BitVec.ofNat 64 ((!mine.isEmpty).toNat + (p.any (fun p => !p.ended)).toNat * 2 +
    (susp.isSome || (p.bind (·.susp)).isSome).toNat * 4 + k.sets[0].int.toNat * 8 + k.sets[1].int.toNat * 16 +
    cause * 2 ^ 8 + (susp.map (·.row)).getD 0 * 2 ^ 16)

/-- FSLOTn as read (R297): the static fields, and the counts of the pool. -/
def Core.fslotWord (k : Core) (f : FSlot) : Word :=
  if bitAt f.word 0 then
    let mine := k.pool.filter (fun e => f.banks.contains (e.1 / 0x8000))
    let live := (mine.filter (fun e => e.2.st == .live || e.2.st == .tomb)).length
    let total := f.banks.length * (0x8000 / (32 * 2 ^ fld f.word 17 16))
    let used := mine.length
    BitVec.ofNat 64 (fld f.word 31 0 + live * 2 ^ 32 + (total - used) * 2 ^ 48)
  else 0

/-- The value that SRD returns for state register n (R100 to R102); a reserved number reads as zero. -/
def State.sreg (s : State) (n : Nat) : Word :=
  let c := s.me
  let k := s.myCore
  if n < 0x14 then
    match n with
    | 0x00 => s.cyc
    | 0x01 => c.fcs
    | 0x02 => c.prc
    | 0x03 => BitVec.ofNat 64 (s.cid + s.cur % 4 * 2 ^ 11 + s.pkgNo * 2 ^ 13)
    | 0x04 => c.lid
    | 0x05 => c.hbi
    | 0x06 => c.wto
    | 0x07 => c.rsb
    | 0x08 => c.tcause
    | 0x09 => c.tval
    | 0x0A => c.tpc
    | 0x0B => c.tvec
    | 0x0C => c.tsav
    | 0x0D => BitVec.ofNat 64 (k.tagsEn.toNat + k.pending * 2 ^ 16)
    | 0x0E => BitVec.ofNat 64 (k.ild.toNat + k.inbox.length * 2 ^ 32)
    | 0x0F => c.ctlw
    | 0x10 => (s.cluAt s.clu).cfu
    | 0x11 => s.engWord s.cur
    | 0x12 => c.verdict.word
    | _ => k.path
  else if h : 0x20 ≤ n ∧ n < 0x30 then k.bfmt[n - 0x20]'(by omega)
  else if h : 0x30 ≤ n ∧ n < 0x40 then lockWord (k.locks[n - 0x30]'(by omega))
  else if h : 0x40 ≤ n ∧ n < 0x44 then k.fslotWord (k.fslots[n - 0x40]'(by omega))
  else 0

/-- The state registers that hold a SYS field (R7, R61, R74, R102, R374). -/
def sysReg (n : Nat) : Bool := decide (0x05 ≤ n ∧ n ≤ 0x0C) || n == 0x13

/-- The reserved numbers (R100): they read as zero, and a write to one has no effect. -/
def reservedReg (n : Nat) : Bool := decide (0x14 ≤ n ∧ n ≤ 0x1F) || decide (0x44 ≤ n)

/-- Replaces the bits of a mask. -/
def mix (old new : Word) (m : Nat) : Word := (old &&& ~~~(BitVec.ofNat 64 m)) ||| (new &&& BitVec.ofNat 64 m)

/-- The largest slot count of an inbox ring that fits (R233). -/
def ildFit (base nsl : Nat) : Nat := if base + 144 * nsl ≤ 0x80000 then nsl else (0x80000 - base) / 144

/-- ILD after SWR (R233): unchanged while messages are in the ring or a receive of the core is pending. -/
def State.writeIld (s : State) (v : Word) : State :=
  let busy := !s.myCore.inbox.isEmpty || (List.range 4).any (fun i => !(s.ctxAt (4 * s.cid + i)).recvs.isEmpty)
  if busy then s
  else
    let base := fld v 18 4 * 16
    s.updMyCore (fun k => { k with ild := BitVec.ofNat 64 (base + ildFit base (fld v 29 20) * 2 ^ 20) })

/-- A bank format register after SWR (R162, R163): a reserved code leaves FMT unchanged. -/
def writeBfmt (old v : Word) : Word :=
  mix old v (if fld v 4 0 < 16 then 0xF07FFFF1F else 0xF07FFFF00)

/-- Whether a core is the supervisor of its cluster (R58): core 0, or core 1 while core 0 is fenced. -/
def State.isSupervisor (s : State) (cid : Nat) : Bool :=
  let zero := (s.coreAt (cid / 16 * 16)).fenced
  (cid % 16 == 0 && !zero) || (cid % 16 == 1 && zero)

/-- The effect of SWR on state register n (R100, R102). -/
def State.writeSreg (s : State) (n : Nat) (v : Word) : State :=
  if h : 0x20 ≤ n ∧ n < 0x30 then
    s.updMyCore (fun k => { k with bfmt := k.bfmt.set (n - 0x20) (writeBfmt (k.bfmt[n - 0x20]'(by omega)) v) (by omega) })
  else
    match n with
    | 0x01 => s.updMe (fun c => { c with fcs := mix c.fcs v 0x1F7 })
    | 0x02 => s.updMe (fun c => { c with prc := mix c.prc (setFld v 4 0 (min (fld v 4 0) 27)) 0x1FF1F })
    | 0x05 => s.updMe (fun c => { c with hbi := mix c.hbi v 0xFFFFFFFF })
    | 0x06 => s.updMe (fun c => { c with wto := mix c.wto v 0xFFFFFFFFFF })
    | 0x07 => s.updMe (fun c => { c with rsb := v })
    | 0x08 => s.updMe (fun c => { c with tcause := mix c.tcause v 0x1FF })
    | 0x09 => s.updMe (fun c => { c with tval := v })
    | 0x0A => s.updMe (fun c => { c with tpc := mix c.tpc v 0xFFFFFFFFFFFFFF })
    | 0x0B => s.updMe (fun c => { c with tvec := mix c.tvec v 0xFFFFFFFFFFFFC0 })
    | 0x0C => s.updMe (fun c => { c with tsav := mix c.tsav v 0x7F })
    | 0x0D => s.updMyCore (fun k => { k with tagsEn := v.setWidth 16 })
    | 0x0E => s.writeIld v
    | 0x10 =>
      -- only the cluster supervisor clears CFU (R58, R141)
      if s.isSupervisor s.cid then
        -- what arrives in the same clk stays set
        s.updClu s.clu (fun u => { u with
          cfu := u.cfu &&& ~~~(v &&& 0xFFFF01F0 &&& ~~~(if u.came.1 = s.cyc.toNat then u.came.2 else 0)) })
      else s
    | 0x13 => s.updMyCore (fun k => { k with path := mix k.path v 0x7F })
    | _ => s

/-- SRD (R100). -/
def execSrd (o : Ops) (s : State) : Out := s.settle (do
  check (s.me.level == .system || !sysReg o.imm.toNat) .priv o.imm
  check88 s [dst o.d]
  .ok (s.put o.d (s.sreg o.imm.toNat)))

/-- SWR (R100); a bank's format changes once no store of the core is queued (R177). -/
def execSwr (o : Ops) (s : State) : Out := s.settle (do
  check (s.me.level == .system || !sysReg o.imm.toNat) .priv o.imm
  check88 s [src o.a o.epa]
  if !reservedReg o.imm.toNat then numTag s o.a.toNat
  if 0x20 ≤ o.imm.toNat ∧ o.imm.toNat < 0x30 ∧ s.anyQueued s.cid 0 (2 ^ 19) then .error (.stall s)
  .ok (s.writeSreg o.imm.toNat (s.lo o.a)))

/-! ## Neighbour links -/

/-- The direction of a code (R103). -/
def dirOf : Nat → Dir | 0 => .n | 1 => .e | 2 => .s | _ => .w
/-- The code of a direction. -/
def dirCode : Dir → Nat | .n => 0 | .e => 1 | .s => 2 | .w => 3
/-- The link that points back. -/
def backDir : Dir → Dir | .n => .s | .s => .n | .e => .w | .w => .e

/-- Lands the write that waits in a receive buffer, when every register of its window is armed for the direction and the
context holds a running firing (R105). -/
def State.landNb (s : State) (cid : Nat) (d : Dir) : State :=
  match (s.coreAt cid).links.find (dirCode d) with
  | none => s
  | some m =>
    let g := 4 * cid + m.ctx
    let c := s.ctxAt g
    if c.busy && (List.range m.vals.length).all (fun i => (c.regAt (m.first + i)).armed == some d) then
      (s.updCtx g (fun c =>
        let c := (List.range m.vals.length).foldl (fun c i =>
          c.setRegAt (m.first + i) { bits := (m.vals.getD i default).1, tag := (m.vals.getD i default).2 }) c
        { c with event := true })).updCore cid (fun k => { k with links := k.links.drop (dirCode d) })
    else s

/-- Tags as they travel by NBW and SPAWN: capabilities become DATA (R70, R85). -/
def sentTag : Tag → Tag | .abn => .abn | _ => .data

/-- NBW (R103): the write enters the neighbour's receive buffer, or waits for it as a blocked wait: behind the earlier packets of the class MSG
from this core to that one (R257), and for as long as this core is fenced (R58). The register checks of both sources come before the checks of
the control word (log 53). DESIGN CHOICE (log 65): the control word gB is a number, so a capability or ABN tag on it raises TAG or ABN; the
sources that R85 takes with any tag are the registers of gA:L. -/
def execNbw (o : Ops) (s : State) : Out := s.settle (do
  let n := 2 ^ o.l.toNat
  check88 s [src o.a o.epa n, src o.b o.epb]
  numTag s o.b.toNat
  let w := s.lo o.b
  let tn := fld w 9 4
  check (decide (1 ≤ tn ∧ tn ≤ 55) && tn % n == 0) .win (BitVec.ofNat 64 tn)
  let d := dirOf (fld w 1 0)
  match neighbour s.cid d with
  | none => .error (.trap .part 0x7FF)
  | some k =>
    let nb := s.coreAt k
    check (!nb.fenced && !nb.resetting && nb.lid == s.me.lid) .part (BitVec.ofNat 64 k)
    orderMsg s k
    if (nb.links.find (dirCode (backDir d))).isSome || s.myCore.fenced || s.net.any (fun x => x.g / 4 == s.cid && x.goesTo false k) then
      .error (.wait 6 0 s)
    else
      let msg : NbMsg := { ctx := fld w 3 2, first := tn, vals := (s.win o.a n).map (fun v => (v.1, sentTag v.2)) }
      .ok (s.updCore k (fun c => { c with links := c.links.put (dirCode (backDir d)) msg })))

/-- NBARM (R104): a register already armed takes the new direction; one that is EMPTY for another producer is waited for. -/
def execNbarm (o : Ops) (s : State) : Out := s.settle (do
  let n := 2 ^ o.l.toNat
  let armed (i : Nat) : Bool := (s.me.reg (o.d.toNat + i)).armed.isSome
  check88 s (((List.range n).filter (fun i => !armed i)).map (fun i => { n := o.d.toNat + i, src := false }) ++ [src o.b o.epb])
  numTag s o.b.toNat
  let d := dirOf (fld (s.lo o.b) 1 0)
  let t := s.updMe (fun c => (List.range n).foldl (fun c i =>
    c.setRegAt (c.ix (o.d.toNat + i)) { (c.reg (o.d.toNat + i)) with pres := .empty, armed := some d }) c)
  .ok (t.landNb s.cid d))

end Sys2Proof.Machine
end

