-- ==== Sys2Proof/Machine/Access.lean ====
section
/-! DEFINITION. Access.lean: the page-4 loads and stores (R173, R174), the vector memory instructions (R121, R122), and the
requests that accesses outside the own scratchpad send (R229, R231, R264, R265). What a request does at its home is in
MemEvents.lean. -/

namespace Sys2Proof.Machine

/-! ## Requests -/

/-- Groups pieces by 64-byte block, in order (R373; an access never crosses homes within a block). -/
def groupPieces : List Piece → List (List Piece)
  | [] => []
  | p :: t =>
    match groupPieces t with
    | [] => [[p]]
    | [] :: gs => [p] :: gs
    | (q :: g) :: gs => if p.va.toNat / 64 = q.va.toNat / 64 then (p :: q :: g) :: gs else [p] :: (q :: g) :: gs

/-- Sends the pieces of an access, one request for each 64-byte block; with `chain` each follows the one before it (R160). -/
def State.sendAcc (s : State) (kind : AccKind) (space : Nat) (groups : List (List Piece)) (key : Nat) (gtag of : Bool)
    (chain : Bool := false) : State :=
  (groups.foldl (fun (e : State × Bool) g => (e.1.send e.1.cur (.acc {
    kind := kind, space := space, pieces := g, weight := g.length, key := key
    gtag := gtag, sys := (e.1.me.level == .system), ord := of, chain := e.2 }), chain)) (s, false)).1

/-- Marks registers of the file EMPTY (R86); g0 never becomes EMPTY (R82). -/
def Ctx.markEmpty (c : Ctx) (ks : List Nat) : Ctx :=
  ks.foldl (fun c k => c.setRegAt k { c.regAt k with pres := .empty, armed := none, fault := none }) c

/-- Issues a load outside the own scratchpad: the destinations become EMPTY, and the requests leave (R86, R230, R264). -/
def State.issueLoad (s : State) (kind : AccKind) (space : Nat) (ps : List Piece) (dest : List Nat) (how : Deposit)
    (got : Tab Nat := []) (chain : Bool := false) : State :=
  let gs := groupPieces ps
  let key := s.nextId
  let t := s.updMe (fun c => { (c.markEmpty dest) with
    loads := c.loads ++ [{ key := key, dest := dest, left := gs.length, how := how, got := got }] })
  t.sendAcc kind space gs key false false chain

/-- How many more stores of a space the context may post (R231: 32 cluster stores; R265: 64 DEVICE stores). -/
def State.places_ (s : State) (space : Nat) : Nat := if space = 2 then 64 - s.devStores else 32 - s.cluStores

/-- Whether the context has room for `w` more posted stores of a space. -/
def State.room (s : State) (space w : Nat) : Bool := decide (w ≤ s.places_ space)

/-- Posts a store outside the own scratchpad; without room the instruction waits, and that wait is not a blocked wait. -/
def postStore (s : State) (kind : AccKind) (space : Nat) (ps : List Piece) (gtag of : Bool) : Ex State :=
  if s.room space ps.length then .ok (s.sendAcc kind space (groupPieces ps) 0 gtag of) else .error (.stall s)

/-- The leaf kind that a DEVICE address has for the current context, as its station sees it: 0 local, 1 peer, 2 I/O. -/
def State.leafKind (s : State) (va : Word) : Option Nat :=
  match (findLeaf s s.die s.me.pid.toNat va).1 with
  | some (_, leaf) => some (fld leaf 11 10)
  | none => none

/-! ## LD, ST, LDC, STC -/

/-- Size of an access in bytes (R173). -/
def szBytes : Sz → Nat | .b => 1 | .h => 2 | .w => 4 | .d => 8 | .q => 16

/-- The address of a page-4 access and its checks up to alignment (R94, R173): spaces LOCAL, CLUSTER, DEVICE. -/
def pageFour (o : Ops) (s : State) (n : Nat) (need : List Nat) : Ex (Cap × Word) := do
  capTag s o.b
  let c := s.capAt o.b
  let a := c.cur + o.imm
  capPerm s c a need
  capSpace c a [0, 1, 2]
  capBound c a n
  check (a.toNat % n == 0) .align a
  .ok (c, a)

/-- The value of n loaded bytes (R173). -/
def extend (n : Nat) (sg : Bool) (v : Nat) : Quad :=
  if n = 16 then BitVec.ofNat 128 v
  else if sg then (BitVec.ofInt 64 (sxNat (8 * n) v)).setWidth 128 else BitVec.ofNat 128 v

/-- LD (R173). -/
def execLd (sg : Bool) (z : Sz) (o : Ops) (s : State) : Out := s.settle (do
  check88 s [dst o.d, src o.b o.epb 2]
  let n := szBytes z
  let (c, a) ← pageFour o s n [pRD]
  if s.isOwn c.spc a then do
    ownCheck s a n false
    .ok (s.putQ o.d (extend n sg (leVal (ownRead s a n))))
  else .ok (s.issueLoad .load c.spc [{ part := 0, va := a, n := n }] [s.me.ix o.d.toNat] (.raw n sg)))

/-- ST (R173). -/
def execSt (z : Sz) (o : Ops) (s : State) : Out := s.settle (do
  check88 s [src o.a o.epa, src o.b o.epb 2]
  dataTag s o.a.toNat
  let n := szBytes z
  let (c, a) ← pageFour o s n [pWR]
  let bs := leBytes n (s.bits o.a).toNat
  if s.isOwn c.spc a then do
    ownCheck s a n true
    .ok (ownWrite s a bs)
  else postStore s .store c.spc [{ part := 0, va := a, n := n, bytes := bs }] false o.of)

/-- The two registers that a granule gives (R95): a capability when its tag bit is set. -/
def granRegs (tagged : Bool) (v : Nat) : List (Quad × Tag) :=
  [(BitVec.ofNat 128 v, if tagged then .caph else .data), (BitVec.ofNat 128 (v / 2 ^ 128), if tagged then .capt else .data)]

/-- LDC (R174): an uncorrectable tag error raises POIS (R179). -/
def execLdc (o : Ops) (s : State) : Out := s.settle (do
  check88 s [dst o.d 2, src o.b o.epb 2]
  let (c, a) ← pageFour o s 32 [pRD, pLC]
  if s.isOwn c.spc a then do
    ownCheck s a 32 false
    let loc := spad s.cid (a.toNat % 2 ^ 19)
    let v := s.mine
    if v.tagPoison.contains (loc / 32) then
      .error (.post .pois a { s with tagPoison := s.tagPoison.filter (· != loc / 32) })
    else .ok (s.putL o.d (granRegs (v.tagged.contains (loc / 32)) (v.numAt loc 32)))
  else
    let k := s.me.ix o.d.toNat
    .ok (s.issueLoad .loadGran c.spc [{ part := 0, va := a, n := 32 }] [k, k + 1] .granule))

/-- STC (R174): a capability without GL goes only to LOCAL space, and none to a peer aperture. -/
def execStc (o : Ops) (s : State) : Out := s.settle (do
  check88 s [src o.a o.epa 2, src o.b o.epb 2]
  capTag s o.a
  let (c, a) ← pageFour o s 32 [pWR, pSC]
  check (bitAt (s.capAt o.a).prm pGL || c.spc == 0) .perm a
  check (c.spc != 2 || s.leafKind a != some 1) .perm a
  let bs := leBytes 16 (s.bits o.a).toNat ++ leBytes 16 (s.me.reg (o.a.toNat + 1)).bits.toNat
  if s.isOwn c.spc a then do
    ownCheck s a 32 true
    .ok (s.queueStore { lid := s.me.lid, off := a.toNat % 2 ^ 19, kind := .gran, bytes := bs })
  else postStore s .storeGran c.spc [{ part := 0, va := a, n := 32, bytes := bs }] true false)

/-! ## Vector memory (R121, R122) -/

/-- The active lanes with their addresses, ascending. -/
def laneAddrs (act : BitVec 16) (f : Nat → Word) : List (Nat × Word) :=
  ((List.range 16).filter (bitAt act ·)).map (fun i => (i, f i))

/-- The checks of one lane at issue (R121): bounds, alignment, and for a lane in the own scratchpad those of its home. TVAL is the lane's
address; for LOCK too (R121, where R171 says the lowest locked address: log 57), for ABN the register (R85, R167; log 32), and for a scale
outside its bank the scale's LOCAL address (R130). -/
def issueLane (s : State) (c : Cap) (t : VTy) (st : Option RegNo) (l : Nat × Word) : Ex Unit := do
  capBound c l.2 4
  check (l.2.toNat % 4 == 0) .align l.2
  if s.isOwn c.spc l.2 then
    if s.gate then .error (.stall s)
    else match laneCheck s.mine s.cid (l.2.toNat % 2 ^ 19) t (st.map (fun n => s.me.lane n.toNat l.1)) (s.me.level == .system) with
    | some .abn => .error (.trap .abn (BitVec.ofNat 64 ((st.getD 0).toNat + l.1 / 4)))
    | some cause => .error (.trap cause (s.myCore.laneTval (l.2.toNat % 2 ^ 19) t cause l.2))
    | none => .ok ()

/-- All the checks of a vector access before any lane is accessed (R121). -/
def vecChecks (s : State) (c : Cap) (b : RegNo) (t : VTy) (st : Option RegNo) (need : Nat) (ls : List (Nat × Word)) : Ex Unit := do
  capTag s b
  match ls with
  | [] => .ok ()
  | l :: _ => do
    capPerm s c l.2 [need]
    capSpace c l.2 [0, 1, 2]
    ls.forM (issueLane s c t st)

/-- A vector load (R121, R122) of the lanes given; `regs` is how R88 sees the operands. -/
def vecLoad (o : Ops) (s : State) (t : VTy) (regs : List Rd) (num : List RegNo) (addr : Nat → Word) : Ex State := do
  check88 s regs
  for n in num do numWin s n 4
  let c := s.capAt o.b
  let ls := laneAddrs (s.gov o) addr
  vecChecks s c o.b t none pRD ls
  let own := ls.filter (fun l => s.isOwn c.spc l.2)
  let vals := own.map (fun l => (l.1, laneRead s.mine s.cid (l.2.toNat % 2 ^ 19) t))
  let got (i : Nat) : BitVec 32 := match vals.find? (fun v => v.1 == i) with | some v => v.2.1 | none => s.me.lane o.d.toNat i
  let u := (s.putLanes o.d ((List.range 16).map got)).setFlags (vals.foldl (fun f v => f ||| v.2.2) 0)
  match ls.filter (fun l => !s.isOwn c.spc l.2) with
  | [] => .ok u
  | rest =>
    let k := s.me.ix o.d.toNat
    .ok (u.issueLoad (.loadLane t) c.spc (rest.map (fun l => { part := l.1, va := l.2, n := 4 })) [k, k + 1, k + 2, k + 3] .lane)

/-- A lane is stored into the own scratchpad through the store queue, with the flags of its conversion (R168, R177). -/
def State.queueLane (s : State) (t : VTy) (p : Piece) : State :=
  let v := BitVec.ofNat 32 (leVal p.bytes)
  let off := p.va.toNat % 2 ^ 19
  (s.queueStore { lid := s.me.lid, off := off, kind := .lane t v }).setFlags (laneWrite s.mine s.me.lid s.cid off t v).2

/-- Performs and posts the lanes of a vector store in ascending order, as far as there are places (R122): the number of lanes left over. DESIGN
CHOICE (log 66): posted lanes are performed in that order where one route carries them, to one home core, or through one station to one slice
(R253, R291); lanes on different routes may be performed in another order. -/
def storeGroups (c : Cap) (t : VTy) : List (List Piece) → State → State × Nat
  | [], s => (s, 0)
  | g :: gs, s =>
    match g with
    | [] => storeGroups c t gs s
    | p :: _ =>
      if s.isOwn c.spc p.va then storeGroups c t gs (g.foldl (fun s p => s.queueLane t p) s)
      else
        let n := min g.length (s.places_ c.spc)
        let s' := if n = 0 then s else s.sendAcc (.storeLane t) c.spc [g.take n] 0 false false
        if n = g.length then storeGroups c t gs s' else (s', g.length - n + (gs.map List.length).sum)

/-- A vector store (R121, R122): the checks once, then the lanes; what finds no place is issued on later turns, and that wait is
not a blocked wait. The phase remembers how many lanes are done. -/
def vecStore (o : Ops) (s : State) (t : VTy) (data : RegNo) (regs : List Rd) (num : List RegNo) (addr : Nat → Word) : Ex State := do
  let c := s.capAt o.b
  let ls := laneAddrs (s.gov o) addr
  let ps : List Piece := ls.map (fun l => { part := l.1, va := l.2, n := 4, bytes := leBytes 4 (s.me.lane data.toNat l.1).toNat })
  let done := match s.me.phase with | .part k _ => k | _ => 0
  if done = 0 then do
    check88 s regs
    dataTags s ((List.range 4).map (data.toNat + ·))
    for n in num do numWin s n 4
    vecChecks s c o.b t (some data) pWR ls
  let r := storeGroups c t (groupPieces (ps.drop done)) s
  if r.2 = 0 then .ok r.1
  else .error (.stall (r.1.setPhase (if ps.length = r.2 then .idle else .part (ps.length - r.2) 0)))

/-- VLD (R121). -/
def execVld (t : VTy) (o : Ops) (s : State) : Out :=
  s.settle (vecLoad o s t [dst o.d 4, src o.b o.epb 2] [] (fun i => (s.capAt o.b).cur + o.imm + BitVec.ofNat 64 (4 * i)))
/-- VST (R121). -/
def execVst (t : VTy) (o : Ops) (s : State) : Out :=
  s.settle (vecStore o s t o.a [src o.a o.epa 4, src o.b o.epb 2] [] (fun i => (s.capAt o.b).cur + o.imm + BitVec.ofNat 64 (4 * i)))
/-- VLDS (R121). -/
def execVlds (t : VTy) (o : Ops) (s : State) : Out :=
  s.settle (vecLoad o s t [dst o.d 4, src o.b o.epb 2] [] (fun i => (s.capAt o.b).cur + BitVec.ofNat 64 i * o.imm))
/-- VSTS (R121). -/
def execVsts (t : VTy) (o : Ops) (s : State) : Out :=
  s.settle (vecStore o s t o.a [src o.a o.epa 4, src o.b o.epb 2] [] (fun i => (s.capAt o.b).cur + BitVec.ofNat 64 i * o.imm))
/-- VGTH (R121). -/
def execVgth (t : VTy) (o : Ops) (s : State) : Out :=
  s.settle (vecLoad o s t [dst o.d 4, src o.a o.epa 4, src o.b o.epb 2] [o.a]
    (fun i => (s.capAt o.b).cur + (s.me.lane o.a.toNat i).signExtend 64))
/-- VSCT (R121): the data are named by PX.REG.c. -/
def execVsct (t : VTy) (o : Ops) (s : State) : Out :=
  s.settle (vecStore o s t o.c [srcC o.c 4, src o.a o.epa 4, src o.b o.epb 2] [o.a]
    (fun i => (s.capAt o.b).cur + (s.me.lane o.a.toNat i).signExtend 64))

end Sys2Proof.Machine
end

