-- ==== Sys2Proof/Machine/Atomic.lean ====
section
/-! DEFINITION. Atomic.lean: AMO and CAS at every scope (R176, R232, R266 to R269, R383), and the fences (R271 to R274, R381).
What an atomic does at a home other than the own scratchpad is in MemEvents.lean. -/

namespace Sys2Proof.Machine

/-! ## The operations (R267, R268, R223) -/

/-- The new memory value of an AMO (R267) over n bits; none when a .FADD finds m of the ABN payload class. -/
def amoNew (op : AmoOp) (bits : Nat) (m v : Nat) : Option Nat :=
  let sx (x : Nat) : Int := sxNat bits x
  match op with
  | .add => some ((m + v) % 2 ^ bits)
  | .and => some (m &&& v)
  | .or => some (m ||| v)
  | .xor => some (m ^^^ v)
  | .min => some (if sx m ≤ sx v then m else v)
  | .max => some (if sx m ≤ sx v then v else m)
  | .minu => some (min m v)
  | .maxu => some (max m v)
  | .swap => some v
  | .fadd => if isAbn (BitVec.ofNat 32 m) then none else some (f32Add 0 (BitVec.ofNat 32 m) (BitVec.ofNat 32 v)).1.toNat

/-- Width in bytes of an atomic. -/
def Atom.n (a : Atom) : Nat := if a.dbl then 8 else 4

/-- What an atomic writes, given the old value (none: nothing is written; .error: ABN). -/
def Atom.new (a : Atom) (m : Nat) : Except Unit (Option Nat) :=
  let v := a.val.toNat % 2 ^ (8 * a.n)
  match a.kind with
  | .amo op => match amoNew op (8 * a.n) m v with | some x => .ok (some x) | none => .error ()
  | .cas e => .ok (if m = e.toNat % 2 ^ (8 * a.n) then some v else none)
  | .raise => .ok (some (if sxNat 32 m < sxNat 32 v then v else m))

/-- What an atomic returns: the old value, zero-extended, or sign-extended for a threshold cell (R223). -/
def Atom.result (a : Atom) (m : Nat) : Quad :=
  match a.kind with
  | .raise => (BitVec.ofInt 64 (sxNat 32 m)).setWidth 128
  | _ => BitVec.ofNat 128 m

/-- Checks of an atomic at a scratchpad home (R171, R164, R298, R179): it reads and writes the word; at no level does an atomic
write a resident bank (log 28). -/
def atomHome (s : State) (cid off n : Nat) : Except (Cause × Nat) Unit :=
  match homeCheck s cid off n true false with
  | .error e => .error e
  | .ok () => match s.poisonedAt (spad cid off) n with
    | some l => .error (.pois, l - spad cid 0)
    | none => .ok ()

/-- Performs an atomic at a location: the state and what it answers. A failed write-verify poisons the word, and the atomic
counts as not performed (R176, R232, R290). -/
def State.atomAt (s : State) (a : Atom) (lid : Word) (loc : Nat) (eccBad : Bool) : State × Answer :=
  let m := s.numAt loc a.n
  if eccBad then (s.setPoison loc, { fault := some ⟨.pois, a.va⟩ })
  else
    match a.new m with
    | .error () => (s, { fault := some ⟨.abn, a.va⟩ })
    | .ok none => (s, { data := a.result m })
    | .ok (some x) => ((s.store lid loc (leBytes a.n x)).noteVa lid a.va loc (leBytes a.n x), { data := a.result m })

/-- What the instruction does with the answer of its atomic: the fault is raised precisely, or the destination is written. -/
def atomReply (s : State) (d : Option RegNo) (a : Answer) : Ex State :=
  match a.fault with
  | some f => .error (.trap f.cause f.val)
  | none => .ok (match d with | some r => s.putQ r a.data | none => s)

/-- Performs an atomic in the own scratchpad (R176, R177, R223, R253): every earlier load, scratchpad store, atomic and message of the context
has been performed; it waits for no DEVICE store (R265). An uncorrectable error in the write-verify poisons the word, and the atomic is not
performed. An .NR .FADD that finds a value of the ABN class is refused under R265 (R267). -/
def atomOwn (s : State) (a : Atom) (d : Option RegNo) : Ex State :=
  if s.loadsOut || s.gate || s.queueOut || s.cluStoresOut then .error (.stall s)
  else
    let off := a.va.toNat % 2 ^ 19
    match atomHome s s.cid off a.n with
    | .error (c, o) => .error (.trap c (asAddr a.va off o))
    | .ok () =>
      let t := if s.myCore.verifyBad then s.updMyCore (fun k => { k with verifyBad := false }) else s
      let r := t.atomAt a s.me.lid (spad s.cid off) s.myCore.verifyBad
      match r.2.fault with
      | some f => if a.nr && f.cause == .abn then .ok (r.1.updMe (·.refuseDev (some f))) else .error (.post f.cause f.val r.1)
      | none => atomReply r.1 d r.2

/-- The route an atomic takes (R232, R269, R383): as a CORE atomic, through the cluster unit, or to a slice. An .NR atomic at DEV or SYS is posted
as a DEVICE store, one of 64, wherever its home is (R265, R269). -/
def atomGo (s : State) (a : Atom) (d : Option RegNo) : Ex State :=
  if a.scp = .core then atomOwn s a d
  else
    let dev := decide (a.scp = .dev ∨ a.scp = .sys)
    let order (s : State) : Ex Unit := do
      if s.loadsOut || s.queueOut || s.streamBusy s.cur then .error (.stall s)
      settleStores s dev
      if a.scp = .sys && (s.storesOut s.cur s.me.fire || s.net.any (fun m => m.isPeer s.cur s.me.fire)) then .error (.wait 6 0 s)
      if a.scp = .sys && !a.nr then reportRefusals s false false true
    if a.nr && a.scp == .sys && a.space == 2 then
      let req : Ex State := do
        order s
        .ok (s.send s.cur (.atom a))
      ask s req (atomReply s d)
    else if a.nr then do
      order s
      if s.room (if dev then 2 else a.space) 1 then .ok (s.send s.cur (.atom a)) else .error (.stall s)
    else rpc s 6 0 (do order s; .ok (s.send s.cur (.atom a))) (atomReply s d)

/-- The capability checks of an atomic (R94, R176, R232, R269). -/
def atomAccess (o : Ops) (s : State) (n : Nat) : Ex (Cap × Word) := do
  capTag s o.b
  let c := s.capAt o.b
  let a := c.cur
  capPerm s c a [pRD, pWR, pAT]
  capSpace c a (match o.scp with | .core => [0, 1] | .clu => [0, 1] | _ => [0, 1, 2])
  capBound c a n
  if o.scp = .core then check (s.isOwn c.spc a) .perm a
  check (a.toNat % n == 0) .align a
  .ok (c, a)

/-- AMO (R266, R267). -/
def execAmo (nr dbl : Bool) (op : AmoOp) (o : Ops) (s : State) : Out := s.settle (do
  check88 s ((if nr then [] else [dst o.d]) ++ [src o.a o.epa, src o.b o.epb 2])
  numTag s o.a.toNat
  let n := if dbl then 8 else 4
  let v := s.lo o.a
  let (c, a) ← atomAccess o s n
  check (!(op == .fadd && isAbn (v.setWidth 32))) .abn (BitVec.ofNat 64 o.a.toNat)
  atomGo s { kind := .amo op, space := c.spc, va := a, dbl := dbl, val := v, nr := nr, scp := o.scp,
             det := bitAt s.me.ctlw 0, ord := o.of } (if nr then none else some o.d))

/-- CAS (R268): the destination holds the expected value. DESIGN CHOICE (log 14): the tag of the new value in a is looked at before that of the
expected value. -/
def execCas (dbl : Bool) (o : Ops) (s : State) : Out := s.settle (do
  check88 s [srcC o.d, src o.a o.epa, src o.b o.epb 2]
  numTags s [o.a.toNat, o.d.toNat]
  let n := if dbl then 8 else 4
  let (c, a) ← atomAccess o s n
  atomGo s { kind := .cas (s.lo o.d), space := c.spc, va := a, dbl := dbl, val := s.lo o.a, nr := false, scp := o.scp,
             det := bitAt s.me.ctlw 0, ord := o.of } (some o.d))

/-! ## Fences (R271 to R274, R381) -/

/-- A range of a fence: none is every address of every space (R274). -/
abbrev FRange := Option (FSp × Nat × Nat)

/-- Whether a piece of an access of context g lies in a fence's range (R271: scratchpad ranges match by home byte, DEVICE
ranges by address). -/
def inRange (r : FRange) (g : Nat) (space : Nat) (va : Word) (n : Nat) : Bool :=
  match r with
  | none => true
  | some (sp, lo, len) =>
    let a := va.toNat
    let clu := if space = 0 then g / 4 % 16 * 2 ^ 19 + a else a
    match sp with
    | .d => space == 2 && decide (a < lo + len ∧ lo < a + n)
    | .c => decide (space < 2) && decide (clu < lo + len ∧ lo < clu + n)
    | .l => decide (space < 2) && clu / 2 ^ 19 == g / 4 % 16 && decide (clu % 2 ^ 19 < lo + len ∧ lo < clu % 2 ^ 19 + n)

/-- Whether a queued store of a context lies in a fence's range (R177, R272). -/
def QStore.inFence (e : QStore) (r : FRange) (g : Nat) : Bool := inRange r g 0 (BitVec.ofNat 64 e.off) (max 4 e.bytes.length)

/-- Whether something in flight of the current context lies in a fence's range. -/
def Msg.inFence (m : Msg) (r : FRange) : Bool :=
  match m.body with
  | .acc a => a.pieces.any (fun p => inRange r m.g a.space p.va p.n) || a.pieces.isEmpty
  | .atom a => inRange r m.g a.space a.va a.n
  | .stg x => inRange r m.g 2 m.va x.bytes.length
  | _ => false

/-- Something in flight has a DEVICE address. -/
def Msg.onDevice (m : Msg) : Bool :=
  match m.body with | .acc a => a.space == 2 | .atom a => a.space == 2 | _ => false

/-- The waits and reports of a fence (R272, R381): the queued stores in range, acknowledgements by scope,
earlier loads in range for the acquire forms, at SYS the peer accesses in range with those that no station has translated yet, then the
recorded refusals in order. -/
def fence (s : State) (scp : Scope) (ord : FOrd) (r : FRange) : Ex Unit :=
  let clu := decide (scp ≠ .core)
  let dev := decide (scp = .dev ∨ scp = .sys)
  let acq := decide (ord ≠ .rel)
  let far (m : Msg) : Bool := m.g == s.cur && m.fire == s.me.fire && (m.toPeer || ((m.stage == .new || m.stage == .held) && m.onDevice))
  let out := (s.me.storeq.any (fun e => e.inFence r s.cur)) || (clu && s.cluStores != 0) || (dev && s.devStores != 0) ||
    (acq && s.net.any (fun m => m.isLoad s.cur s.me.fire && m.inFence r)) ||
    (scp = .sys && s.net.any (fun m => far m && m.inFence r))
  if out then .error (.wait 6 0 s) else reportRefusals s clu dev (scp = .sys)

/-- FNC (R271, R272). -/
def execFnc (sp : FSp) (ord : FOrd) (o : Ops) (s : State) : Out := s.settle (do
  check88 s [src o.a o.epa, src o.b o.epb]
  numTags s [o.a.toNat, o.b.toNat]
  fence s o.scp ord (some (sp, (s.lo o.a).toNat, (s.lo o.b).toNat))
  .ok s)

/-- Whether something in flight is a posted spatial operation of a context's firing that is not acknowledged (R313). -/
def Msg.isPosted (m : Msg) (g fire : Nat) : Bool :=
  m.g == g && m.fire == fire && (match m.body with | .sp x => x.posted | _ => false)

/-- Whether a read of a record by a context's firing is in flight (R310). -/
def Msg.isSld (m : Msg) (g fire : Nat) : Bool :=
  m.g == g && m.fire == fire && (match m.body with | .sp x => (match x.op with | .read .. => true | _ => false) | _ => false)

/-- FNCA (R177, R274): it waits for the store queue; at DEV scope or wider also for the posted spatial operations, and in the acquire forms for
the reads of records (R312). -/
def execFnca (ord : FOrd) (o : Ops) (s : State) : Out := s.settle (do
  if s.queueOut then .error (.wait 6 0 s)
  if (o.scp == .dev || o.scp == .sys) && s.net.any (fun m =>
      m.isPosted s.cur s.me.fire || (ord != .rel && m.isSld s.cur s.me.fire)) then .error (.wait 6 0 s)
  fence s o.scp ord none
  .ok s)

/-- Whether a cached translation's span overlaps a range of virtual addresses. -/
def TlbEntry.overlaps (e : TlbEntry) (lo len : Nat) : Bool :=
  decide (e.vpn * 2 ^ 16 < lo + len ∧ lo < (e.vpn + leafSpan e.leaf) * 2 ^ 16)

/-- Whether a packet that stages a store for a group was translated under a LOCAL leaf: its destination is the issuer's own package, alone (R398). -/
def Msg.stgHere (m : Msg) (pkg : Nat) : Bool := match m.body with | .stg x => x.pkg == pkg && x.mir.isNone | _ => false

/-- FNC.INV (R273): performs FNC.AR, drops the cached translations of the process identifier whose span overlaps the range in
every station of the package (peer leaves only at SYS), and completes when every request translated under them, of any
context, has been performed and acknowledged; the phase remembers which requests had left by then. -/
def execFncInv (o : Ops) (s : State) : Out := s.settle (do
  check (s.me.level == .system) .priv 0
  check88 s [src o.a o.epa, src o.b o.epb]
  numTags s [o.a.toNat, o.b.toNat]
  let lo := (s.lo o.a).toNat
  let len := (s.lo o.b).toNat
  let pid := s.me.pid
  let busy (before : Nat) : Bool := s.net.any (fun m => m.pid == pid.toNat && decide (m.id < before) && m.stage != .held &&
    decide (m.span.1 < lo + len ∧ lo < m.span.1 + m.span.2) && (!m.toPeer || m.stgHere s.pkgNo || o.scp == .sys))
  match s.me.phase with
  | .part k _ => if busy k then .error (.wait 6 0 s) else .ok s
  | _ => do
  fence s o.scp .ar (some (.d, lo, len))
  let hit (e : TlbEntry) : Bool := e.pid == pid && e.overlaps lo len && (o.scp == .sys || fld e.leaf 11 10 != 1)
  let t : State := { s with dies := s.dies.map (fun e => (e.1, { e.2 with tlb := e.2.tlb.filter (fun e => !hit e.2) })) }
  if busy s.nextId then .error (.wait 6 0 (t.setPhase (.part s.nextId 0))) else .ok t)

end Sys2Proof.Machine
end

