-- ==== Sys2Proof/Machine/Control.lean ====
section
/-! DEFINITION. Control.lean: the instructions that steer a firing (R58 to R77): the Z group but FIN and RET, branches and calls,
tag gating, actor control, spawns, traps. FIN and RET are in Fin.lean. -/

namespace Sys2Proof.Machine

/-- NOP (R65). -/
def execNop (s : State) : Out := .next s.endNext

/-- BRK (R65): raises BRK with TVAL = 0. -/
def execBrk (s : State) : Out := s.settle (.error (.trap .brk 0))

/-- The heartbeat interval (R61): 0 or any value above 1,200,000 acts as 1,200,000. -/
def Ctx.interval (c : Ctx) : Nat :=
  if fld c.hbi 31 0 = 0 ∨ 1200000 < fld c.hbi 31 0 then 1200000 else fld c.hbi 31 0

/-- HB (R58): reloads the heartbeat counter. -/
def execHb (s : State) : Out := .next (s.updMe (fun c => { c with hb := c.interval, missed := false })).endNext

/-- WFE (R60). -/
def execWfe (s : State) : Out := s.settle (
  if s.me.event then .ok (s.updMe (fun c => { c with event := false })) else .error (.wait 6 0 s))

/-- ERET (R75): PRIV at user level; the target's bit 0 is checked (R25). -/
def execEret (s : State) : Out := s.settle (do
  check (s.me.level == .system) .priv 0
  check (!bitAt s.me.tpc 0) .align s.me.tpc
  .error (.over (s.updMe Ctx.returnFromTrap)))

/-- B (R66). -/
def execB (o : Ops) (s : State) : Out := s.settle (jump s (s.target o))

/-- CALL (R66): pushes before it transfers. -/
def execCall (o : Ops) (s : State) : Out := s.settle (do
  let t ← push s s.nextPc
  jump t (s.target o))

/-- JR (R67). -/
def execJr (o : Ops) (s : State) : Out := s.settle (do
  check88 s [src o.a o.epa]
  numTag s o.a.toNat
  jumpChecked s ((s.lo o.a).setWidth 56 |>.setWidth 64))

/-- CALLR (R67): the push comes first, and a failing target check undoes it. -/
def execCallr (o : Ops) (s : State) : Out := s.settle (do
  check88 s [src o.a o.epa]
  numTag s o.a.toNat
  let target : Word := (s.lo o.a).setWidth 56 |>.setWidth 64
  let t ← push s s.nextPc
  check (!bitAt target 0) .align target
  jump t (target.setWidth 56))

/-- BZ (R66). -/
def execBz (o : Ops) (s : State) : Out := s.settle (branchOn o s (· == 0))
/-- BNZ (R66). -/
def execBnz (o : Ops) (s : State) : Out := s.settle (branchOn o s (· != 0))
/-- BLTZ (R66). -/
def execBltz (o : Ops) (s : State) : Out := s.settle (branchOn o s (fun x => x.msb))
/-- BGEZ (R66). -/
def execBgez (o : Ops) (s : State) : Out := s.settle (branchOn o s (fun x => !x.msb))
/-- MANY (R66). -/
def execMany (o : Ops) (s : State) : Out := s.settle (branchMask o s (· != 0))
/-- MALL (R66). -/
def execMall (o : Ops) (s : State) : Out := s.settle (branchMask o s (· == 0xFFFF))

/-- TRAP (R77): raises SYS with TVAL = the immediate. -/
def execTrap (o : Ops) (s : State) : Out := s.settle (.error (.trap .sys o.imm))

/-! ## Route tags (R71) -/

/-- TEN (R71). -/
def execTen (o : Ops) (s : State) : Out := s.settle (do
  let v ← arg1 o s
  .ok ((s.updMyCore (fun k => { k with tagsEn := k.tagsEn ||| v.setWidth 16 })).put o.d (s.myCore.tagsEn.setWidth 64)))

/-- TDIS (R71). -/
def execTdis (o : Ops) (s : State) : Out := s.settle (do
  let v ← arg1 o s
  .ok ((s.updMyCore (fun k => { k with tagsEn := k.tagsEn &&& ~~~(v.setWidth 16) })).put o.d (s.myCore.tagsEn.setWidth 64)))

/-- Whether a packet for a tag waits undelivered (R62, R63), as a 16-bit mask. -/
def Core.pnd (c : Core) : BitVec 16 := BitVec.ofNat 16 (c.edge.foldl (fun m p => m ||| 2 ^ p.tag) 0)

/-- TPND (R71). -/
def execTpnd (o : Ops) (s : State) : Out := s.settle (do
  let v ← arg1 o s
  .ok (s.put o.d ((s.myCore.pnd &&& v.setWidth 16).setWidth 64)))

/-! ## Actor control (R49 to R51, R72, R73) -/

/-- A FIFO entry of a descriptor (R50). -/
def fifoOf (w : Word) : Fifo where
  ring := fld w 18 0
  cap := fld w 30 19
  size := 4 * (fld w 36 31 + 1)
  rate := fld w 44 37
  tag := fld w 48 45
  dst := fld w 59 49
  bind := fld w 61 60

/-- The first byte after a ring. -/
def Fifo.limit (f : Fifo) : Nat := f.ring + f.cap * f.size

/-- The used entries of an actor with their positions: 0 to 3 inputs, 4 to 7 outputs. -/
def Actor.used (a : Actor) : List (Nat × Fifo) := ((List.range 8).zip a.fifos).filter (fun e => e.2.rate != 0)

/-- Two used entries may stand together (R51): they do not overlap, or they are a local-link output and input of one ring. -/
def fifoPair (x y : Nat × Fifo) : Bool :=
  decide (x.2.limit ≤ y.2.ring ∨ y.2.limit ≤ x.2.ring) ||
  (x.2.ring == y.2.ring && x.2.cap == y.2.cap && x.2.size == y.2.size && x.2.bind == 1 && y.2.bind == 1 &&
    decide (x.1 < 4) != decide (y.1 < 4))

/-- Every two entries of a list may stand together, and no ring is named by a third entry (R51). -/
def fifosOk (l : List (Nat × Fifo)) : Bool :=
  (List.range l.length).all (fun i => (List.range l.length).all (fun j =>
    i == j || fifoPair (l.getD i default) (l.getD j default))) &&
  l.all (fun x => decide ((l.filter (fun y => y.2.ring == x.2.ring)).length ≤ 2)) &&
  l.all (fun x => !(decide (x.1 < 4) && x.2.bind == 2) ||
    (x.2.tag != 0 && (l.filter (fun y => decide (y.1 < 4) && y.2.bind == 2 && y.2.tag == x.2.tag)).length == 1))

/-- The used entries of the defined actors but one. -/
def Core.otherFifos (c : Core) (i : Nat) : List (Nat × Fifo) := (c.actors.filter (fun e => e.1 != i)).flatMap (fun e => e.2.used)

/-- The actor a descriptor describes, if it is accepted (R49 to R51). -/
def actorOf (c : Core) (i : Nat) (bs : List Byte) : Option Actor :=
  let w (k : Nat) : Word := BitVec.ofNat 64 (leVal ((bs.drop (8 * k)).take 8))
  let fs := (List.range 8).map (fun k => w (2 + k))
  let a : Actor := { entry := (w 0).setWidth 56, prio := fld (w 1) 2 0, en := bitAt (w 1) 8, fifos := fs.map fifoOf }
  if fld (w 0) 63 56 = 0 ∧ !bitAt (w 0) 0 ∧ fld (w 1) 7 3 = 0 ∧ fld (w 1) 63 9 = 0 ∧
     fs.all (fun f => fld f 63 62 == 0) ∧
     a.fifos.all (fun f => if f.rate = 0 then f.bind == 0 else (f.bind == 1 || f.bind == 2) && f.ring % 32 == 0 &&
       decide (1 ≤ f.cap) && f.cap % f.rate == 0 && decide (f.limit ≤ 0x80000)) ∧
     fifosOk (a.used ++ c.otherFifos i)
  then some a else none

/-- The rings after an actor entry is replaced (R72): those it shares with another actor keep their count, its others start
empty, with a new generation, and rings that no actor uses are released. -/
def ringsAfter (c : Core) (i : Nat) (a : Actor) (gen : Nat) : Tab Ring :=
  let others := (c.otherFifos i).map (fun f => f.2.ring)
  let kept := c.rings.filter (fun e => others.contains e.1)
  a.used.foldl (fun t f => if others.contains f.2.ring then t else t.put f.2.ring { gen := gen }) kept

/-- ACTDEF (R72). -/
def execActdef (o : Ops) (s : State) : Out := s.settle (do
  check88 s [dst o.d, src o.a o.epa, src o.b o.epb 2]
  numTag s o.a.toNat
  capTag s o.b
  let c := s.capAt o.b
  capPerm s c c.cur [pRD]
  capSpace c c.cur [0]
  capBound c c.cur 80
  check (c.cur.toNat % 16 == 0) .align c.cur
  ownCheck s c.cur 80 false
  let i := (s.lo o.a).toNat
  let status (v : Word) : Ex State := .ok (s.put o.d v)
  if 31 < i then status 1
  else if ((s.myCore.actors.find i).bind (·.ctx)).isSome then status 2
  else match actorOf s.myCore i (ownRead s c.cur 80) with
    | none => status 3
    | some a => .ok ((s.updMyCore (fun k => { k with actors := k.actors.put i a, rings := ringsAfter k i a s.turns })).put o.d 0))

/-- The operands of ACTCTL: the actor index and the operand. -/
def actctl (o : Ops) (s : State) (f : Nat → Actor → Ex State) : Ex State := do
  let (i, _) ← arg2 o s
  match (if i.toNat ≤ 31 then s.myCore.actors.find i.toNat else none) with
  | none => .ok (s.put o.d 1)
  | some a => f i.toNat a

/-- Replaces an actor entry of the own core. -/
def State.putActor (s : State) (i : Nat) (a : Actor) : State := s.updMyCore (fun k => { k with actors := k.actors.put i a })

/-- ACTCTL.ENA (R73). -/
def execActctlEna (o : Ops) (s : State) : Out := s.settle (actctl o s (fun i a => .ok ((s.putActor i { a with en := true }).put o.d 0)))
/-- ACTCTL.DIS (R73). -/
def execActctlDis (o : Ops) (s : State) : Out := s.settle (actctl o s (fun i a => .ok ((s.putActor i { a with en := false }).put o.d 0)))
/-- ACTCTL.PRI (R73). -/
def execActctlPri (o : Ops) (s : State) : Out :=
  s.settle (actctl o s (fun i a => .ok ((s.putActor i { a with prio := fld (s.lo o.b) 2 0 }).put o.d 0)))

/-- The status word of an actor (R73). -/
def actorWord (k : Core) (a : Actor) : Word :=
  let occ (j : Nat) : Nat := let f := a.fifos.getD j default; if f.rate = 0 then 0 else (k.rings.get {} f.ring).occ
  BitVec.ofNat 64 (1 + a.en.toNat * 2 + a.ctx.isSome.toNat * 4 + a.prio * 8 +
    occ 0 * 2 ^ 16 + occ 1 * 2 ^ 28 + occ 2 * 2 ^ 40 + occ 3 * 2 ^ 52)

/-- ACTCTL.STAT (R73): zero for an actor that is not defined. -/
def execActctlStat (o : Ops) (s : State) : Out := s.settle (do
  let (i, _) ← arg2 o s
  .ok (s.put o.d (match (if i.toNat ≤ 31 then s.myCore.actors.find i.toNat else none) with
    | none => 0
    | some a => actorWord s.myCore a)))

/-- Whether a firing holds the block in a ring that it will produce. -/
def Core.producing (k : Core) (ring : Nat) : Bool :=
  k.actors.any (fun e => e.2.ctx.isSome && e.2.used.any (fun f => decide (4 ≤ f.1) && f.2.ring == ring))

/-- A ring after FLUSH (R73): empty, and begun anew; where a firing is producing into it, it goes on at that firing's block (log 18). Packets of
its tokens free no slot any more. -/
def Core.flushed (k : Core) (ring gen : Nat) : Ring :=
  let r := k.rings.get {} ring
  { head := if k.producing ring then r.head + r.occ else 0, gen := gen }

/-- ACTCTL.FLUSH (R73). -/
def execActctlFlush (o : Ops) (s : State) : Out := s.settle (actctl o s (fun _ a =>
  if a.en ∨ a.ctx.isSome then .ok (s.put o.d 2)
  else .ok ((s.updMyCore (fun k => { k with rings := a.used.foldl (fun t f => t.put f.2.ring (k.flushed f.2.ring s.turns)) k.rings })).put o.d 0)))

/-- ACTCTL.SPRI (R73): gA is ignored, whatever its tag. -/
def execActctlSpri (o : Ops) (s : State) : Out := s.settle (do
  check88 s [dst o.d, src o.a o.epa, src o.b o.epb]
  numTag s o.b.toNat
  .ok ((s.updMyCore (fun k => { k with spri := fld (s.lo o.b) 2 0 })).put o.d 0))

/-! ## Spawns (R70) -/

/-- The entry PC in a SPAWN control word (R70): bit 0 of a pc is always 0 (R24), and a set one is cleared (log 48). -/
def spawnPc (w : Quad) : PcAddr := w.setWidth 56 &&& ~~~(1 : PcAddr)

/-- SPAWN (R70): one request to the target's tag 0, and a blocked wait for its reply. -/
def execSpawn (o : Ops) (s : State) : Out := s.settle (
  rpc s 6 0 (do
    check88 s [dst o.d, src o.a o.epa]
    numTag s o.a.toNat
    let w := s.bits o.a
    let n := fld w 78 75
    check (o.b.toNat % 8 == 0) .win (BitVec.ofNat 64 o.b.toNat)
    check (decide (n ≤ 8)) .win 0x3F
    check88 s [dst o.d, src o.a o.epa, src o.b o.epb n]
    if s.streamBusy s.cur || (fld w 74 64 == s.cid && s.queueOut) then .error (.stall s)
    .ok (s.send s.cur (.spawn (fld w 74 64) (spawnPc w) s.me.lid ((s.win o.b n).map (fun v => (v.1, match v.2 with | .abn => Tag.abn | _ => .data))))))
  (fun a => .ok (s.put o.d (a.data.setWidth 64))))

end Sys2Proof.Machine
end

