-- ==== Sys2Proof/Machine/Tiles.lean ====
section
/-! DEFINITION. Tiles.lean: tile descriptors and their checks (R182 to R185), the elements of a tile (R125 to R131, R183, R187,
R188), range locks of an operation (R170, R171), and the structured-sparsity shapes and index sets (R192 to R195). -/

namespace Sys2Proof.Machine

/-! ## Descriptors -/

/-- The fields of a tile descriptor (R182); `reg` is the register it stands in. -/
structure Tile where
  reg : Nat
  off : Nat
  idx : Nat
  rem : Bool
  rs : Nat
  rows : Nat
  kx : Nat
  pl : Nat
  vkRaw : Nat
  shr : Nat
  spc : Nat
  zero : Nat
  phi : Nat
  deriving DecidableEq, Repr, Inhabited

/-- Reads a descriptor (R182). -/
def tileOf (reg : Nat) (q : Quad) : Tile where
  reg := reg
  off := fld q 18 0
  idx := fld q 22 19
  rem := bitAt q 23
  rs := fld q 39 24
  rows := fld q 45 40
  kx := if fld q 52 46 = 0 then 128 else fld q 52 46
  pl := fld q 55 53
  vkRaw := fld q 63 56
  shr := fld q 79 64
  spc := fld q 81 80
  zero := fld q 83 82
  phi := fld q 127 84

/-- Valid K (R182). -/
def Tile.vk (t : Tile) : Nat := if t.vkRaw = 0 then t.kx else t.vkRaw
/-- The home core of a tile in cluster space, for an issuer on core cid (R183). -/
def Tile.home (t : Tile) (cid : Nat) : Nat := if t.rem then cid / 16 * 16 + t.idx else cid
/-- The format register of the bank that holds the start of row r (R183); a row past the scratchpad, which is BOUND, counts as the first. -/
def Tile.bankAt (t : Tile) (bf : List Word) (r : Nat) : Word :=
  bf.getD ((if t.off + r * t.rs < 0x80000 then t.off + r * t.rs else t.off) / 0x8000) 0
/-- The element format code of row r (R162, R183): that of its bank, or PFMT. -/
def Tile.fmtAt (t : Tile) (bf : List Word) (r : Nat) : Nat :=
  if t.spc = 1 then t.idx + t.rem.toNat * 16 else fld (t.bankAt bf r) 4 0
/-- The element format of row r. -/
def Tile.eltAt (t : Tile) (bf : List Word) (r : Nat) : EFmt := efmt (t.fmtAt bf r)
/-- The element formats that the rows of a tile have. -/
def Tile.elts (t : Tile) (bf : List Word) : List EFmt := ((List.range (max 1 t.rows)).map (t.eltAt bf)).eraseDups
/-- Planes read of a BP8 tile (R188). -/
def Tile.planes (t : Tile) : Nat := if t.pl = 0 then 8 else t.pl
/-- Whether a format is block-scaled (R130). -/
def EFmt.isBlk : EFmt → Bool | .blk _ => true | _ => false

/-- How an operation uses a tile. -/
inductive TUse
  /-- An operand of MMA, or the dense operand of MMAS. -/
  | mul
  /-- The compressed operand of MMAS. -/
  | packed
  /-- The tile of MLDA, and that of MDRN. -/
  | load
  | drain
  /-- The dense source and the compressed destination of CMPR. -/
  | prune
  | pruned
  /-- The compressed source and the dense destination of MXPD. -/
  | expand
  | expanded
  deriving DecidableEq, Repr, Inhabited

/-- Whether the tile is written. -/
def TUse.writes : TUse → Bool | .drain | .pruned | .expanded => true | _ => false
/-- Whether the tile is a compressed operand. -/
def TUse.compressed : TUse → Bool | .packed | .pruned | .expand => true | _ => false
/-- Whether every plane and every element of the last block takes part: a source gives the planes that its descriptor names (R127). -/
def TUse.whole : TUse → Bool | .drain | .expanded => true | _ => false

/-- The reasons of R184 that concern one descriptor, in ascending order. A destination in PEER space is reason 1 (log 21). -/
def tileReason (t : Tile) (bf : List Word) (u : TUse) : Option Nat :=
  let es := t.elts bf
  let blk := es.filter EFmt.isBlk
  let per (e : EFmt) : Nat := 8 / max e.bits 1
  if t.spc > 1 ∨ t.zero ≠ 0 ∨ (t.spc = 0 ∧ (t.phi ≠ 0 ∨ (!t.rem ∧ t.idx ≠ 0))) ∨ (t.spc = 1 ∧ u.writes) then some 1
  else if t.rows = 0 ∨ 32 < t.rows ∨ ((u = .load ∨ u = .drain) ∧ 32 < t.kx) ∨ (es.contains .bp8 ∧ t.rs < (t.kx + 7) / 8) then some 2
  else if es.contains .raw ∨ ((u = .expand ∨ u = .expanded) ∧ (!blk.isEmpty ∨ es.contains (.int 32 true))) ∨
      ((u = .prune ∨ u = .pruned) ∧ (!blk.isEmpty ∨ es.contains .bp8)) then some 3
  else if t.pl ≠ 0 ∧ es.any (· != .bp8) then some 5
  else if t.kx < t.vkRaw ∨ (t.vkRaw ≠ 0 ∧ u.compressed) then some 6
  else if t.spc = 0 ∧ blk.any (fun e => t.off % 0x8000 * per e % 24 != 0 || t.rs * per e % 24 != 0) then some 7
  else if u = .drain ∧ blk.any (fun e => decide (t.rs * per e < 24 * ((t.kx + 23) / 24))) then some 7
  else none

/-- TVAL of a failed check of R184. -/
def illVal (reg reason : Nat) : Word := BitVec.ofNat 64 (2 ^ 63 + 256 * reg + reason)

/-- Raises ILL with a reason of R184. -/
def illIf (bad : Bool) (reg reason : Nat) : Ex Unit := check (!bad) .ill (illVal reg reason)

/-- A CLUSTER address of a byte of a core's scratchpad (R22). -/
def cluAddr (cid off : Nat) : Word := BitVec.ofNat 64 (cid % 16 * 2 ^ 19 + off)

/-- Bytes of one row: of one plane for BP8; for a drain into a block-scaled format, whole blocks. -/
def Tile.rowLen (t : Tile) (e : EFmt) (whole : Bool) : Nat :=
  match e with
  | .bp8 => (t.kx + 7) / 8
  | _ => ((if whole && e.isBlk then (t.kx + 23) / 24 * 24 else t.kx) * e.bits + 7) / 8

/-- Start and length of all the rows, of every plane read for BP8, as offsets in the home scratchpad (R183). -/
def Tile.spans (t : Tile) (bf : List Word) (whole : Bool) : List (Nat × Nat) :=
  let np (e : EFmt) : Nat := match e with | .bp8 => if whole then 8 else t.planes | _ => 1
  (List.range 8).flatMap (fun p => (List.range t.rows).filterMap (fun r =>
    let e := t.eltAt bf r
    if p < np e then some (t.off + p * t.rows * t.rs + r * t.rs, t.rowLen e whole) else none))

/-- The first byte outside, for a row that crosses a bank boundary or lies past the scratchpad. -/
def rowOutside (start len : Nat) : Option Nat :=
  if 0x80000 ≤ start then some start
  else if start / 0x8000 ≠ (start + len - 1) / 0x8000 then some ((start / 0x8000 + 1) * 0x8000)
  else none

/-- The scale bytes of row r of a tile in cluster space: first byte of the bank that holds them, offset of the first in it, and count (R130); none
for a format without scales. MLDA reads every element of the row, whatever VK is (R199); a drain writes whole blocks. -/
def Tile.rowScales (t : Tile) (bf : List Word) (u : TUse) (r : Nat) : Nat × Nat × Nat :=
  let e := t.eltAt bf r
  let w := t.bankAt bf r
  let k := match u with | .drain => (t.kx + 23) / 24 * 24 | .load => t.kx | _ => t.vk
  let i := (t.off + r * t.rs) % 0x8000 * 8 / e.bits
  (fld w 11 8 * 0x8000, fld w 26 12 + i / 24, if e.isBlk then (i + k - 1) / 24 + 1 - i / 24 else 0)

/-- The first scale of row r past the end of its bank that an operation needs (R130): `reads` tells which elements of the row it reads or writes. -/
def Tile.scaleOutside (t : Tile) (bf : List Word) (u : TUse) (reads : Nat → Bool) (r : Nat) : Option Nat :=
  let (bank, o, n) := t.rowScales bf u r
  let i := (t.off + r * t.rs) % 0x8000 * 8 / (t.eltAt bf r).bits % 24
  ((List.range n).find? (fun b => decide (0x8000 ≤ o + b) &&
    (List.range 24).any (fun j => decide (i ≤ 24 * b + j) && reads (24 * b + j - i)))).map (bank + o + ·)

/-- BOUND of R184 and R130 for a tile in cluster space; `reads r k` tells whether element k of row r takes part (log 13). -/
def tileBound (t : Tile) (cid : Nat) (bf : List Word) (u : TUse) (reads : Nat → Nat → Bool) : Ex Unit :=
  if t.spc = 1 then .ok ()
  else do
    match (t.spans bf u.whole).findSome? (fun x => rowOutside x.1 x.2) with
    | some b => .error (.trap .bound (cluAddr (t.home cid) b))
    | none => .ok ()
    match (List.range t.rows).findSome? (fun r => t.scaleOutside bf u (reads r) r) with
    | some a => .error (.trap .bound (BitVec.ofNat 64 a))
    | none => .ok ()

/-- PART of R184 and R190: every core named is placed for the launch. -/
def tilePart (s : State) (t : Tile) : Ex Unit :=
  let cs := (List.range 16).filter (fun c => t.shr.testBit c) ++ (if t.rem && t.spc == 0 then [t.idx] else [])
  match cs.find? (fun c => (s.coreAt (s.clu * 16 + c)).lid != s.me.lid) with
  | some c => .error (.trap .part (BitVec.ofNat 64 (s.clu * 16 + c)))
  | none => .ok ()

/-- A range of a scratchpad that an operation locks: home core, first byte, length, whether it is written. -/
structure LRange where
  cid : Nat
  base : Nat
  len : Nat
  dst : Bool
  deriving DecidableEq, Repr, Inhabited

/-- One range from the first byte to the last of several of one home. -/
def hull (l : List LRange) : List LRange :=
  match l with
  | [] => []
  | r :: t => [t.foldl (fun r x =>
      let b := min r.base x.base
      { r with base := b, len := max (r.base + r.len) (x.base + x.len) - b }) r]

/-- The bytes of a tile in cluster space, row by row, and its scales, row by row, as far as the bank reaches that holds them. -/
def tileBytes (t : Tile) (cid : Nat) (bf : List Word) (u : TUse) : List LRange × List LRange :=
  if t.spc = 1 then ([], [])
  else
    let at_ (base len : Nat) : LRange := { cid := t.home cid, base := base, len := len, dst := u.writes }
    ((t.spans bf u.whole).map (fun x => at_ x.1 x.2),
     (List.range t.rows).filterMap (fun r =>
       let (bank, o, n) := t.rowScales bf u r
       if min n (0x8000 - o) = 0 then none else some (at_ (bank + o) (min n (0x8000 - o)))))

/-- The ranges of a tile (R171): from its first byte to its last, and its scales, as one range for each bank that holds some (log 57). -/
def tileRanges (t : Tile) (cid : Nat) (bf : List Word) (u : TUse) : List LRange :=
  let (rows, scales) := tileBytes t cid bf u
  hull rows ++ (List.range 16).flatMap (fun b => hull (scales.filter (fun r => r.base / 0x8000 == b)))

/-- What an operation writes of a tile, without the gaps between its rows. -/
def tileWrites (t : Tile) (cid : Nat) (bf : List Word) (u : TUse) : List LRange :=
  let (rows, scales) := tileBytes t cid bf u
  if u.writes then rows ++ scales else []

/-- Writes into a resident bank or a pool bank are refused (R164, R196, R298). -/
def rangesPerm (s : State) (rs : List LRange) : Ex Unit :=
  match rs.findSome? (fun r => if r.dst then
      (((s.coreAt r.cid).resAt r.base r.len).orElse (fun _ => (s.coreAt r.cid).poolAt r.base r.len)).map (cluAddr r.cid)
    else none) with
  | some a => .error (.trap .perm a)
  | none => .ok ()

/-! ## Range locks -/

/-- Whether a range may be entered (R171): a destination overlaps no locked range, a source no locked destination. Ranges held by
the operations `skip` do not count (R245). -/
def lockFree (s : State) (skip : List Nat) (r : LRange) : Bool :=
  (s.coreAt r.cid).locks.toList.all (fun l => match l with
    | none => true
    | some l => skip.contains l.key || !(decide (r.base < l.base + l.len ∧ l.base < r.base + r.len) && (r.dst || l.dst)))

/-- Free entries of a core's table. -/
def Core.freeLocks (c : Core) : Nat := (c.locks.toList.filter Option.isNone).length

/-- Whether all the ranges of an operation may be entered now. -/
def locksFree (s : State) (skip : List Nat) (rs : List LRange) : Bool :=
  rs.all (lockFree s skip) && rs.all (fun r => decide ((rs.filter (fun x => x.cid == r.cid)).length ≤ (s.coreAt r.cid).freeLocks))

/-- Puts an entry into the lowest free slot (R170). -/
def Core.lock (c : Core) (l : Lock) : Core :=
  { c with locks := (Vector.range 16).map (fun i =>
      let free := (c.locks.toList.findIdx Option.isNone)
      if i = free then some l else (c.locks[i]?).getD none) }

/-- Enters the ranges of the operation `key` of context g (R170, R171): a copy request, or an operation of the engine of core
`eng`. -/
def State.enterLocks (s : State) (g key : Nat) (copy : Bool) (eng : Nat) (rs : List LRange) : State :=
  rs.foldl (fun s r => s.updCore r.cid (fun c => c.lock {
    base := r.base, len := r.len, dst := r.dst, g := g, key := key
    ctx := if r.cid = g / 4 then g % 4 else 0
    src := if copy then 1 else if r.cid = eng then 0 else 2 })) s

/-! ## Elements -/

/-- The bytes of one row as an operation sees them: for BP8, the rows of its planes one after the other, plane 7 first; the
fetched bytes for a PEER tile. -/
def Tile.rowBytes (t : Tile) (s : State) (cid : Nat) (e : EFmt) (np : Nat) (peer : List Byte) (r : Nat) : List Byte :=
  if t.spc = 1 then peer
  else match e with
    | .bp8 => (List.range np).flatMap (fun p => s.bytesAt (spad (t.home cid) (t.off + p * t.rows * t.rs + r * t.rs)) ((t.kx + 7) / 8))
    | _ => s.bytesAt (spad (t.home cid) (t.off + r * t.rs)) (t.rowLen e false)

/-- The bits of element k of a row (R125, R126): for BP8 the eight-bit value with the planes not read zero (R127). -/
def elemBits (e : EFmt) (kx : Nat) (row : List Byte) (k : Nat) : Nat :=
  match e with
  | .bp8 => (List.range 8).foldl (fun x p =>
      if bitAt (row.getD (p * ((kx + 7) / 8) + k / 8) 0) (k % 8) then x + 2 ^ (7 - p) else x) 0
  | _ =>
    if e.bits = 4 then (row.getD (k / 2) 0).toNat / 16 ^ (k % 2) % 16
    else leVal ((row.drop (k * (e.bits / 8))).take (e.bits / 8))

/-- Replaces element k of a row of a format that is not BP8. -/
def setElem (e : EFmt) (row : List Byte) (k v : Nat) : List Byte :=
  if e.bits = 4 then
    let old := (row.getD (k / 2) 0).toNat
    row.set (k / 2) (BitVec.ofNat 8 (if k % 2 = 0 then old / 16 * 16 + v % 16 else old % 16 + v % 16 * 16))
  else row.take (k * (e.bits / 8)) ++ leBytes (e.bits / 8) v ++ row.drop ((k + 1) * (e.bits / 8))

/-- The number of the block that element k of row r lies in: in the bank for cluster space, in the row for PEER (R130, R183). -/
def Tile.blockOf (t : Tile) (e : EFmt) (r k : Nat) : Nat :=
  if t.spc = 1 then k / 24 else ((t.off + r * t.rs) % 0x8000 * 8 / e.bits + k) / 24

/-- The offset of the scale byte of block n of row r's bank in cluster space (R130, R183). -/
def Tile.scaleOff (t : Tile) (bf : List Word) (r n : Nat) : Nat :=
  let w := t.bankAt bf r
  fld w 11 8 * 0x8000 + fld w 26 12 + n

/-- The scale of element k of row r (R130, R183); 127 for a format without scales. -/
def Tile.scale (t : Tile) (s : State) (cid : Nat) (bf : List Word) (e : EFmt) (peer : List Byte) (r k : Nat) : Nat :=
  if !e.isBlk then 127
  else if t.spc = 1 then (peer.getD (t.rowLen e false + k / 24) 0).toNat
  else (Memory.read s.mem (spad (t.home cid) (t.scaleOff bf r (t.blockOf e r k)))).toNat

/-- The bytes of element k of row r in cluster space: offset and count, of the planes read for BP8. -/
def Tile.elemRanges (t : Tile) (e : EFmt) (np r k : Nat) : List (Nat × Nat) :=
  match e with
  | .bp8 => (List.range np).map (fun p => (t.off + p * t.rows * t.rs + r * t.rs + k / 8, 1))
  | _ => [(t.off + r * t.rs + k * e.bits / 8, (e.bits + 7) / 8)]

/-- The device virtual address of a byte of a PEER tile (R183). -/
def Tile.peerAddr (t : Tile) (o : Nat) : Word := BitVec.ofNat 64 ((t.phi * 2 ^ 12 + t.off + o) % 2 ^ 56)

/-- The fault that reading element k of row r finds (R206): a poisoned word or scale, or an FP32 element of the ABN payload
class when `abn` says that it is looked for. -/
def Tile.elemFault (t : Tile) (s : State) (cid : Nat) (bf : List Word) (e : EFmt) (np : Nat) (abn : Bool) (row : List Byte) (r k : Nat) :
    Option RFault :=
  let home := t.home cid
  let pois := if t.spc = 1 then none else
    ((t.elemRanges e np r k) ++ (if e.isBlk then [(t.scaleOff bf r (t.blockOf e r k), 1)] else [])).findSome? (fun (x : Nat × Nat) =>
      s.poisonedAt (spad home x.1) x.2)
  match pois with
  | some l => some ⟨.pois, cluAddr home (l - spad home 0)⟩
  | none =>
    if abn && e == .flt fp32 && isAbn (BitVec.ofNat 32 (elemBits e t.kx row k)) then
      some ⟨.abn, if t.spc = 1 then t.peerAddr (r * t.rs + 4 * k) else cluAddr home (t.off + r * t.rs + 4 * k)⟩
    else none

/-! ## Structured sparsity -/

/-- Kept elements N and group width of a shape (R192). -/
def shapeKeep : Shape → Nat | .s24 | .s28 => 2 | .s48 => 4
def shapeGroup : Shape → Nat | .s24 => 4 | _ => 8
/-- Index width (R192). -/
def shapeIw : Shape → Nat | .s24 => 2 | _ => 3
/-- Rows of a row group (R192). -/
def rowGroup (u8 : Bool) : Nat := if u8 then 8 else 4

/-- The entries of a metadata window (R195): each the N indices of row group g and k-group h, in order. -/
def metaEntries (sh : Shape) (bits e : Nat) : List (List Nat) :=
  (List.range e).map (fun i => (List.range (shapeKeep sh)).map (fun t => bits / 2 ^ (i * shapeKeep sh * shapeIw sh + t * shapeIw sh) % 2 ^ (shapeIw sh)))

/-- Whether a list of indices is strictly ascending. -/
def rising : List Nat → Bool
  | a :: b :: t => decide (a < b) && rising (b :: t)
  | _ => true

/-- The first malformed entry (R195). -/
def metaBad (es : List (List Nat)) : Option Nat := (firstIdx (fun e => !rising e) es 0).map (·.1)

/-- A window of registers as one number. -/
def winNat (vs : List (Quad × Tag)) : Nat := vs.foldr (fun v x => v.1.toNat + x * 2 ^ 128) 0

/-- A number as the registers of a window. -/
def winRegs : Nat → Nat → List (Quad × Tag)
  | 0, _ => []
  | n + 1, x => (BitVec.ofNat 128 x, .data) :: winRegs n (x / 2 ^ 128)

end Sys2Proof.Machine
end

