-- ==== Sys2Proof/Machine/Engine.lean ====
section
/-! DEFINITION. Engine.lean: issuing matrix-engine operations (R186, R196 to R201) from a thread or from an engine program, and
the thread's own engine instructions FORK, RDV, MSTAT (R203 to R207). What the engine does is in EngineEvents.lean. -/

namespace Sys2Proof.Machine

/-! ## The queue -/

/-- Changes one operation of a core's engine. -/
def State.updOp (s : State) (cid id : Nat) (f : EOp → EOp) : State :=
  s.updCore cid (fun c => { c with equeue := c.equeue.map (fun e => if e.id = id then f e else e) })

/-- The operations that context g has issued and not joined. -/
def State.opsOf (s : State) (g : Nat) : List EOp := (s.coreAt (g / 4)).equeue.filter (fun e => e.mine g (s.ctxAt g).fire)

/-- The type that a set will hold once the operations issued before have run (R186). -/
def Core.setType (c : Core) (n : Nat) : Bool :=
  c.equeue.foldl (fun t e => if e.fin || e.set != n then t else match e.kind with | .mzero i => i | .mlda i => i | _ => t)
    (if n = 0 then c.sets[0].int else c.sets[1].int)

/-- Whether the context's program is still running (R203). -/
def State.progRuns (s : State) : Bool := s.me.prog.any (fun p => !p.ended)

/-! ## The registers of an issue -/

/-- A register is outside the lease window of the program (R204). -/
def outsideLease (p : Prog) (n : Nat) : Bool := n != 0 && !(decide (p.first ≤ n) && decide (n < p.first + p.count))

/-- The register checks of an issue: R88 and the tag checks for a thread; the lease window and the tag checks for a program. A thread whose
program still runs waits here, before the checks that depend on what the program will issue (R203). -/
def engRegs (prog : Bool) (s : State) (rds : List Rd) (nums : List Nat) : Ex Unit := do
  if prog then
    match s.me.prog with
    | none => .ok ()
    | some p =>
      match (rdRegs rds).find? (fun r => outsideLease p r.1) with
      | some r => .error (.trap .lease (BitVec.ofNat 64 r.1))
      | none => .ok ()
  else check88 s rds
  numTags s nums
  if !prog && s.progRuns then .error (.wait 6 0 s) else .ok ()

/-! ## The checks of an issue -/

/-- A descriptor operand: its tile, the bank formats of its home sampled now, and its use. -/
abbrev Opnd := Tile × List Word × TUse

/-- The descriptor operand in a register. -/
def State.opnd (s : State) (n : RegNo) (u : TUse) : Opnd :=
  let t := tileOf n.toNat (s.bits n)
  (t, (s.coreAt (t.home s.cid)).bfmt.toList, u)

/-- Pass 1 of R184. -/
def passOne (l : List Opnd) : Ex Unit :=
  match l.findSome? (fun (o : Opnd) => (tileReason o.1 o.2.1 o.2.2).map (illVal o.1.reg)) with
  | some v => .error (.trap .ill v)
  | none => .ok ()

/-- The pairing of R185: the set type (INT32 or not) and the chunk width. -/
def pairOf (a b : EFmt) : Option (Bool × Nat) :=
  match a, b with
  | .bp8, .bp8 | .bp8, .int 8 _ | .bp8, .int 4 _ | .int 8 _, .bp8 | .int 4 _, .bp8 => some (true, 8)
  | .int m _, .int n _ => if m ≤ 8 ∧ n ≤ 8 then some (true, 8) else none
  | .flt x, .flt y =>
    if x.width = y.width ∧ (x.width = 8 ∨ x.width = 16) ∨ (x = fp32 ∧ y = fp32) then some (false, 8) else none
  | .blk _, .blk _ => some (false, 24)
  | .blk _, .flt y => if y.width = 8 then some (false, 24) else none
  | .flt x, .blk _ => if x.width = 8 then some (false, 24) else none
  | _, _ => none

/-- The pairing of every row of one operand with every row of another (R183, R185): none when one is not in R185; else the set type, if it is
one for all. -/
def pairAll (a b : Opnd) : Option (Option Bool) :=
  let l := (a.1.elts a.2.1).flatMap (fun x => (b.1.elts b.2.1).map (fun y => pairOf x y))
  if l.any Option.isNone then none
  else match (l.filterMap id).map (·.1) with
    | [] => some none
    | i :: t => some (if t.all (· == i) then some i else none)

/-- Rows of two operands that correspond have one format (R200, R201); a row that one of them lacks corresponds to none. -/
def sameElts (a b : Opnd) : Bool := (List.range (min a.1.rows b.1.rows)).all (fun r => a.1.eltAt a.2.1 r == b.1.eltAt b.2.1 r)

/-- The compressed element that stands for dense element k of row r, for a dense K (R194): none when it is pruned, k itself where nothing is. -/
def keptAt (shape : Option (Shape × Bool)) (es : List (List Nat)) (kDense r k : Nat) : Option Nat :=
  match shape with
  | none => some k
  | some (sh, u) =>
    let gw := shapeGroup sh
    ((es.getD (r / rowGroup u * (kDense / gw) + k / gw) []).findIdx? (· == k % gw)).map (fun t => k / gw * shapeKeep sh + t)

/-- Whether a multiplication reads element k of row r of its operand i, A or B (R187): `kValid` elements of a dense K are not masked by VK, `rows`
is the row count of A. -/
def mulReads (shape : Option (Shape × Bool)) (es : List (List Nat)) (kDense kValid rows i r k : Nat) : Bool :=
  match shape with
  | none => decide (k < kValid)
  | some (_, u8) =>
    if i = 0 then (List.range kValid).any (fun d => keptAt shape es kDense r d == some k)
    else decide (k < kValid) && (List.range (rows / rowGroup u8)).any (fun g => (keptAt shape es kDense (g * rowGroup u8) k).isSome)

/-- BOUND and PART (R184, R196); `reads i r k` tells whether element k of row r of operand i takes part. DESIGN CHOICE (log 79): BOUND of every
operand comes before PART of any, and PART is looked for at the cores of SHR in ascending order, then at CORE. -/
def placeChecks (s : State) (l : List Opnd) (reads : Nat → Nat → Nat → Bool := fun _ _ _ => true) : Ex Unit := do
  ((List.range l.length).zip l).forM (fun o => tileBound o.2.1 s.cid o.2.2.1 o.2.2.2 (reads o.1))
  l.forM (fun o => tilePart s o.1)

/-- The ranges an issue locks. -/
def opRanges (s : State) (l : List Opnd) : List LRange := l.flatMap (fun o => tileRanges o.1 s.cid o.2.1 o.2.2)

/-- The last steps of an issue (R81, R171, R186, R189, R196): room, earlier accesses, locks, leases; the operation joins
the queue of the core's engine. DESIGN CHOICE (log 72): the operations of a tile task do not count among the 8 that the engine accepts. -/
def submit (prog : Bool) (s : State) (op : EOp) (l : List Opnd) (leases : List Nat) : Ex State := do
  let rs := opRanges s l
  rangesPerm s (l.flatMap (fun o => tileWrites o.1 s.cid o.2.1 o.2.2))
  if 8 ≤ (s.myCore.equeue.filter (fun e => !e.started && e.task.isNone)).length then .error (.wait 6 0 s)
  else if (!prog && (s.loadsOut || s.gate)) || rs.any (fun r => (!r.dst && s.storesTo r.cid) || s.anyQueued r.cid r.base r.len) then
    .error (.stall s)
  else if !locksFree s [] rs then .error (.wait 6 0 s)
  else
    let op : EOp := { op with
      id := s.nextId, g := s.cur, fire := s.me.fire, cid := s.cid, pid := s.me.pid.toNat, lid := s.me.lid, prog := prog
      leased := leases.map s.me.ix
      descs := l.map (fun o => s.me.reg o.1.reg |>.bits), dregs := l.map (fun o => o.1.reg), bf := l.map (fun o => o.2.1) }
    let t := (s.enterLocks s.cur s.nextId false s.cid rs).updMyCore (fun c => { c with equeue := c.equeue ++ [op] })
    .ok { t.updMe (fun c => leases.foldl (fun c n => c.setRegAt (c.ix n) { c.reg n with pres := .leased }) c) with nextId := s.nextId + 1 }

/-- Set number of an operation. -/
def setNo (n : Bool) : Nat := n.toNat

/-! ## The operations (R196 to R201) -/

/-- An operation with no descriptor yet. -/
def newOp (k : EKind) (set : Nat) : EOp := { id := 0, g := 0, kind := k, set := set }

/-- MZERO (R197). -/
def mzero (prog n int : Bool) (s : State) : Ex State := do
  engRegs prog s [] []
  submit prog s (newOp (.mzero int) (setNo n)) [] []

/-- MMA (R197). -/
def mma (prog n : Bool) (o : Ops) (s : State) : Ex State := do
  engRegs prog s [src o.a o.epa, src o.b o.epb] [o.a.toNat, o.b.toNat]
  let x := s.opnd o.a .mul
  let y := s.opnd o.b .mul
  passOne [x, y]
  match pairAll x y with
  | none => .error (.trap .ill (illVal o.a.toNat 3))
  | some int => do
    illIf (x.1.kx != y.1.kx || some (s.myCore.setType (setNo n)) != int) o.a.toNat 4
    placeChecks s [x, y] (mulReads none [] x.1.kx (min x.1.vk y.1.vk) x.1.rows)
    submit prog s (newOp .mma (setNo n)) [x, y] []

/-- The entries that a shape needs for M rows and a dense K (R193). -/
def metaCount (sh : Shape) (u8 : Bool) (m k : Nat) : Nat := m / rowGroup u8 * (k / shapeGroup sh)

/-- META of R195 for the metadata window that starts at n. -/
def metaCheck (s : State) (sh : Shape) (n : RegNo) (len e : Nat) : Ex Unit :=
  match metaBad (metaEntries sh (winNat (s.win n len)) e) with
  | some i => .error (.trap .metad (BitVec.ofNat 64 i))
  | none => .ok ()

/-- MMAS (R197): metadata in a, compressed A in b, dense B in c. DESIGN CHOICE (log 14, 79): the tags of the metadata window, then of b, then of c
are looked at; and where only the dense K, which c holds, is no multiple of the group width, reason 8 names b. -/
def mmas (prog n : Bool) (sh : Shape) (u8 : Bool) (o : Ops) (s : State) : Ex State := do
  let len := 2 ^ o.l.toNat
  engRegs prog s [srcC o.c, src o.a o.epa len, src o.b o.epb] ((List.range len).map (o.a.toNat + ·) ++ [o.b.toNat, o.c.toNat])
  let x := s.opnd o.b .packed
  let y := s.opnd o.c .mul
  passOne [x, y]
  match pairAll x y with
  | none => .error (.trap .ill (illVal o.b.toNat 3))
  | some int => do
    illIf (some (s.myCore.setType (setNo n)) != int) o.b.toNat 4
    let k := y.1.kx
    let e := metaCount sh u8 x.1.rows k
    illIf (x.1.rows % rowGroup u8 != 0 || k % shapeGroup sh != 0 || x.1.kx * shapeGroup sh != k * shapeKeep sh) o.b.toNat 8
    illIf (decide (128 * len < e * shapeKeep sh * shapeIw sh)) o.a.toNat 8
    placeChecks s [x, y] (mulReads (some (sh, u8)) (metaEntries sh (winNat (s.win o.a len)) e) k y.1.vk x.1.rows)
    metaCheck s sh o.a len e
    submit prog s { newOp (.mmas sh u8) (setNo n) with metaBits := winNat (s.win o.a len), metaLen := e } [x, y] []

/-- MDRN in its bank form (R198). -/
def mdrn (prog n clr : Bool) (o : Ops) (s : State) : Ex State := do
  engRegs prog s [src o.b o.epb] [o.b.toNat]
  let x := s.opnd o.b .drain
  passOne [x]
  placeChecks s [x]
  submit prog s (newOp (.mdrn clr) (setNo n)) [x] []

/-- MLDA (R199). -/
def mlda (prog n int : Bool) (o : Ops) (s : State) : Ex State := do
  engRegs prog s [src o.b o.epb] [o.b.toNat]
  let x := s.opnd o.b .load
  passOne [x]
  let isInt (e : EFmt) : Bool := match e with | .bp8 => true | .int .. => true | _ => false
  illIf ((x.1.elts x.2.1).any (fun e => isInt e != int)) o.b.toNat 4
  placeChecks s [x]
  submit prog s (newOp (.mlda int) (setNo n)) [x] []

/-- MXPD (R201): metadata in a, compressed source in b, dense destination in c. DESIGN CHOICE (log 14, 75): the tags of the metadata window, then of b,
then of c are looked at; a destination whose ROWS differ from the source's raises ILL, reason 8, naming b. -/
def mxpd (prog : Bool) (sh : Shape) (u8 : Bool) (o : Ops) (s : State) : Ex State := do
  let len := 2 ^ o.l.toNat
  engRegs prog s [srcC o.c, src o.a o.epa len, src o.b o.epb] ((List.range len).map (o.a.toNat + ·) ++ [o.b.toNat, o.c.toNat])
  let x := s.opnd o.b .expand
  let y := s.opnd o.c .expanded
  passOne [x, y]
  illIf (!sameElts x y) o.b.toNat 3
  let k := y.1.kx
  let e := metaCount sh u8 x.1.rows k
  illIf (x.1.rows % rowGroup u8 != 0 || k % shapeGroup sh != 0 || x.1.kx * shapeGroup sh != k * shapeKeep sh || x.1.rows != y.1.rows)
    o.b.toNat 8
  illIf (decide (128 * len < e * shapeKeep sh * shapeIw sh)) o.a.toNat 8
  placeChecks s [x, y]
  metaCheck s sh o.a len e
  submit prog s { newOp (.mxpd sh u8) 2 with metaBits := winNat (s.win o.a len), metaLen := e } [x, y] []

/-- MZERO (R197). -/
def execMzero (n int : Bool) (s : State) : Out := s.settle (mzero false n int s)
/-- MMA (R197). -/
def execMma (n : Bool) (o : Ops) (s : State) : Out := s.settle (mma false n o s)
/-- MMAS (R197). -/
def execMmas (n : Bool) (sh : Shape) (u8 : Bool) (o : Ops) (s : State) : Out := s.settle (mmas false n sh u8 o s)
/-- MDRN (R198). -/
def execMdrn (n clr : Bool) (o : Ops) (s : State) : Out := s.settle (mdrn false n clr o s)
/-- MLDA (R199). -/
def execMlda (n int : Bool) (o : Ops) (s : State) : Out := s.settle (mlda false n int o s)
/-- MXPD (R201). -/
def execMxpd (sh : Shape) (u8 : Bool) (o : Ops) (s : State) : Out := s.settle (mxpd false sh u8 o s)

/-- MDRN.R (R198): the selector is read at issue, gD:4 is leased. -/
def execMdrnR (n clr : Bool) (o : Ops) (s : State) : Out := s.settle (do
  engRegs false s [dst o.d 4, src o.b o.epb] [o.b.toNat]
  submit false s { newOp (.mdrnR clr (fld (s.lo o.b) 5 0)) (setNo n) with dest := o.d.toNat, destLen := 4 } []
    ((List.range 4).map (o.d.toNat + ·)))

/-- CMPR (R200): gD:L receives the index sets and is leased. -/
def execCmpr (sh : Shape) (u8 : Bool) (o : Ops) (s : State) : Out := s.settle (do
  let len := 2 ^ o.l.toNat
  engRegs false s [dst o.d len, src o.a o.epa, src o.b o.epb] [o.a.toNat, o.b.toNat]
  let x := s.opnd o.a .prune
  let y := s.opnd o.b .pruned
  passOne [x, y]
  illIf (!sameElts x y) o.a.toNat 3
  let e := metaCount sh u8 x.1.rows x.1.kx
  illIf (x.1.rows % rowGroup u8 != 0 || x.1.kx % shapeGroup sh != 0 || y.1.kx * shapeGroup sh != x.1.kx * shapeKeep sh ||
    y.1.rows != x.1.rows || decide (128 * len < e * shapeKeep sh * shapeIw sh)) o.a.toNat 8
  placeChecks s [x, y]
  submit false s { newOp (.cmpr sh u8) 2 with dest := o.d.toNat, destLen := len, metaLen := e } [x, y]
    ((List.range len).map (o.d.toNat + ·)))

/-! ## Programs and joins -/

/-- FORK (R203): the window is leased under R89. DESIGN CHOICE (log 74, 79): a count n = 0 with F in 1 to 56 is accepted and leases nothing;
after the checks of a and b come reason 9, ALIGN, WIN, and last LEASE of the window. -/
def execFork (o : Ops) (s : State) : Out := s.settle (do
  check88 s [src o.a o.epa, src o.b o.epb]
  numTags s [o.a.toNat, o.b.toNat]
  illIf s.me.prog.isSome o.a.toNat 9
  let target : Word := (s.lo o.a).setWidth 56 |>.setWidth 64
  check (!bitAt target 0) .align target
  let f := fld (s.lo o.b) 5 0
  let n := fld (s.lo o.b) 11 6
  check (decide (1 ≤ f ∧ f + n ≤ 56)) .win (BitVec.ofNat 64 f)
  check88 s [src o.a o.epa, src o.b o.epb, { n := f, len := n, src := false }]
  .ok (s.updMe (fun c => (List.range n).foldl (fun c i => c.setRegAt (f + i) { c.regAt (f + i) with pres := .leased })
    { c with prog := some { pc := target.setWidth 56, first := f, count := n } })))

/-- ENDP on the wrong side (R205). -/
def execEndp (s : State) : Out := s.settle (.error (.trap .ill (illVal 0 9)))

/-- ELOOP on the wrong side (R205). -/
def execEloop (o : Ops) (s : State) : Out := s.settle (do
  check88 s [src o.a o.epa]
  .error (.trap .ill (illVal o.a.toNat 9)))

/-- EBUMP on the wrong side (R205). -/
def execEbump (o : Ops) (s : State) : Out := s.settle (do
  check88 s [dst o.d, src o.a o.epa, src o.b o.epb]
  .error (.trap .ill (illVal o.a.toNat 9)))

/-- Joins the completed operations and the program of context g (R206): flags, locks and leases. -/
def State.joinEngine (s : State) (g : Nat) : State :=
  let mine := s.opsOf g
  let t := mine.foldl (fun t e => t.unlock e.id) s
  let fl : Flags := mine.foldl (fun f e => f ||| e.flags) 0
  (t.updCore (g / 4) (fun c => { c with equeue := c.equeue.filter (fun e => !e.mine g (s.ctxAt g).fire) })).updCtx g
    (fun c => { c.endLeases with prog := none, fcs := c.fcs ||| (fl.setWidth 64 <<< 4) })

/-- The wait and the reports of RDV (R206), which FIN shares (R56): a suspension that was not reported yet is reported; one that
was is resumed when `resume` says so. DESIGN CHOICE (log 80): with two operations suspended, the second RDV reports the other one and resumes neither;
all are resumed together by the RDV that finds every one reported. -/
def rdv (s : State) (resume : Bool) : Ex State :=
  let mine := s.opsOf s.cur
  let p := s.me.prog
  match mine.find? (fun e => e.susp.isSome && !(e.reported && resume)) with
  | some e =>
    let f := e.susp.getD default
    .error (.report f.cause f.val (s.updOp s.cid e.id (fun e => { e with reported := true })))
  | none =>
    match p.bind (fun p => if p.reported && resume then none else p.susp) with
    | some f => .error (.report f.cause f.val (s.updMe (fun c => { c with prog := c.prog.map (fun p => { p with reported := true }) })))
    | none =>
      let t := (mine.filter (fun e => e.susp.isSome)).foldl
        (fun t e => t.updOp s.cid e.id (fun e => { e with susp := none, reported := false })) s
      let t := t.updMe (fun c => { c with prog := c.prog.map (fun p => { p with susp := none, reported := false }) })
      if mine.any (fun e => !e.fin) || s.progRuns then .error (.wait 6 0 t) else .ok (t.joinEngine s.cur)

/-- RDV (R206). -/
def execRdv (s : State) : Out := s.settle (rdv s true)

/-- MSTAT (R207). -/
def execMstat (o : Ops) (s : State) : Out := s.settle (do
  check88 s [dst o.d]
  .ok (s.put o.d (s.engWord s.cur)))

/-- MSTAT.ABORT (R206): discards the suspended and the unstarted operations, ends the program and the leases, and releases the
locks, those of an operation that is running too; that one ends by itself. DESIGN CHOICE (log 67): the flags of the chunks that a discarded
suspended operation has already added go with it and do not reach CFU. -/
def execMstatAbort (s : State) : Out := s.settle (
  let mine := s.opsOf s.cur
  let runs (e : EOp) : Bool := e.started && !e.fin && e.susp.isNone
  let t := mine.foldl (fun t e => t.unlock e.id) s
  let t := t.updMyCore (fun c => { c with equeue := c.equeue.filter (fun e => !e.mine s.cur s.me.fire || runs e || e.fin) })
  .ok (t.updMe (fun c => { c.endLeases with prog := none })))

end Sys2Proof.Machine
end

