-- ==== Sys2Proof/Decode.lean ====
section
/-! DEFINITION. Decode.lean: the instruction words of R24 to R48: the encoding tables, the checks of R37 in their order, the
encoder of the shortest chain (R44). -/

namespace Sys2Proof

/-- What a register field of an instruction names (R35, R40, R41): nothing, the number 0 (SFLD.DROP, R296), a window of fixed length, a window of the length
class PX.REG.L, a mask register, or the eight-register payload of MRECV, which is a destination named in a (R236). -/
inductive Role | no | z0 | g1 | g2 | g4 | var | mk | w8
  deriving DecidableEq, Repr, Inhabited

/-- The immediate of an instruction (R39): none, signed or unsigned. -/
inductive ImmK | no | s | u
  deriving DecidableEq, Repr, Inhabited

/-- The base formats of R28. -/
inductive Fmt | z | j | i | a
  deriving DecidableEq, Repr, Inhabited

/-- The shape of an instruction: its base format, the roles of its registers, its immediate, and the PX.MOD fields that its
chapter lets it use beside EPA, EPB and RU. -/
structure Form where
  fmt : Fmt := .a
  d : Role := .no
  a : Role := .no
  b : Role := .no
  c : Role := .no
  imm : ImmK := .no
  msk : Bool := false
  scp : Bool := false
  near : Bool := false
  of : Bool := false
  always : Bool := false
  deriving DecidableEq, Repr, Inhabited

/-- The shape of each instruction, from its defining chapter; an event has no shape. STG has OF, which it ignores (R398, log 47). -/
def formOf : Instr → Form
  | .nop => { fmt := .z }
  | .fin => { fmt := .z }
  | .ret => { fmt := .z }
  | .eret => { fmt := .z }
  | .brk => { fmt := .z }
  | .hb => { fmt := .z }
  | .wfe => { fmt := .z }
  | .b _ => { fmt := .j, imm := .s }
  | .call _ => { fmt := .j, imm := .s }
  | .jr _ => { a := .g1 }
  | .callr _ => { a := .g1 }
  | .bz _ => { fmt := .i, a := .g1, imm := .s }
  | .bnz _ => { fmt := .i, a := .g1, imm := .s }
  | .bltz _ => { fmt := .i, a := .g1, imm := .s }
  | .bgez _ => { fmt := .i, a := .g1, imm := .s }
  | .many _ => { fmt := .i, a := .mk, imm := .s }
  | .mall _ => { fmt := .i, a := .mk, imm := .s }
  | .li _ => { fmt := .i, d := .g1, imm := .s }
  | .addi _ => { fmt := .i, d := .g1, a := .g1, imm := .s }
  | .andi _ => { fmt := .i, d := .g1, a := .g1, imm := .s }
  | .ori _ => { fmt := .i, d := .g1, a := .g1, imm := .s }
  | .xori _ => { fmt := .i, d := .g1, a := .g1, imm := .s }
  | .shli _ => { fmt := .i, d := .g1, a := .g1, imm := .u }
  | .shri _ => { fmt := .i, d := .g1, a := .g1, imm := .u }
  | .srai _ => { fmt := .i, d := .g1, a := .g1, imm := .u }
  | .mov _ => { d := .var, b := .var }
  | .add _ => { d := .g1, a := .g1, b := .g1 }
  | .sub _ => { d := .g1, a := .g1, b := .g1 }
  | .andR _ => { d := .g1, a := .g1, b := .g1 }
  | .orR _ => { d := .g1, a := .g1, b := .g1 }
  | .xorR _ => { d := .g1, a := .g1, b := .g1 }
  | .shl _ => { d := .g1, a := .g1, b := .g1 }
  | .shr _ => { d := .g1, a := .g1, b := .g1 }
  | .sra _ => { d := .g1, a := .g1, b := .g1 }
  | .mul _ => { d := .g1, a := .g1, b := .g1 }
  | .mulh _ => { d := .g1, a := .g1, b := .g1 }
  | .mulhu _ => { d := .g1, a := .g1, b := .g1 }
  | .div _ => { d := .g1, a := .g1, b := .g1 }
  | .divu _ => { d := .g1, a := .g1, b := .g1 }
  | .rem _ => { d := .g1, a := .g1, b := .g1 }
  | .remu _ => { d := .g1, a := .g1, b := .g1 }
  | .seq _ => { d := .g1, a := .g1, b := .g1 }
  | .slt _ => { d := .g1, a := .g1, b := .g1 }
  | .sltu _ => { d := .g1, a := .g1, b := .g1 }
  | .minR _ => { d := .g1, a := .g1, b := .g1 }
  | .maxR _ => { d := .g1, a := .g1, b := .g1 }
  | .minu _ => { d := .g1, a := .g1, b := .g1 }
  | .maxu _ => { d := .g1, a := .g1, b := .g1 }
  | .clz _ => { d := .g1, b := .g1 }
  | .popc _ => { d := .g1, b := .g1 }
  | .sel _ => { d := .g1, a := .g1, b := .g1 }
  | .ldw _ => { d := .g1, b := .g2, imm := .s }
  | .ldd _ => { d := .g1, b := .g2, imm := .s }
  | .stw _ => { a := .g1, b := .g2, imm := .s }
  | .std _ => { a := .g1, b := .g2, imm := .s }
  | .cinc _ => { d := .g2, a := .g2, b := .g1 }
  | .cinci _ => { fmt := .i, d := .g2, a := .g2, imm := .s }
  | .cgeta _ => { d := .g2, b := .g2 }
  | .csetb _ => { d := .g2, a := .g2, b := .g1 }
  | .cperm _ => { d := .g2, a := .g2, b := .g1 }
  | .tagof _ => { d := .g1, b := .g1 }
  | .srd _ => { fmt := .i, d := .g1, imm := .u }
  | .swr _ => { fmt := .i, a := .g1, imm := .u }
  | .trap _ => { fmt := .i, imm := .u }
  | .vadd _ sc _ _ => { d := (if sc then .g1 else .g4), a := (if sc then .g1 else .g4), b := (if sc then .g1 else .g4), msk := !sc }
  | .vsub _ sc _ _ => { d := (if sc then .g1 else .g4), a := (if sc then .g1 else .g4), b := (if sc then .g1 else .g4), msk := !sc }
  | .vmul _ sc _ _ => { d := (if sc then .g1 else .g4), a := (if sc then .g1 else .g4), b := (if sc then .g1 else .g4), msk := !sc }
  | .vfma _ sc _ _ => { d := (if sc then .g1 else .g4), a := (if sc then .g1 else .g4), b := (if sc then .g1 else .g4), msk := !sc }
  | .vmin sc _ _ => { d := (if sc then .g1 else .g4), a := (if sc then .g1 else .g4), b := (if sc then .g1 else .g4), msk := !sc }
  | .vmax sc _ _ => { d := (if sc then .g1 else .g4), a := (if sc then .g1 else .g4), b := (if sc then .g1 else .g4), msk := !sc }
  | .vand sc _ _ => { d := (if sc then .g1 else .g4), a := (if sc then .g1 else .g4), b := (if sc then .g1 else .g4), msk := !sc }
  | .vor sc _ _ => { d := (if sc then .g1 else .g4), a := (if sc then .g1 else .g4), b := (if sc then .g1 else .g4), msk := !sc }
  | .vxor sc _ _ => { d := (if sc then .g1 else .g4), a := (if sc then .g1 else .g4), b := (if sc then .g1 else .g4), msk := !sc }
  | .vshl sc _ _ => { d := (if sc then .g1 else .g4), a := (if sc then .g1 else .g4), b := (if sc then .g1 else .g4), msk := !sc }
  | .vshr sc _ _ => { d := (if sc then .g1 else .g4), a := (if sc then .g1 else .g4), b := (if sc then .g1 else .g4), msk := !sc }
  | .vabs sc _ _ => { d := (if sc then .g1 else .g4), b := (if sc then .g1 else .g4), msk := !sc }
  | .vneg sc _ _ => { d := (if sc then .g1 else .g4), b := (if sc then .g1 else .g4), msk := !sc }
  | .vcmp _ sc _ _ => { a := (if sc then .g1 else .g4), b := (if sc then .g1 else .g4), c := .mk, msk := !sc }
  | .vsel _ _ => { d := .g4, a := .g4, b := .g4, msk := true }
  | .vred _ _ _ => { d := .g1, b := .g4, msk := true }
  | .vscan _ _ _ => { d := .g4, b := .g4, msk := true }
  | .vbcast _ _ => { d := .g4, b := .g1, msk := true }
  | .vext _ _ => { d := .g1, a := .g4, b := .g1 }
  | .vins _ _ => { d := .g4, a := .g1, b := .g1 }
  | .vperm _ _ => { d := .g4, a := .g4, b := .g4, msk := true }
  | .vslide _ _ _ => { d := .g4, a := .g4, b := .g1, msk := true }
  | .vcvt _ sc _ _ => { d := (if sc then .g1 else .g4), b := (if sc then .g1 else .g4), msk := !sc }
  | .vdiv _ sc _ _ => { d := (if sc then .g1 else .g4), a := (if sc then .g1 else .g4), b := (if sc then .g1 else .g4), msk := !sc }
  | .vsqrt sc _ => { d := (if sc then .g1 else .g4), b := (if sc then .g1 else .g4), msk := !sc }
  | .vexp2 sc _ => { d := (if sc then .g1 else .g4), b := (if sc then .g1 else .g4), msk := !sc }
  | .vld _ _ => { d := .g4, b := .g2, imm := .s, msk := true }
  | .vst _ _ => { a := .g4, b := .g2, imm := .s, msk := true }
  | .vlds _ _ => { d := .g4, b := .g2, imm := .s, msk := true }
  | .vsts _ _ => { a := .g4, b := .g2, imm := .s, msk := true }
  | .vgth _ _ => { d := .g4, a := .g4, b := .g2, msk := true }
  | .vsct _ _ => { a := .g4, b := .g2, c := .g4, msk := true, always := true }
  | .mand _ => { d := .mk, a := .mk, b := .mk }
  | .mor _ => { d := .mk, a := .mk, b := .mk }
  | .mxor _ => { d := .mk, a := .mk, b := .mk }
  | .mnot _ => { d := .mk, b := .mk }
  | .mpopc _ => { d := .g1, b := .mk }
  | .mfirst _ => { d := .g1, b := .mk }
  | .mset _ => { d := .mk, b := .g1 }
  | .mget _ => { d := .g1, b := .mk }
  | .mzero _ _ => { fmt := .a }
  | .mma _ _ => { a := .g1, b := .g1 }
  | .mmas _ _ _ _ => { a := .var, b := .g1, c := .g1 }
  | .mdrn _ _ _ => { b := .g1 }
  | .mdrnR _ _ _ => { d := .g4, b := .g1 }
  | .mlda _ _ _ => { b := .g1 }
  | .cmpr _ _ _ => { d := .var, a := .g1, b := .g1 }
  | .mxpd _ _ _ => { a := .var, b := .g1, c := .g1 }
  | .fork _ => { a := .g1, b := .g1 }
  | .rdv => { fmt := .a }
  | .endp => { fmt := .a }
  | .eloop _ => { a := .g1, imm := .s }
  | .ebump _ => { d := .g1, a := .g1, b := .g1 }
  | .tqput _ => { d := .g1, b := .g2 }
  | .tqwait _ => { d := .g1, b := .g1 }
  | .tqwaitAll _ => { d := .g1 }
  | .mstat _ => { d := .g1 }
  | .mstatAbort => { fmt := .a }
  | .pset _ => { d := .g1, b := .g1 }
  | .psetW _ => { d := .g1, imm := .u }
  | .fvadd _ => { d := .var, a := .var, b := .var }
  | .fvsub _ => { d := .var, a := .var, b := .var }
  | .fvmul _ => { d := .var, a := .var, b := .var }
  | .fvfma _ _ => { d := .var, a := .var, b := .var }
  | .fvdiv _ => { d := .var, a := .var, b := .var }
  | .fvsqrt _ => { d := .var, b := .var }
  | .fvcmp _ => { d := .g1, a := .var, b := .var }
  | .fvcvtFromi _ => { d := .var, b := .g1 }
  | .fvcvtFromf _ => { d := .var, b := .g1 }
  | .fvcvtToi _ => { d := .g1, b := .var }
  | .fvcvtTof _ => { d := .g1, b := .var }
  | .fvld _ => { d := .var, b := .g2 }
  | .fvldIx _ => { d := .var, a := .g1, b := .g2, imm := .u }
  | .fvst _ => { a := .var, b := .g2 }
  | .fvstIx _ => { a := .g1, b := .g2, c := .var, imm := .u }
  | .fvsigGet _ => { d := .g1, b := .var }
  | .fvsigSet _ => { d := .var, a := .var, b := .g1 }
  | .fvrnd _ => { d := .var, b := .var, imm := .u }
  | .fvlen _ => { d := .g1, b := .var }
  | .fvlenW _ => { d := .g1 }
  | .vdopenGeq _ => { a := .g4, b := .g2, c := .g1, always := true }
  | .vdopenGeqImm _ => { a := .g4, c := .g1, always := true }
  | .vdopenPos _ => { a := .g4, c := .g1, always := true }
  | .vdps _ => { d := .g1, b := .g2 }
  | .vdlow _ => { d := .g4 }
  | .vdupr _ => { d := .g4 }
  | .vdfin _ => { d := .g4 }
  | .vdchkLive _ => { a := .mk, b := .g4 }
  | .vdchkAbn _ => { a := .mk, b := .g4 }
  | .vtraise _ => { d := .g1, a := .g1, b := .g2 }
  | .ld _ _ _ => { d := .g1, b := .g2, imm := .s }
  | .st _ _ => { a := .g1, b := .g2, imm := .s, of := true }
  | .ldc _ => { d := .g2, b := .g2, imm := .s }
  | .stc _ => { a := .g2, b := .g2, imm := .s }
  | .amo nr _ _ _ => { d := (if nr then .no else .g1), a := .g1, b := .g2, scp := true, near := true, of := true }
  | .cas _ _ => { d := .g1, a := .g1, b := .g2, scp := true, always := true }
  | .mapp _ => { a := .g4, b := .g1, c := .g1 }
  | .mrecv _ => { a := .w8, b := .g1, c := .g1 }
  | .fnc _ _ _ => { a := .g1, b := .g1, scp := true }
  | .fncInv _ => { a := .g1, b := .g1, scp := true }
  | .fnca _ _ => { scp := true }
  | .cpy _ => { a := .g2, b := .g2, c := .g1, always := true }
  | .cpym _ => { a := .g2, b := .g2, c := .g1, always := true }
  | .cpyx _ _ _ => { a := .g2, b := .g2, c := .g1, always := true }
  | .cwait _ => { d := .g1, b := .g1 }
  | .cpoll _ => { d := .g1, b := .g1 }
  | .sfldBind _ => { d := .g1, a := .g2, b := .g1 }
  | .sfldDrop _ => { d := .g1, a := .z0, b := .g1 }
  | .snew _ => { d := .g1, a := .g2, b := .g2 }
  | .sdel _ => { d := .g1, b := .g2 }
  | .sput _ => { d := .g1, a := .g2, b := .g2 }
  | .sputNr _ => { a := .g2, b := .g2 }
  | .sld _ => { d := .var, b := .g2, imm := .s }
  | .sst _ => { a := .var, b := .g2, imm := .s }
  | .sown _ => { d := .g1, a := .g2, b := .g2 }
  | .sqbox _ => { a := .g4, b := .g2, c := .g1, always := true }
  | .sqrad _ => { a := .g4, b := .g2, c := .g1, always := true }
  | .sqtake _ => { d := .g1, b := .g1 }
  | .sqend _ => { d := .g1, b := .g1 }
  | .shwait _ => { d := .g1, b := .g1 }
  | .scount _ => { d := .g4, a := .g1, b := .g2 }
  | .sscan _ => { d := .g2, a := .g1, b := .g2 }
  | .fncp => { fmt := .a }
  | .pcnt _ => { d := .g1 }
  | .pcntIss _ => { d := .g1 }
  | .gopen _ => { d := .g1, b := .g2 }
  | .stg _ _ => { a := .g1, b := .g2, c := .g1, imm := .s, of := true, always := true }
  | .gcommit _ => { d := .g1, b := .g1 }
  | .gabort _ => { d := .g1, b := .g1 }
  | .gstat _ => { d := .g1, b := .g1 }
  | .sopen _ => { d := .g1, b := .g1 }
  | .ssend _ => { b := .var }
  | .sclose _ => { d := .g1 }
  | .fred _ => { a := .g2, b := .g2, c := .g1, always := true }
  | .fredw _ => { d := .g1, b := .g1 }
  | .spawn _ => { d := .g1, a := .g1, b := .g1 }
  | .ten _ => { d := .g1, b := .g1 }
  | .tdis _ => { d := .g1, b := .g1 }
  | .tpnd _ => { d := .g1, b := .g1 }
  | .actdef _ => { d := .g1, a := .g1, b := .g2 }
  | .actctlEna _ => { d := .g1, a := .g1, b := .g1 }
  | .actctlDis _ => { d := .g1, a := .g1, b := .g1 }
  | .actctlPri _ => { d := .g1, a := .g1, b := .g1 }
  | .actctlStat _ => { d := .g1, a := .g1, b := .g1 }
  | .actctlFlush _ => { d := .g1, a := .g1, b := .g1 }
  | .actctlSpri _ => { d := .g1, a := .g1, b := .g1 }
  | .nbw _ => { a := .var, b := .g1 }
  | .nbarm _ => { d := .var, b := .g1 }
  | .phreg _ => { d := .g1, a := .g1, b := .g1 }
  | .phdrop _ => { d := .g1, b := .g1 }
  | .phsig _ => { d := .g1, a := .g1, b := .g1 }
  | .phwait _ => { d := .g1, b := .g1 }
  | .phadv _ => { d := .g1, a := .g1, b := .g1 }
  | .waittRead _ => { d := .g1, b := .g1 }
  | .waittArm _ => { d := .g1, b := .g1 }
  | .lqput _ => { d := .g1, a := .g1, b := .g2 }
  | .cancel _ => { d := .g1, b := .g1 }
  | _ => { fmt := .z }

/-- The operands an instruction carries. -/
def opsOf : Instr → Ops
  | .b o => o
  | .call o => o
  | .jr o => o
  | .callr o => o
  | .bz o => o
  | .bnz o => o
  | .bltz o => o
  | .bgez o => o
  | .many o => o
  | .mall o => o
  | .li o => o
  | .addi o => o
  | .andi o => o
  | .ori o => o
  | .xori o => o
  | .shli o => o
  | .shri o => o
  | .srai o => o
  | .mov o => o
  | .add o => o
  | .sub o => o
  | .andR o => o
  | .orR o => o
  | .xorR o => o
  | .shl o => o
  | .shr o => o
  | .sra o => o
  | .mul o => o
  | .mulh o => o
  | .mulhu o => o
  | .div o => o
  | .divu o => o
  | .rem o => o
  | .remu o => o
  | .seq o => o
  | .slt o => o
  | .sltu o => o
  | .minR o => o
  | .maxR o => o
  | .minu o => o
  | .maxu o => o
  | .clz o => o
  | .popc o => o
  | .sel o => o
  | .ldw o => o
  | .ldd o => o
  | .stw o => o
  | .std o => o
  | .cinc o => o
  | .cinci o => o
  | .cgeta o => o
  | .csetb o => o
  | .cperm o => o
  | .tagof o => o
  | .srd o => o
  | .swr o => o
  | .trap o => o
  | .vadd _ _ _ o => o
  | .vsub _ _ _ o => o
  | .vmul _ _ _ o => o
  | .vfma _ _ _ o => o
  | .vmin _ _ o => o
  | .vmax _ _ o => o
  | .vand _ _ o => o
  | .vor _ _ o => o
  | .vxor _ _ o => o
  | .vshl _ _ o => o
  | .vshr _ _ o => o
  | .vabs _ _ o => o
  | .vneg _ _ o => o
  | .vcmp _ _ _ o => o
  | .vsel _ o => o
  | .vred _ _ o => o
  | .vscan _ _ o => o
  | .vbcast _ o => o
  | .vext _ o => o
  | .vins _ o => o
  | .vperm _ o => o
  | .vslide _ _ o => o
  | .vcvt _ _ _ o => o
  | .vdiv _ _ _ o => o
  | .vsqrt _ o => o
  | .vexp2 _ o => o
  | .vld _ o => o
  | .vst _ o => o
  | .vlds _ o => o
  | .vsts _ o => o
  | .vgth _ o => o
  | .vsct _ o => o
  | .mand o => o
  | .mor o => o
  | .mxor o => o
  | .mnot o => o
  | .mpopc o => o
  | .mfirst o => o
  | .mset o => o
  | .mget o => o
  | .mma _ o => o
  | .mmas _ _ _ o => o
  | .mdrn _ _ o => o
  | .mdrnR _ _ o => o
  | .mlda _ _ o => o
  | .cmpr _ _ o => o
  | .mxpd _ _ o => o
  | .fork o => o
  | .eloop o => o
  | .ebump o => o
  | .tqput o => o
  | .tqwait o => o
  | .tqwaitAll o => o
  | .mstat o => o
  | .pset o => o
  | .psetW o => o
  | .fvadd o => o
  | .fvsub o => o
  | .fvmul o => o
  | .fvfma _ o => o
  | .fvdiv o => o
  | .fvsqrt o => o
  | .fvcmp o => o
  | .fvcvtFromi o => o
  | .fvcvtFromf o => o
  | .fvcvtToi o => o
  | .fvcvtTof o => o
  | .fvld o => o
  | .fvldIx o => o
  | .fvst o => o
  | .fvstIx o => o
  | .fvsigGet o => o
  | .fvsigSet o => o
  | .fvrnd o => o
  | .fvlen o => o
  | .fvlenW o => o
  | .vdopenGeq o => o
  | .vdopenGeqImm o => o
  | .vdopenPos o => o
  | .vdps o => o
  | .vdlow o => o
  | .vdupr o => o
  | .vdfin o => o
  | .vdchkLive o => o
  | .vdchkAbn o => o
  | .vtraise o => o
  | .ld _ _ o => o
  | .st _ o => o
  | .ldc o => o
  | .stc o => o
  | .amo _ _ _ o => o
  | .cas _ o => o
  | .mapp o => o
  | .mrecv o => o
  | .fnc _ _ o => o
  | .fncInv o => o
  | .fnca _ o => o
  | .cpy o => o
  | .cpym o => o
  | .cpyx _ _ o => o
  | .cwait o => o
  | .cpoll o => o
  | .sfldBind o => o
  | .sfldDrop o => o
  | .snew o => o
  | .sdel o => o
  | .sput o => o
  | .sputNr o => o
  | .sld o => o
  | .sst o => o
  | .sown o => o
  | .sqbox o => o
  | .sqrad o => o
  | .sqtake o => o
  | .sqend o => o
  | .shwait o => o
  | .scount o => o
  | .sscan o => o
  | .pcnt o => o
  | .pcntIss o => o
  | .gopen o => o
  | .stg _ o => o
  | .gcommit o => o
  | .gabort o => o
  | .gstat o => o
  | .sopen o => o
  | .ssend o => o
  | .sclose o => o
  | .fred o => o
  | .fredw o => o
  | .spawn o => o
  | .ten o => o
  | .tdis o => o
  | .tpnd o => o
  | .actdef o => o
  | .actctlEna o => o
  | .actctlDis o => o
  | .actctlPri o => o
  | .actctlStat o => o
  | .actctlFlush o => o
  | .actctlSpri o => o
  | .nbw o => o
  | .nbarm o => o
  | .phreg o => o
  | .phdrop o => o
  | .phsig o => o
  | .phwait o => o
  | .phadv o => o
  | .waittRead o => o
  | .waittArm o => o
  | .lqput o => o
  | .cancel o => o
  | _ => {  }

/-- The page, op6 and variant bits (the sub-operation in the Z group) of an instruction (R45 to R48); none for a variant
that the instruction does not have, and for an event. -/
def codeOf : Instr → Option (Nat × Nat × Nat)
  | .nop => some (0, 0x00, 0x00)
  | .fin => some (0, 0x00, 0x01)
  | .ret => some (0, 0x00, 0x02)
  | .eret => some (0, 0x00, 0x03)
  | .brk => some (0, 0x00, 0x04)
  | .hb => some (0, 0x00, 0x05)
  | .wfe => some (0, 0x00, 0x06)
  | .b _ => some (0, 0x01, 0x00)
  | .call _ => some (0, 0x02, 0x00)
  | .jr _ => some (0, 0x03, 0x00)
  | .callr _ => some (0, 0x04, 0x00)
  | .bz _ => some (0, 0x05, 0x00)
  | .bnz _ => some (0, 0x06, 0x00)
  | .bltz _ => some (0, 0x07, 0x00)
  | .bgez _ => some (0, 0x08, 0x00)
  | .many _ => some (0, 0x09, 0x00)
  | .mall _ => some (0, 0x0A, 0x00)
  | .li _ => some (0, 0x0B, 0x00)
  | .addi _ => some (0, 0x0C, 0x00)
  | .andi _ => some (0, 0x0D, 0x00)
  | .ori _ => some (0, 0x0E, 0x00)
  | .xori _ => some (0, 0x0F, 0x00)
  | .shli _ => some (0, 0x10, 0x00)
  | .shri _ => some (0, 0x11, 0x00)
  | .srai _ => some (0, 0x12, 0x00)
  | .mov _ => some (0, 0x13, 0x00)
  | .add _ => some (0, 0x14, 0x00)
  | .sub _ => some (0, 0x15, 0x00)
  | .andR _ => some (0, 0x16, 0x00)
  | .orR _ => some (0, 0x17, 0x00)
  | .xorR _ => some (0, 0x18, 0x00)
  | .shl _ => some (0, 0x19, 0x00)
  | .shr _ => some (0, 0x1A, 0x00)
  | .sra _ => some (0, 0x1B, 0x00)
  | .mul _ => some (0, 0x1C, 0x00)
  | .mulh _ => some (0, 0x1D, 0x00)
  | .mulhu _ => some (0, 0x1E, 0x00)
  | .div _ => some (0, 0x1F, 0x00)
  | .divu _ => some (0, 0x20, 0x00)
  | .rem _ => some (0, 0x21, 0x00)
  | .remu _ => some (0, 0x22, 0x00)
  | .seq _ => some (0, 0x23, 0x00)
  | .slt _ => some (0, 0x24, 0x00)
  | .sltu _ => some (0, 0x25, 0x00)
  | .minR _ => some (0, 0x26, 0x00)
  | .maxR _ => some (0, 0x27, 0x00)
  | .minu _ => some (0, 0x28, 0x00)
  | .maxu _ => some (0, 0x29, 0x00)
  | .clz _ => some (0, 0x2A, 0x00)
  | .popc _ => some (0, 0x2B, 0x00)
  | .sel _ => some (0, 0x2C, 0x00)
  | .ldw _ => some (0, 0x2D, 0x00)
  | .ldd _ => some (0, 0x2E, 0x00)
  | .stw _ => some (0, 0x2F, 0x00)
  | .std _ => some (0, 0x30, 0x00)
  | .cinc _ => some (0, 0x31, 0x00)
  | .cinci _ => some (0, 0x32, 0x00)
  | .cgeta _ => some (0, 0x33, 0x00)
  | .csetb _ => some (0, 0x34, 0x00)
  | .cperm _ => some (0, 0x35, 0x00)
  | .tagof _ => some (0, 0x36, 0x00)
  | .srd _ => some (0, 0x37, 0x00)
  | .swr _ => some (0, 0x38, 0x00)
  | .trap _ => some (0, 0x39, 0x00)
  | .vadd false false .i32 _ => some (1, 0x00, 0x00)
  | .vadd false true .i32 _ => some (1, 0x00, 0x04)
  | .vadd false false .u32 _ => some (1, 0x00, 0x01)
  | .vadd false true .u32 _ => some (1, 0x00, 0x05)
  | .vadd false false .f32 _ => some (1, 0x00, 0x02)
  | .vadd false true .f32 _ => some (1, 0x00, 0x06)
  | .vadd true false .i32 _ => some (1, 0x00, 0x08)
  | .vadd true true .i32 _ => some (1, 0x00, 0x0C)
  | .vadd true false .u32 _ => some (1, 0x00, 0x09)
  | .vadd true true .u32 _ => some (1, 0x00, 0x0D)
  | .vsub false false .i32 _ => some (1, 0x01, 0x00)
  | .vsub false true .i32 _ => some (1, 0x01, 0x04)
  | .vsub false false .u32 _ => some (1, 0x01, 0x01)
  | .vsub false true .u32 _ => some (1, 0x01, 0x05)
  | .vsub false false .f32 _ => some (1, 0x01, 0x02)
  | .vsub false true .f32 _ => some (1, 0x01, 0x06)
  | .vsub true false .i32 _ => some (1, 0x01, 0x08)
  | .vsub true true .i32 _ => some (1, 0x01, 0x0C)
  | .vsub true false .u32 _ => some (1, 0x01, 0x09)
  | .vsub true true .u32 _ => some (1, 0x01, 0x0D)
  | .vmul false false .i32 _ => some (1, 0x02, 0x00)
  | .vmul false true .i32 _ => some (1, 0x02, 0x04)
  | .vmul false false .u32 _ => some (1, 0x02, 0x01)
  | .vmul false true .u32 _ => some (1, 0x02, 0x05)
  | .vmul false false .f32 _ => some (1, 0x02, 0x02)
  | .vmul false true .f32 _ => some (1, 0x02, 0x06)
  | .vmul true false .i32 _ => some (1, 0x02, 0x08)
  | .vmul true true .i32 _ => some (1, 0x02, 0x0C)
  | .vmul true false .u32 _ => some (1, 0x02, 0x09)
  | .vmul true true .u32 _ => some (1, 0x02, 0x0D)
  | .vfma false false .i32 _ => some (1, 0x03, 0x00)
  | .vfma false true .i32 _ => some (1, 0x03, 0x04)
  | .vfma false false .u32 _ => some (1, 0x03, 0x01)
  | .vfma false true .u32 _ => some (1, 0x03, 0x05)
  | .vfma false false .f32 _ => some (1, 0x03, 0x02)
  | .vfma false true .f32 _ => some (1, 0x03, 0x06)
  | .vfma true false .i32 _ => some (1, 0x03, 0x08)
  | .vfma true true .i32 _ => some (1, 0x03, 0x0C)
  | .vfma true false .u32 _ => some (1, 0x03, 0x09)
  | .vfma true true .u32 _ => some (1, 0x03, 0x0D)
  | .vfma true false .f32 _ => some (1, 0x03, 0x0A)
  | .vfma true true .f32 _ => some (1, 0x03, 0x0E)
  | .vmin false .i32 _ => some (1, 0x04, 0x00)
  | .vmin true .i32 _ => some (1, 0x04, 0x04)
  | .vmin false .u32 _ => some (1, 0x04, 0x01)
  | .vmin true .u32 _ => some (1, 0x04, 0x05)
  | .vmin false .f32 _ => some (1, 0x04, 0x02)
  | .vmin true .f32 _ => some (1, 0x04, 0x06)
  | .vmax false .i32 _ => some (1, 0x05, 0x00)
  | .vmax true .i32 _ => some (1, 0x05, 0x04)
  | .vmax false .u32 _ => some (1, 0x05, 0x01)
  | .vmax true .u32 _ => some (1, 0x05, 0x05)
  | .vmax false .f32 _ => some (1, 0x05, 0x02)
  | .vmax true .f32 _ => some (1, 0x05, 0x06)
  | .vand false .i32 _ => some (1, 0x06, 0x00)
  | .vand true .i32 _ => some (1, 0x06, 0x04)
  | .vand false .u32 _ => some (1, 0x06, 0x01)
  | .vand true .u32 _ => some (1, 0x06, 0x05)
  | .vand false .f32 _ => some (1, 0x06, 0x02)
  | .vand true .f32 _ => some (1, 0x06, 0x06)
  | .vor false .i32 _ => some (1, 0x07, 0x00)
  | .vor true .i32 _ => some (1, 0x07, 0x04)
  | .vor false .u32 _ => some (1, 0x07, 0x01)
  | .vor true .u32 _ => some (1, 0x07, 0x05)
  | .vor false .f32 _ => some (1, 0x07, 0x02)
  | .vor true .f32 _ => some (1, 0x07, 0x06)
  | .vxor false .i32 _ => some (1, 0x08, 0x00)
  | .vxor true .i32 _ => some (1, 0x08, 0x04)
  | .vxor false .u32 _ => some (1, 0x08, 0x01)
  | .vxor true .u32 _ => some (1, 0x08, 0x05)
  | .vxor false .f32 _ => some (1, 0x08, 0x02)
  | .vxor true .f32 _ => some (1, 0x08, 0x06)
  | .vshl false .i32 _ => some (1, 0x09, 0x00)
  | .vshl true .i32 _ => some (1, 0x09, 0x04)
  | .vshl false .u32 _ => some (1, 0x09, 0x01)
  | .vshl true .u32 _ => some (1, 0x09, 0x05)
  | .vshr false .i32 _ => some (1, 0x0A, 0x00)
  | .vshr true .i32 _ => some (1, 0x0A, 0x04)
  | .vshr false .u32 _ => some (1, 0x0A, 0x01)
  | .vshr true .u32 _ => some (1, 0x0A, 0x05)
  | .vabs false .i32 _ => some (1, 0x0B, 0x00)
  | .vabs true .i32 _ => some (1, 0x0B, 0x04)
  | .vabs false .f32 _ => some (1, 0x0B, 0x02)
  | .vabs true .f32 _ => some (1, 0x0B, 0x06)
  | .vneg false .i32 _ => some (1, 0x0C, 0x00)
  | .vneg true .i32 _ => some (1, 0x0C, 0x04)
  | .vneg false .u32 _ => some (1, 0x0C, 0x01)
  | .vneg true .u32 _ => some (1, 0x0C, 0x05)
  | .vneg false .f32 _ => some (1, 0x0C, 0x02)
  | .vneg true .f32 _ => some (1, 0x0C, 0x06)
  | .vcmp .eq false .i32 _ => some (1, 0x0D, 0x00)
  | .vcmp .eq true .i32 _ => some (1, 0x0D, 0x04)
  | .vcmp .eq false .u32 _ => some (1, 0x0D, 0x01)
  | .vcmp .eq true .u32 _ => some (1, 0x0D, 0x05)
  | .vcmp .eq false .f32 _ => some (1, 0x0D, 0x02)
  | .vcmp .eq true .f32 _ => some (1, 0x0D, 0x06)
  | .vcmp .ne false .i32 _ => some (1, 0x0D, 0x08)
  | .vcmp .ne true .i32 _ => some (1, 0x0D, 0x0C)
  | .vcmp .ne false .u32 _ => some (1, 0x0D, 0x09)
  | .vcmp .ne true .u32 _ => some (1, 0x0D, 0x0D)
  | .vcmp .ne false .f32 _ => some (1, 0x0D, 0x0A)
  | .vcmp .ne true .f32 _ => some (1, 0x0D, 0x0E)
  | .vcmp .lt false .i32 _ => some (1, 0x0D, 0x10)
  | .vcmp .lt true .i32 _ => some (1, 0x0D, 0x14)
  | .vcmp .lt false .u32 _ => some (1, 0x0D, 0x11)
  | .vcmp .lt true .u32 _ => some (1, 0x0D, 0x15)
  | .vcmp .lt false .f32 _ => some (1, 0x0D, 0x12)
  | .vcmp .lt true .f32 _ => some (1, 0x0D, 0x16)
  | .vcmp .le false .i32 _ => some (1, 0x0D, 0x18)
  | .vcmp .le true .i32 _ => some (1, 0x0D, 0x1C)
  | .vcmp .le false .u32 _ => some (1, 0x0D, 0x19)
  | .vcmp .le true .u32 _ => some (1, 0x0D, 0x1D)
  | .vcmp .le false .f32 _ => some (1, 0x0D, 0x1A)
  | .vcmp .le true .f32 _ => some (1, 0x0D, 0x1E)
  | .vcmp .gt false .i32 _ => some (1, 0x0D, 0x20)
  | .vcmp .gt true .i32 _ => some (1, 0x0D, 0x24)
  | .vcmp .gt false .u32 _ => some (1, 0x0D, 0x21)
  | .vcmp .gt true .u32 _ => some (1, 0x0D, 0x25)
  | .vcmp .gt false .f32 _ => some (1, 0x0D, 0x22)
  | .vcmp .gt true .f32 _ => some (1, 0x0D, 0x26)
  | .vcmp .ge false .i32 _ => some (1, 0x0D, 0x28)
  | .vcmp .ge true .i32 _ => some (1, 0x0D, 0x2C)
  | .vcmp .ge false .u32 _ => some (1, 0x0D, 0x29)
  | .vcmp .ge true .u32 _ => some (1, 0x0D, 0x2D)
  | .vcmp .ge false .f32 _ => some (1, 0x0D, 0x2A)
  | .vcmp .ge true .f32 _ => some (1, 0x0D, 0x2E)
  | .vsel .i32 _ => some (1, 0x0E, 0x00)
  | .vsel .u32 _ => some (1, 0x0E, 0x01)
  | .vsel .f32 _ => some (1, 0x0E, 0x02)
  | .vred .add .i32 _ => some (1, 0x0F, 0x00)
  | .vred .add .u32 _ => some (1, 0x0F, 0x01)
  | .vred .add .f32 _ => some (1, 0x0F, 0x02)
  | .vred .min .i32 _ => some (1, 0x0F, 0x08)
  | .vred .min .u32 _ => some (1, 0x0F, 0x09)
  | .vred .min .f32 _ => some (1, 0x0F, 0x0A)
  | .vred .max .i32 _ => some (1, 0x0F, 0x10)
  | .vred .max .u32 _ => some (1, 0x0F, 0x11)
  | .vred .max .f32 _ => some (1, 0x0F, 0x12)
  | .vred .and .i32 _ => some (1, 0x0F, 0x18)
  | .vred .and .u32 _ => some (1, 0x0F, 0x19)
  | .vred .or .i32 _ => some (1, 0x0F, 0x20)
  | .vred .or .u32 _ => some (1, 0x0F, 0x21)
  | .vred .xor .i32 _ => some (1, 0x0F, 0x28)
  | .vred .xor .u32 _ => some (1, 0x0F, 0x29)
  | .vscan .add .i32 _ => some (1, 0x10, 0x00)
  | .vscan .add .u32 _ => some (1, 0x10, 0x01)
  | .vscan .add .f32 _ => some (1, 0x10, 0x02)
  | .vscan .min .i32 _ => some (1, 0x10, 0x08)
  | .vscan .min .u32 _ => some (1, 0x10, 0x09)
  | .vscan .min .f32 _ => some (1, 0x10, 0x0A)
  | .vscan .max .i32 _ => some (1, 0x10, 0x10)
  | .vscan .max .u32 _ => some (1, 0x10, 0x11)
  | .vscan .max .f32 _ => some (1, 0x10, 0x12)
  | .vbcast .i32 _ => some (1, 0x11, 0x00)
  | .vbcast .u32 _ => some (1, 0x11, 0x01)
  | .vbcast .f32 _ => some (1, 0x11, 0x02)
  | .vext .i32 _ => some (1, 0x12, 0x00)
  | .vext .u32 _ => some (1, 0x12, 0x01)
  | .vext .f32 _ => some (1, 0x12, 0x02)
  | .vins .i32 _ => some (1, 0x13, 0x00)
  | .vins .u32 _ => some (1, 0x13, 0x01)
  | .vins .f32 _ => some (1, 0x13, 0x02)
  | .vperm .i32 _ => some (1, 0x14, 0x00)
  | .vperm .u32 _ => some (1, 0x14, 0x01)
  | .vperm .f32 _ => some (1, 0x14, 0x02)
  | .vslide false .i32 _ => some (1, 0x15, 0x00)
  | .vslide false .u32 _ => some (1, 0x15, 0x01)
  | .vslide false .f32 _ => some (1, 0x15, 0x02)
  | .vslide true .i32 _ => some (1, 0x15, 0x08)
  | .vslide true .u32 _ => some (1, 0x15, 0x09)
  | .vslide true .f32 _ => some (1, 0x15, 0x0A)
  | .vcvt .i32 false .u32 _ => some (1, 0x16, 0x01)
  | .vcvt .i32 true .u32 _ => some (1, 0x16, 0x05)
  | .vcvt .i32 false .f32 _ => some (1, 0x16, 0x02)
  | .vcvt .i32 true .f32 _ => some (1, 0x16, 0x06)
  | .vcvt .u32 false .i32 _ => some (1, 0x16, 0x08)
  | .vcvt .u32 true .i32 _ => some (1, 0x16, 0x0C)
  | .vcvt .u32 false .f32 _ => some (1, 0x16, 0x0A)
  | .vcvt .u32 true .f32 _ => some (1, 0x16, 0x0E)
  | .vcvt .f32 false .i32 _ => some (1, 0x16, 0x10)
  | .vcvt .f32 true .i32 _ => some (1, 0x16, 0x14)
  | .vcvt .f32 false .u32 _ => some (1, 0x16, 0x11)
  | .vcvt .f32 true .u32 _ => some (1, 0x16, 0x15)
  | .vcvt .i32t false .f32 _ => some (1, 0x16, 0x1A)
  | .vcvt .i32t true .f32 _ => some (1, 0x16, 0x1E)
  | .vcvt .bf16 false .f32 _ => some (1, 0x16, 0x22)
  | .vcvt .bf16 true .f32 _ => some (1, 0x16, 0x26)
  | .vcvt .fp16 false .f32 _ => some (1, 0x16, 0x2A)
  | .vcvt .fp16 true .f32 _ => some (1, 0x16, 0x2E)
  | .vcvt .e4m3 false .f32 _ => some (1, 0x16, 0x32)
  | .vcvt .e4m3 true .f32 _ => some (1, 0x16, 0x36)
  | .vcvt .e5m2 false .f32 _ => some (1, 0x16, 0x3A)
  | .vcvt .e5m2 true .f32 _ => some (1, 0x16, 0x3E)
  | .vcvt .e2m1 false .f32 _ => some (1, 0x16, 0x42)
  | .vcvt .e2m1 true .f32 _ => some (1, 0x16, 0x46)
  | .vcvt .xbf16 false .u32 _ => some (1, 0x16, 0x49)
  | .vcvt .xbf16 true .u32 _ => some (1, 0x16, 0x4D)
  | .vcvt .xfp16 false .u32 _ => some (1, 0x16, 0x51)
  | .vcvt .xfp16 true .u32 _ => some (1, 0x16, 0x55)
  | .vcvt .xe4m3 false .u32 _ => some (1, 0x16, 0x59)
  | .vcvt .xe4m3 true .u32 _ => some (1, 0x16, 0x5D)
  | .vcvt .xe5m2 false .u32 _ => some (1, 0x16, 0x61)
  | .vcvt .xe5m2 true .u32 _ => some (1, 0x16, 0x65)
  | .vcvt .xe2m1 false .u32 _ => some (1, 0x16, 0x69)
  | .vcvt .xe2m1 true .u32 _ => some (1, 0x16, 0x6D)
  | .vdiv false false .i32 _ => some (1, 0x17, 0x00)
  | .vdiv false true .i32 _ => some (1, 0x17, 0x04)
  | .vdiv false false .u32 _ => some (1, 0x17, 0x01)
  | .vdiv false true .u32 _ => some (1, 0x17, 0x05)
  | .vdiv false false .f32 _ => some (1, 0x17, 0x02)
  | .vdiv false true .f32 _ => some (1, 0x17, 0x06)
  | .vdiv true false .i32 _ => some (1, 0x17, 0x08)
  | .vdiv true true .i32 _ => some (1, 0x17, 0x0C)
  | .vdiv true false .u32 _ => some (1, 0x17, 0x09)
  | .vdiv true true .u32 _ => some (1, 0x17, 0x0D)
  | .vsqrt false _ => some (1, 0x18, 0x02)
  | .vsqrt true _ => some (1, 0x18, 0x06)
  | .vexp2 false _ => some (1, 0x19, 0x02)
  | .vexp2 true _ => some (1, 0x19, 0x06)
  | .vld .i32 _ => some (1, 0x1A, 0x00)
  | .vld .u32 _ => some (1, 0x1A, 0x01)
  | .vld .f32 _ => some (1, 0x1A, 0x02)
  | .vst .i32 _ => some (1, 0x1B, 0x00)
  | .vst .u32 _ => some (1, 0x1B, 0x01)
  | .vst .f32 _ => some (1, 0x1B, 0x02)
  | .vlds .i32 _ => some (1, 0x1C, 0x00)
  | .vlds .u32 _ => some (1, 0x1C, 0x01)
  | .vlds .f32 _ => some (1, 0x1C, 0x02)
  | .vsts .i32 _ => some (1, 0x1D, 0x00)
  | .vsts .u32 _ => some (1, 0x1D, 0x01)
  | .vsts .f32 _ => some (1, 0x1D, 0x02)
  | .vgth .i32 _ => some (1, 0x1E, 0x00)
  | .vgth .u32 _ => some (1, 0x1E, 0x01)
  | .vgth .f32 _ => some (1, 0x1E, 0x02)
  | .vsct .i32 _ => some (1, 0x1F, 0x00)
  | .vsct .u32 _ => some (1, 0x1F, 0x01)
  | .vsct .f32 _ => some (1, 0x1F, 0x02)
  | .mand _ => some (1, 0x20, 0x00)
  | .mor _ => some (1, 0x21, 0x00)
  | .mxor _ => some (1, 0x22, 0x00)
  | .mnot _ => some (1, 0x23, 0x00)
  | .mpopc _ => some (1, 0x24, 0x00)
  | .mfirst _ => some (1, 0x25, 0x00)
  | .mset _ => some (1, 0x26, 0x00)
  | .mget _ => some (1, 0x27, 0x00)
  | .mzero false false => some (2, 0x00, 0x00)
  | .mzero false true => some (2, 0x00, 0x02)
  | .mzero true false => some (2, 0x00, 0x01)
  | .mzero true true => some (2, 0x00, 0x03)
  | .mma false _ => some (2, 0x01, 0x00)
  | .mma true _ => some (2, 0x01, 0x01)
  | .mmas false .s24 false _ => some (2, 0x02, 0x00)
  | .mmas false .s24 true _ => some (2, 0x02, 0x08)
  | .mmas false .s28 false _ => some (2, 0x02, 0x02)
  | .mmas false .s28 true _ => some (2, 0x02, 0x0A)
  | .mmas false .s48 false _ => some (2, 0x02, 0x04)
  | .mmas false .s48 true _ => some (2, 0x02, 0x0C)
  | .mmas true .s24 false _ => some (2, 0x02, 0x01)
  | .mmas true .s24 true _ => some (2, 0x02, 0x09)
  | .mmas true .s28 false _ => some (2, 0x02, 0x03)
  | .mmas true .s28 true _ => some (2, 0x02, 0x0B)
  | .mmas true .s48 false _ => some (2, 0x02, 0x05)
  | .mmas true .s48 true _ => some (2, 0x02, 0x0D)
  | .mdrn false false _ => some (2, 0x03, 0x00)
  | .mdrn false true _ => some (2, 0x03, 0x04)
  | .mdrn true false _ => some (2, 0x03, 0x01)
  | .mdrn true true _ => some (2, 0x03, 0x05)
  | .mdrnR false false _ => some (2, 0x03, 0x02)
  | .mdrnR false true _ => some (2, 0x03, 0x06)
  | .mdrnR true false _ => some (2, 0x03, 0x03)
  | .mdrnR true true _ => some (2, 0x03, 0x07)
  | .mlda false false _ => some (2, 0x04, 0x00)
  | .mlda false true _ => some (2, 0x04, 0x02)
  | .mlda true false _ => some (2, 0x04, 0x01)
  | .mlda true true _ => some (2, 0x04, 0x03)
  | .cmpr .s24 false _ => some (2, 0x05, 0x00)
  | .cmpr .s24 true _ => some (2, 0x05, 0x08)
  | .cmpr .s28 false _ => some (2, 0x05, 0x02)
  | .cmpr .s28 true _ => some (2, 0x05, 0x0A)
  | .cmpr .s48 false _ => some (2, 0x05, 0x04)
  | .cmpr .s48 true _ => some (2, 0x05, 0x0C)
  | .mxpd .s24 false _ => some (2, 0x06, 0x00)
  | .mxpd .s24 true _ => some (2, 0x06, 0x08)
  | .mxpd .s28 false _ => some (2, 0x06, 0x02)
  | .mxpd .s28 true _ => some (2, 0x06, 0x0A)
  | .mxpd .s48 false _ => some (2, 0x06, 0x04)
  | .mxpd .s48 true _ => some (2, 0x06, 0x0C)
  | .fork _ => some (2, 0x07, 0x00)
  | .rdv => some (2, 0x08, 0x00)
  | .endp => some (2, 0x09, 0x00)
  | .eloop _ => some (2, 0x0A, 0x00)
  | .ebump _ => some (2, 0x0B, 0x00)
  | .tqput _ => some (2, 0x0C, 0x00)
  | .tqwait _ => some (2, 0x0D, 0x00)
  | .tqwaitAll _ => some (2, 0x0D, 0x01)
  | .mstat _ => some (2, 0x0E, 0x00)
  | .mstatAbort => some (2, 0x0E, 0x01)
  | .pset _ => some (3, 0x00, 0x00)
  | .psetW _ => some (3, 0x00, 0x01)
  | .fvadd _ => some (3, 0x01, 0x00)
  | .fvsub _ => some (3, 0x02, 0x00)
  | .fvmul _ => some (3, 0x03, 0x00)
  | .fvfma false _ => some (3, 0x04, 0x00)
  | .fvfma true _ => some (3, 0x04, 0x01)
  | .fvdiv _ => some (3, 0x05, 0x00)
  | .fvsqrt _ => some (3, 0x06, 0x00)
  | .fvcmp _ => some (3, 0x07, 0x00)
  | .fvcvtFromi _ => some (3, 0x08, 0x00)
  | .fvcvtFromf _ => some (3, 0x08, 0x01)
  | .fvcvtToi _ => some (3, 0x08, 0x02)
  | .fvcvtTof _ => some (3, 0x08, 0x03)
  | .fvld _ => some (3, 0x09, 0x00)
  | .fvldIx _ => some (3, 0x09, 0x01)
  | .fvst _ => some (3, 0x0A, 0x00)
  | .fvstIx _ => some (3, 0x0A, 0x01)
  | .fvsigGet _ => some (3, 0x0B, 0x00)
  | .fvsigSet _ => some (3, 0x0B, 0x01)
  | .fvrnd _ => some (3, 0x0C, 0x00)
  | .fvlen _ => some (3, 0x0D, 0x00)
  | .fvlenW _ => some (3, 0x0D, 0x01)
  | .vdopenGeq _ => some (3, 0x10, 0x00)
  | .vdopenGeqImm _ => some (3, 0x10, 0x01)
  | .vdopenPos _ => some (3, 0x10, 0x02)
  | .vdps _ => some (3, 0x11, 0x00)
  | .vdlow _ => some (3, 0x12, 0x00)
  | .vdupr _ => some (3, 0x13, 0x00)
  | .vdfin _ => some (3, 0x14, 0x00)
  | .vdchkLive _ => some (3, 0x15, 0x00)
  | .vdchkAbn _ => some (3, 0x15, 0x01)
  | .vtraise _ => some (3, 0x16, 0x00)
  | .ld false .b _ => some (4, 0x00, 0x00)
  | .ld false .h _ => some (4, 0x00, 0x01)
  | .ld false .w _ => some (4, 0x00, 0x02)
  | .ld false .d _ => some (4, 0x00, 0x03)
  | .ld false .q _ => some (4, 0x00, 0x04)
  | .ld true .b _ => some (4, 0x00, 0x08)
  | .ld true .h _ => some (4, 0x00, 0x09)
  | .ld true .w _ => some (4, 0x00, 0x0A)
  | .st .b _ => some (4, 0x01, 0x00)
  | .st .h _ => some (4, 0x01, 0x01)
  | .st .w _ => some (4, 0x01, 0x02)
  | .st .d _ => some (4, 0x01, 0x03)
  | .st .q _ => some (4, 0x01, 0x04)
  | .ldc _ => some (4, 0x02, 0x00)
  | .stc _ => some (4, 0x03, 0x00)
  | .amo false false .add _ => some (4, 0x04, 0x00)
  | .amo false false .and _ => some (4, 0x04, 0x01)
  | .amo false false .or _ => some (4, 0x04, 0x02)
  | .amo false false .xor _ => some (4, 0x04, 0x03)
  | .amo false false .min _ => some (4, 0x04, 0x04)
  | .amo false false .max _ => some (4, 0x04, 0x05)
  | .amo false false .minu _ => some (4, 0x04, 0x06)
  | .amo false false .maxu _ => some (4, 0x04, 0x07)
  | .amo false false .swap _ => some (4, 0x04, 0x08)
  | .amo false false .fadd _ => some (4, 0x04, 0x09)
  | .amo false true .add _ => some (4, 0x04, 0x10)
  | .amo false true .and _ => some (4, 0x04, 0x11)
  | .amo false true .or _ => some (4, 0x04, 0x12)
  | .amo false true .xor _ => some (4, 0x04, 0x13)
  | .amo false true .min _ => some (4, 0x04, 0x14)
  | .amo false true .max _ => some (4, 0x04, 0x15)
  | .amo false true .minu _ => some (4, 0x04, 0x16)
  | .amo false true .maxu _ => some (4, 0x04, 0x17)
  | .amo false true .swap _ => some (4, 0x04, 0x18)
  | .amo true false .add _ => some (4, 0x04, 0x20)
  | .amo true false .and _ => some (4, 0x04, 0x21)
  | .amo true false .or _ => some (4, 0x04, 0x22)
  | .amo true false .xor _ => some (4, 0x04, 0x23)
  | .amo true false .min _ => some (4, 0x04, 0x24)
  | .amo true false .max _ => some (4, 0x04, 0x25)
  | .amo true false .minu _ => some (4, 0x04, 0x26)
  | .amo true false .maxu _ => some (4, 0x04, 0x27)
  | .amo true false .swap _ => some (4, 0x04, 0x28)
  | .amo true false .fadd _ => some (4, 0x04, 0x29)
  | .amo true true .add _ => some (4, 0x04, 0x30)
  | .amo true true .and _ => some (4, 0x04, 0x31)
  | .amo true true .or _ => some (4, 0x04, 0x32)
  | .amo true true .xor _ => some (4, 0x04, 0x33)
  | .amo true true .min _ => some (4, 0x04, 0x34)
  | .amo true true .max _ => some (4, 0x04, 0x35)
  | .amo true true .minu _ => some (4, 0x04, 0x36)
  | .amo true true .maxu _ => some (4, 0x04, 0x37)
  | .amo true true .swap _ => some (4, 0x04, 0x38)
  | .cas false _ => some (4, 0x05, 0x00)
  | .cas true _ => some (4, 0x05, 0x10)
  | .mapp _ => some (4, 0x06, 0x00)
  | .mrecv _ => some (4, 0x07, 0x00)
  | .fnc .l .acq _ => some (4, 0x08, 0x01)
  | .fnc .l .rel _ => some (4, 0x08, 0x02)
  | .fnc .l .ar _ => some (4, 0x08, 0x03)
  | .fnc .c .acq _ => some (4, 0x08, 0x05)
  | .fnc .c .rel _ => some (4, 0x08, 0x06)
  | .fnc .c .ar _ => some (4, 0x08, 0x07)
  | .fnc .d .acq _ => some (4, 0x08, 0x09)
  | .fnc .d .rel _ => some (4, 0x08, 0x0A)
  | .fnc .d .ar _ => some (4, 0x08, 0x0B)
  | .fncInv _ => some (4, 0x08, 0x1B)
  | .fnca .acq _ => some (4, 0x09, 0x01)
  | .fnca .rel _ => some (4, 0x09, 0x02)
  | .fnca .ar _ => some (4, 0x09, 0x03)
  | .cpy _ => some (4, 0x0A, 0x00)
  | .cpym _ => some (4, 0x0B, 0x00)
  | .cpyx .s24 false _ => some (4, 0x0C, 0x00)
  | .cpyx .s24 true _ => some (4, 0x0C, 0x08)
  | .cpyx .s28 false _ => some (4, 0x0C, 0x02)
  | .cpyx .s28 true _ => some (4, 0x0C, 0x0A)
  | .cpyx .s48 false _ => some (4, 0x0C, 0x04)
  | .cpyx .s48 true _ => some (4, 0x0C, 0x0C)
  | .cwait _ => some (4, 0x0D, 0x00)
  | .cpoll _ => some (4, 0x0E, 0x00)
  | .sfldBind _ => some (5, 0x00, 0x00)
  | .sfldDrop _ => some (5, 0x00, 0x01)
  | .snew _ => some (5, 0x01, 0x00)
  | .sdel _ => some (5, 0x02, 0x00)
  | .sput _ => some (5, 0x03, 0x00)
  | .sputNr _ => some (5, 0x03, 0x01)
  | .sld _ => some (5, 0x04, 0x00)
  | .sst _ => some (5, 0x05, 0x00)
  | .sown _ => some (5, 0x06, 0x00)
  | .sqbox _ => some (5, 0x07, 0x00)
  | .sqrad _ => some (5, 0x08, 0x00)
  | .sqtake _ => some (5, 0x09, 0x00)
  | .sqend _ => some (5, 0x0A, 0x00)
  | .shwait _ => some (5, 0x0B, 0x00)
  | .scount _ => some (5, 0x0C, 0x00)
  | .sscan _ => some (5, 0x0D, 0x00)
  | .fncp => some (6, 0x00, 0x00)
  | .pcnt _ => some (6, 0x01, 0x00)
  | .pcntIss _ => some (6, 0x01, 0x01)
  | .gopen _ => some (6, 0x02, 0x00)
  | .stg .b _ => some (6, 0x03, 0x00)
  | .stg .h _ => some (6, 0x03, 0x01)
  | .stg .w _ => some (6, 0x03, 0x02)
  | .stg .d _ => some (6, 0x03, 0x03)
  | .stg .q _ => some (6, 0x03, 0x04)
  | .gcommit _ => some (6, 0x04, 0x00)
  | .gabort _ => some (6, 0x05, 0x00)
  | .gstat _ => some (6, 0x06, 0x00)
  | .sopen _ => some (6, 0x07, 0x00)
  | .ssend _ => some (6, 0x08, 0x00)
  | .sclose _ => some (6, 0x09, 0x00)
  | .fred _ => some (6, 0x0A, 0x00)
  | .fredw _ => some (6, 0x0B, 0x00)
  | .spawn _ => some (7, 0x00, 0x00)
  | .ten _ => some (7, 0x01, 0x00)
  | .tdis _ => some (7, 0x02, 0x00)
  | .tpnd _ => some (7, 0x03, 0x00)
  | .actdef _ => some (7, 0x04, 0x00)
  | .actctlEna _ => some (7, 0x05, 0x00)
  | .actctlDis _ => some (7, 0x05, 0x01)
  | .actctlPri _ => some (7, 0x05, 0x02)
  | .actctlStat _ => some (7, 0x05, 0x03)
  | .actctlFlush _ => some (7, 0x05, 0x04)
  | .actctlSpri _ => some (7, 0x05, 0x05)
  | .nbw _ => some (7, 0x06, 0x00)
  | .nbarm _ => some (7, 0x07, 0x00)
  | .phreg _ => some (7, 0x08, 0x00)
  | .phdrop _ => some (7, 0x09, 0x00)
  | .phsig _ => some (7, 0x0A, 0x00)
  | .phwait _ => some (7, 0x0B, 0x00)
  | .phadv _ => some (7, 0x0C, 0x00)
  | .waittRead _ => some (7, 0x0D, 0x00)
  | .waittArm _ => some (7, 0x0D, 0x01)
  | .lqput _ => some (7, 0x0E, 0x00)
  | .cancel _ => some (7, 0x0F, 0x00)
  | _ => none

/-- The instructions of page 0 by op6 and variant bits (R46 to R48). -/
def page0 (op x : Nat) : Option (Ops → Instr) :=
  match op with
  | 0x00 => match x with
    | 0x00 => some (fun _ => .nop)
    | 0x01 => some (fun _ => .fin)
    | 0x02 => some (fun _ => .ret)
    | 0x03 => some (fun _ => .eret)
    | 0x04 => some (fun _ => .brk)
    | 0x05 => some (fun _ => .hb)
    | 0x06 => some (fun _ => .wfe)
    | _ => none
  | 0x01 => match x with
    | 0x00 => some (.b)
    | _ => none
  | 0x02 => match x with
    | 0x00 => some (.call)
    | _ => none
  | 0x03 => match x with
    | 0x00 => some (.jr)
    | _ => none
  | 0x04 => match x with
    | 0x00 => some (.callr)
    | _ => none
  | 0x05 => match x with
    | 0x00 => some (.bz)
    | _ => none
  | 0x06 => match x with
    | 0x00 => some (.bnz)
    | _ => none
  | 0x07 => match x with
    | 0x00 => some (.bltz)
    | _ => none
  | 0x08 => match x with
    | 0x00 => some (.bgez)
    | _ => none
  | 0x09 => match x with
    | 0x00 => some (.many)
    | _ => none
  | 0x0A => match x with
    | 0x00 => some (.mall)
    | _ => none
  | 0x0B => match x with
    | 0x00 => some (.li)
    | _ => none
  | 0x0C => match x with
    | 0x00 => some (.addi)
    | _ => none
  | 0x0D => match x with
    | 0x00 => some (.andi)
    | _ => none
  | 0x0E => match x with
    | 0x00 => some (.ori)
    | _ => none
  | 0x0F => match x with
    | 0x00 => some (.xori)
    | _ => none
  | 0x10 => match x with
    | 0x00 => some (.shli)
    | _ => none
  | 0x11 => match x with
    | 0x00 => some (.shri)
    | _ => none
  | 0x12 => match x with
    | 0x00 => some (.srai)
    | _ => none
  | 0x13 => match x with
    | 0x00 => some (.mov)
    | _ => none
  | 0x14 => match x with
    | 0x00 => some (.add)
    | _ => none
  | 0x15 => match x with
    | 0x00 => some (.sub)
    | _ => none
  | 0x16 => match x with
    | 0x00 => some (.andR)
    | _ => none
  | 0x17 => match x with
    | 0x00 => some (.orR)
    | _ => none
  | 0x18 => match x with
    | 0x00 => some (.xorR)
    | _ => none
  | 0x19 => match x with
    | 0x00 => some (.shl)
    | _ => none
  | 0x1A => match x with
    | 0x00 => some (.shr)
    | _ => none
  | 0x1B => match x with
    | 0x00 => some (.sra)
    | _ => none
  | 0x1C => match x with
    | 0x00 => some (.mul)
    | _ => none
  | 0x1D => match x with
    | 0x00 => some (.mulh)
    | _ => none
  | 0x1E => match x with
    | 0x00 => some (.mulhu)
    | _ => none
  | 0x1F => match x with
    | 0x00 => some (.div)
    | _ => none
  | 0x20 => match x with
    | 0x00 => some (.divu)
    | _ => none
  | 0x21 => match x with
    | 0x00 => some (.rem)
    | _ => none
  | 0x22 => match x with
    | 0x00 => some (.remu)
    | _ => none
  | 0x23 => match x with
    | 0x00 => some (.seq)
    | _ => none
  | 0x24 => match x with
    | 0x00 => some (.slt)
    | _ => none
  | 0x25 => match x with
    | 0x00 => some (.sltu)
    | _ => none
  | 0x26 => match x with
    | 0x00 => some (.minR)
    | _ => none
  | 0x27 => match x with
    | 0x00 => some (.maxR)
    | _ => none
  | 0x28 => match x with
    | 0x00 => some (.minu)
    | _ => none
  | 0x29 => match x with
    | 0x00 => some (.maxu)
    | _ => none
  | 0x2A => match x with
    | 0x00 => some (.clz)
    | _ => none
  | 0x2B => match x with
    | 0x00 => some (.popc)
    | _ => none
  | 0x2C => match x with
    | 0x00 => some (.sel)
    | _ => none
  | 0x2D => match x with
    | 0x00 => some (.ldw)
    | _ => none
  | 0x2E => match x with
    | 0x00 => some (.ldd)
    | _ => none
  | 0x2F => match x with
    | 0x00 => some (.stw)
    | _ => none
  | 0x30 => match x with
    | 0x00 => some (.std)
    | _ => none
  | 0x31 => match x with
    | 0x00 => some (.cinc)
    | _ => none
  | 0x32 => match x with
    | 0x00 => some (.cinci)
    | _ => none
  | 0x33 => match x with
    | 0x00 => some (.cgeta)
    | _ => none
  | 0x34 => match x with
    | 0x00 => some (.csetb)
    | _ => none
  | 0x35 => match x with
    | 0x00 => some (.cperm)
    | _ => none
  | 0x36 => match x with
    | 0x00 => some (.tagof)
    | _ => none
  | 0x37 => match x with
    | 0x00 => some (.srd)
    | _ => none
  | 0x38 => match x with
    | 0x00 => some (.swr)
    | _ => none
  | 0x39 => match x with
    | 0x00 => some (.trap)
    | _ => none
  | _ => none

/-- The instructions of page 1 by op6 and variant bits (R46 to R48). -/
def page1 (op x : Nat) : Option (Ops → Instr) :=
  match op with
  | 0x00 => match x with
    | 0x00 => some (fun o => .vadd false false .i32 o)
    | 0x01 => some (fun o => .vadd false false .u32 o)
    | 0x02 => some (fun o => .vadd false false .f32 o)
    | 0x04 => some (fun o => .vadd false true .i32 o)
    | 0x05 => some (fun o => .vadd false true .u32 o)
    | 0x06 => some (fun o => .vadd false true .f32 o)
    | 0x08 => some (fun o => .vadd true false .i32 o)
    | 0x09 => some (fun o => .vadd true false .u32 o)
    | 0x0C => some (fun o => .vadd true true .i32 o)
    | 0x0D => some (fun o => .vadd true true .u32 o)
    | _ => none
  | 0x01 => match x with
    | 0x00 => some (fun o => .vsub false false .i32 o)
    | 0x01 => some (fun o => .vsub false false .u32 o)
    | 0x02 => some (fun o => .vsub false false .f32 o)
    | 0x04 => some (fun o => .vsub false true .i32 o)
    | 0x05 => some (fun o => .vsub false true .u32 o)
    | 0x06 => some (fun o => .vsub false true .f32 o)
    | 0x08 => some (fun o => .vsub true false .i32 o)
    | 0x09 => some (fun o => .vsub true false .u32 o)
    | 0x0C => some (fun o => .vsub true true .i32 o)
    | 0x0D => some (fun o => .vsub true true .u32 o)
    | _ => none
  | 0x02 => match x with
    | 0x00 => some (fun o => .vmul false false .i32 o)
    | 0x01 => some (fun o => .vmul false false .u32 o)
    | 0x02 => some (fun o => .vmul false false .f32 o)
    | 0x04 => some (fun o => .vmul false true .i32 o)
    | 0x05 => some (fun o => .vmul false true .u32 o)
    | 0x06 => some (fun o => .vmul false true .f32 o)
    | 0x08 => some (fun o => .vmul true false .i32 o)
    | 0x09 => some (fun o => .vmul true false .u32 o)
    | 0x0C => some (fun o => .vmul true true .i32 o)
    | 0x0D => some (fun o => .vmul true true .u32 o)
    | _ => none
  | 0x03 => match x with
    | 0x00 => some (fun o => .vfma false false .i32 o)
    | 0x01 => some (fun o => .vfma false false .u32 o)
    | 0x02 => some (fun o => .vfma false false .f32 o)
    | 0x04 => some (fun o => .vfma false true .i32 o)
    | 0x05 => some (fun o => .vfma false true .u32 o)
    | 0x06 => some (fun o => .vfma false true .f32 o)
    | 0x08 => some (fun o => .vfma true false .i32 o)
    | 0x09 => some (fun o => .vfma true false .u32 o)
    | 0x0A => some (fun o => .vfma true false .f32 o)
    | 0x0C => some (fun o => .vfma true true .i32 o)
    | 0x0D => some (fun o => .vfma true true .u32 o)
    | 0x0E => some (fun o => .vfma true true .f32 o)
    | _ => none
  | 0x04 => match x with
    | 0x00 => some (fun o => .vmin false .i32 o)
    | 0x01 => some (fun o => .vmin false .u32 o)
    | 0x02 => some (fun o => .vmin false .f32 o)
    | 0x04 => some (fun o => .vmin true .i32 o)
    | 0x05 => some (fun o => .vmin true .u32 o)
    | 0x06 => some (fun o => .vmin true .f32 o)
    | _ => none
  | 0x05 => match x with
    | 0x00 => some (fun o => .vmax false .i32 o)
    | 0x01 => some (fun o => .vmax false .u32 o)
    | 0x02 => some (fun o => .vmax false .f32 o)
    | 0x04 => some (fun o => .vmax true .i32 o)
    | 0x05 => some (fun o => .vmax true .u32 o)
    | 0x06 => some (fun o => .vmax true .f32 o)
    | _ => none
  | 0x06 => match x with
    | 0x00 => some (fun o => .vand false .i32 o)
    | 0x01 => some (fun o => .vand false .u32 o)
    | 0x02 => some (fun o => .vand false .f32 o)
    | 0x04 => some (fun o => .vand true .i32 o)
    | 0x05 => some (fun o => .vand true .u32 o)
    | 0x06 => some (fun o => .vand true .f32 o)
    | _ => none
  | 0x07 => match x with
    | 0x00 => some (fun o => .vor false .i32 o)
    | 0x01 => some (fun o => .vor false .u32 o)
    | 0x02 => some (fun o => .vor false .f32 o)
    | 0x04 => some (fun o => .vor true .i32 o)
    | 0x05 => some (fun o => .vor true .u32 o)
    | 0x06 => some (fun o => .vor true .f32 o)
    | _ => none
  | 0x08 => match x with
    | 0x00 => some (fun o => .vxor false .i32 o)
    | 0x01 => some (fun o => .vxor false .u32 o)
    | 0x02 => some (fun o => .vxor false .f32 o)
    | 0x04 => some (fun o => .vxor true .i32 o)
    | 0x05 => some (fun o => .vxor true .u32 o)
    | 0x06 => some (fun o => .vxor true .f32 o)
    | _ => none
  | 0x09 => match x with
    | 0x00 => some (fun o => .vshl false .i32 o)
    | 0x01 => some (fun o => .vshl false .u32 o)
    | 0x04 => some (fun o => .vshl true .i32 o)
    | 0x05 => some (fun o => .vshl true .u32 o)
    | _ => none
  | 0x0A => match x with
    | 0x00 => some (fun o => .vshr false .i32 o)
    | 0x01 => some (fun o => .vshr false .u32 o)
    | 0x04 => some (fun o => .vshr true .i32 o)
    | 0x05 => some (fun o => .vshr true .u32 o)
    | _ => none
  | 0x0B => match x with
    | 0x00 => some (fun o => .vabs false .i32 o)
    | 0x02 => some (fun o => .vabs false .f32 o)
    | 0x04 => some (fun o => .vabs true .i32 o)
    | 0x06 => some (fun o => .vabs true .f32 o)
    | _ => none
  | 0x0C => match x with
    | 0x00 => some (fun o => .vneg false .i32 o)
    | 0x01 => some (fun o => .vneg false .u32 o)
    | 0x02 => some (fun o => .vneg false .f32 o)
    | 0x04 => some (fun o => .vneg true .i32 o)
    | 0x05 => some (fun o => .vneg true .u32 o)
    | 0x06 => some (fun o => .vneg true .f32 o)
    | _ => none
  | 0x0D => match x with
    | 0x00 => some (fun o => .vcmp .eq false .i32 o)
    | 0x01 => some (fun o => .vcmp .eq false .u32 o)
    | 0x02 => some (fun o => .vcmp .eq false .f32 o)
    | 0x04 => some (fun o => .vcmp .eq true .i32 o)
    | 0x05 => some (fun o => .vcmp .eq true .u32 o)
    | 0x06 => some (fun o => .vcmp .eq true .f32 o)
    | 0x08 => some (fun o => .vcmp .ne false .i32 o)
    | 0x09 => some (fun o => .vcmp .ne false .u32 o)
    | 0x0A => some (fun o => .vcmp .ne false .f32 o)
    | 0x0C => some (fun o => .vcmp .ne true .i32 o)
    | 0x0D => some (fun o => .vcmp .ne true .u32 o)
    | 0x0E => some (fun o => .vcmp .ne true .f32 o)
    | 0x10 => some (fun o => .vcmp .lt false .i32 o)
    | 0x11 => some (fun o => .vcmp .lt false .u32 o)
    | 0x12 => some (fun o => .vcmp .lt false .f32 o)
    | 0x14 => some (fun o => .vcmp .lt true .i32 o)
    | 0x15 => some (fun o => .vcmp .lt true .u32 o)
    | 0x16 => some (fun o => .vcmp .lt true .f32 o)
    | 0x18 => some (fun o => .vcmp .le false .i32 o)
    | 0x19 => some (fun o => .vcmp .le false .u32 o)
    | 0x1A => some (fun o => .vcmp .le false .f32 o)
    | 0x1C => some (fun o => .vcmp .le true .i32 o)
    | 0x1D => some (fun o => .vcmp .le true .u32 o)
    | 0x1E => some (fun o => .vcmp .le true .f32 o)
    | 0x20 => some (fun o => .vcmp .gt false .i32 o)
    | 0x21 => some (fun o => .vcmp .gt false .u32 o)
    | 0x22 => some (fun o => .vcmp .gt false .f32 o)
    | 0x24 => some (fun o => .vcmp .gt true .i32 o)
    | 0x25 => some (fun o => .vcmp .gt true .u32 o)
    | 0x26 => some (fun o => .vcmp .gt true .f32 o)
    | 0x28 => some (fun o => .vcmp .ge false .i32 o)
    | 0x29 => some (fun o => .vcmp .ge false .u32 o)
    | 0x2A => some (fun o => .vcmp .ge false .f32 o)
    | 0x2C => some (fun o => .vcmp .ge true .i32 o)
    | 0x2D => some (fun o => .vcmp .ge true .u32 o)
    | 0x2E => some (fun o => .vcmp .ge true .f32 o)
    | _ => none
  | 0x0E => match x with
    | 0x00 => some (fun o => .vsel .i32 o)
    | 0x01 => some (fun o => .vsel .u32 o)
    | 0x02 => some (fun o => .vsel .f32 o)
    | _ => none
  | 0x0F => match x with
    | 0x00 => some (fun o => .vred .add .i32 o)
    | 0x01 => some (fun o => .vred .add .u32 o)
    | 0x02 => some (fun o => .vred .add .f32 o)
    | 0x08 => some (fun o => .vred .min .i32 o)
    | 0x09 => some (fun o => .vred .min .u32 o)
    | 0x0A => some (fun o => .vred .min .f32 o)
    | 0x10 => some (fun o => .vred .max .i32 o)
    | 0x11 => some (fun o => .vred .max .u32 o)
    | 0x12 => some (fun o => .vred .max .f32 o)
    | 0x18 => some (fun o => .vred .and .i32 o)
    | 0x19 => some (fun o => .vred .and .u32 o)
    | 0x20 => some (fun o => .vred .or .i32 o)
    | 0x21 => some (fun o => .vred .or .u32 o)
    | 0x28 => some (fun o => .vred .xor .i32 o)
    | 0x29 => some (fun o => .vred .xor .u32 o)
    | _ => none
  | 0x10 => match x with
    | 0x00 => some (fun o => .vscan .add .i32 o)
    | 0x01 => some (fun o => .vscan .add .u32 o)
    | 0x02 => some (fun o => .vscan .add .f32 o)
    | 0x08 => some (fun o => .vscan .min .i32 o)
    | 0x09 => some (fun o => .vscan .min .u32 o)
    | 0x0A => some (fun o => .vscan .min .f32 o)
    | 0x10 => some (fun o => .vscan .max .i32 o)
    | 0x11 => some (fun o => .vscan .max .u32 o)
    | 0x12 => some (fun o => .vscan .max .f32 o)
    | _ => none
  | 0x11 => match x with
    | 0x00 => some (fun o => .vbcast .i32 o)
    | 0x01 => some (fun o => .vbcast .u32 o)
    | 0x02 => some (fun o => .vbcast .f32 o)
    | _ => none
  | 0x12 => match x with
    | 0x00 => some (fun o => .vext .i32 o)
    | 0x01 => some (fun o => .vext .u32 o)
    | 0x02 => some (fun o => .vext .f32 o)
    | _ => none
  | 0x13 => match x with
    | 0x00 => some (fun o => .vins .i32 o)
    | 0x01 => some (fun o => .vins .u32 o)
    | 0x02 => some (fun o => .vins .f32 o)
    | _ => none
  | 0x14 => match x with
    | 0x00 => some (fun o => .vperm .i32 o)
    | 0x01 => some (fun o => .vperm .u32 o)
    | 0x02 => some (fun o => .vperm .f32 o)
    | _ => none
  | 0x15 => match x with
    | 0x00 => some (fun o => .vslide false .i32 o)
    | 0x01 => some (fun o => .vslide false .u32 o)
    | 0x02 => some (fun o => .vslide false .f32 o)
    | 0x08 => some (fun o => .vslide true .i32 o)
    | 0x09 => some (fun o => .vslide true .u32 o)
    | 0x0A => some (fun o => .vslide true .f32 o)
    | _ => none
  | 0x16 => match x with
    | 0x01 => some (fun o => .vcvt .i32 false .u32 o)
    | 0x02 => some (fun o => .vcvt .i32 false .f32 o)
    | 0x05 => some (fun o => .vcvt .i32 true .u32 o)
    | 0x06 => some (fun o => .vcvt .i32 true .f32 o)
    | 0x08 => some (fun o => .vcvt .u32 false .i32 o)
    | 0x0A => some (fun o => .vcvt .u32 false .f32 o)
    | 0x0C => some (fun o => .vcvt .u32 true .i32 o)
    | 0x0E => some (fun o => .vcvt .u32 true .f32 o)
    | 0x10 => some (fun o => .vcvt .f32 false .i32 o)
    | 0x11 => some (fun o => .vcvt .f32 false .u32 o)
    | 0x14 => some (fun o => .vcvt .f32 true .i32 o)
    | 0x15 => some (fun o => .vcvt .f32 true .u32 o)
    | 0x1A => some (fun o => .vcvt .i32t false .f32 o)
    | 0x1E => some (fun o => .vcvt .i32t true .f32 o)
    | 0x22 => some (fun o => .vcvt .bf16 false .f32 o)
    | 0x26 => some (fun o => .vcvt .bf16 true .f32 o)
    | 0x2A => some (fun o => .vcvt .fp16 false .f32 o)
    | 0x2E => some (fun o => .vcvt .fp16 true .f32 o)
    | 0x32 => some (fun o => .vcvt .e4m3 false .f32 o)
    | 0x36 => some (fun o => .vcvt .e4m3 true .f32 o)
    | 0x3A => some (fun o => .vcvt .e5m2 false .f32 o)
    | 0x3E => some (fun o => .vcvt .e5m2 true .f32 o)
    | 0x42 => some (fun o => .vcvt .e2m1 false .f32 o)
    | 0x46 => some (fun o => .vcvt .e2m1 true .f32 o)
    | 0x49 => some (fun o => .vcvt .xbf16 false .u32 o)
    | 0x4D => some (fun o => .vcvt .xbf16 true .u32 o)
    | 0x51 => some (fun o => .vcvt .xfp16 false .u32 o)
    | 0x55 => some (fun o => .vcvt .xfp16 true .u32 o)
    | 0x59 => some (fun o => .vcvt .xe4m3 false .u32 o)
    | 0x5D => some (fun o => .vcvt .xe4m3 true .u32 o)
    | 0x61 => some (fun o => .vcvt .xe5m2 false .u32 o)
    | 0x65 => some (fun o => .vcvt .xe5m2 true .u32 o)
    | 0x69 => some (fun o => .vcvt .xe2m1 false .u32 o)
    | 0x6D => some (fun o => .vcvt .xe2m1 true .u32 o)
    | _ => none
  | 0x17 => match x with
    | 0x00 => some (fun o => .vdiv false false .i32 o)
    | 0x01 => some (fun o => .vdiv false false .u32 o)
    | 0x02 => some (fun o => .vdiv false false .f32 o)
    | 0x04 => some (fun o => .vdiv false true .i32 o)
    | 0x05 => some (fun o => .vdiv false true .u32 o)
    | 0x06 => some (fun o => .vdiv false true .f32 o)
    | 0x08 => some (fun o => .vdiv true false .i32 o)
    | 0x09 => some (fun o => .vdiv true false .u32 o)
    | 0x0C => some (fun o => .vdiv true true .i32 o)
    | 0x0D => some (fun o => .vdiv true true .u32 o)
    | _ => none
  | 0x18 => match x with
    | 0x02 => some (fun o => .vsqrt false o)
    | 0x06 => some (fun o => .vsqrt true o)
    | _ => none
  | 0x19 => match x with
    | 0x02 => some (fun o => .vexp2 false o)
    | 0x06 => some (fun o => .vexp2 true o)
    | _ => none
  | 0x1A => match x with
    | 0x00 => some (fun o => .vld .i32 o)
    | 0x01 => some (fun o => .vld .u32 o)
    | 0x02 => some (fun o => .vld .f32 o)
    | _ => none
  | 0x1B => match x with
    | 0x00 => some (fun o => .vst .i32 o)
    | 0x01 => some (fun o => .vst .u32 o)
    | 0x02 => some (fun o => .vst .f32 o)
    | _ => none
  | 0x1C => match x with
    | 0x00 => some (fun o => .vlds .i32 o)
    | 0x01 => some (fun o => .vlds .u32 o)
    | 0x02 => some (fun o => .vlds .f32 o)
    | _ => none
  | 0x1D => match x with
    | 0x00 => some (fun o => .vsts .i32 o)
    | 0x01 => some (fun o => .vsts .u32 o)
    | 0x02 => some (fun o => .vsts .f32 o)
    | _ => none
  | 0x1E => match x with
    | 0x00 => some (fun o => .vgth .i32 o)
    | 0x01 => some (fun o => .vgth .u32 o)
    | 0x02 => some (fun o => .vgth .f32 o)
    | _ => none
  | 0x1F => match x with
    | 0x00 => some (fun o => .vsct .i32 o)
    | 0x01 => some (fun o => .vsct .u32 o)
    | 0x02 => some (fun o => .vsct .f32 o)
    | _ => none
  | 0x20 => match x with
    | 0x00 => some (.mand)
    | _ => none
  | 0x21 => match x with
    | 0x00 => some (.mor)
    | _ => none
  | 0x22 => match x with
    | 0x00 => some (.mxor)
    | _ => none
  | 0x23 => match x with
    | 0x00 => some (.mnot)
    | _ => none
  | 0x24 => match x with
    | 0x00 => some (.mpopc)
    | _ => none
  | 0x25 => match x with
    | 0x00 => some (.mfirst)
    | _ => none
  | 0x26 => match x with
    | 0x00 => some (.mset)
    | _ => none
  | 0x27 => match x with
    | 0x00 => some (.mget)
    | _ => none
  | _ => none

/-- The instructions of page 2 by op6 and variant bits (R46 to R48). -/
def page2 (op x : Nat) : Option (Ops → Instr) :=
  match op with
  | 0x00 => match x with
    | 0x00 => some (fun _ => .mzero false false)
    | 0x01 => some (fun _ => .mzero true false)
    | 0x02 => some (fun _ => .mzero false true)
    | 0x03 => some (fun _ => .mzero true true)
    | _ => none
  | 0x01 => match x with
    | 0x00 => some (fun o => .mma false o)
    | 0x01 => some (fun o => .mma true o)
    | _ => none
  | 0x02 => match x with
    | 0x00 => some (fun o => .mmas false .s24 false o)
    | 0x01 => some (fun o => .mmas true .s24 false o)
    | 0x02 => some (fun o => .mmas false .s28 false o)
    | 0x03 => some (fun o => .mmas true .s28 false o)
    | 0x04 => some (fun o => .mmas false .s48 false o)
    | 0x05 => some (fun o => .mmas true .s48 false o)
    | 0x08 => some (fun o => .mmas false .s24 true o)
    | 0x09 => some (fun o => .mmas true .s24 true o)
    | 0x0A => some (fun o => .mmas false .s28 true o)
    | 0x0B => some (fun o => .mmas true .s28 true o)
    | 0x0C => some (fun o => .mmas false .s48 true o)
    | 0x0D => some (fun o => .mmas true .s48 true o)
    | _ => none
  | 0x03 => match x with
    | 0x00 => some (fun o => .mdrn false false o)
    | 0x01 => some (fun o => .mdrn true false o)
    | 0x02 => some (fun o => .mdrnR false false o)
    | 0x03 => some (fun o => .mdrnR true false o)
    | 0x04 => some (fun o => .mdrn false true o)
    | 0x05 => some (fun o => .mdrn true true o)
    | 0x06 => some (fun o => .mdrnR false true o)
    | 0x07 => some (fun o => .mdrnR true true o)
    | _ => none
  | 0x04 => match x with
    | 0x00 => some (fun o => .mlda false false o)
    | 0x01 => some (fun o => .mlda true false o)
    | 0x02 => some (fun o => .mlda false true o)
    | 0x03 => some (fun o => .mlda true true o)
    | _ => none
  | 0x05 => match x with
    | 0x00 => some (fun o => .cmpr .s24 false o)
    | 0x02 => some (fun o => .cmpr .s28 false o)
    | 0x04 => some (fun o => .cmpr .s48 false o)
    | 0x08 => some (fun o => .cmpr .s24 true o)
    | 0x0A => some (fun o => .cmpr .s28 true o)
    | 0x0C => some (fun o => .cmpr .s48 true o)
    | _ => none
  | 0x06 => match x with
    | 0x00 => some (fun o => .mxpd .s24 false o)
    | 0x02 => some (fun o => .mxpd .s28 false o)
    | 0x04 => some (fun o => .mxpd .s48 false o)
    | 0x08 => some (fun o => .mxpd .s24 true o)
    | 0x0A => some (fun o => .mxpd .s28 true o)
    | 0x0C => some (fun o => .mxpd .s48 true o)
    | _ => none
  | 0x07 => match x with
    | 0x00 => some (.fork)
    | _ => none
  | 0x08 => match x with
    | 0x00 => some (fun _ => .rdv)
    | _ => none
  | 0x09 => match x with
    | 0x00 => some (fun _ => .endp)
    | _ => none
  | 0x0A => match x with
    | 0x00 => some (.eloop)
    | _ => none
  | 0x0B => match x with
    | 0x00 => some (.ebump)
    | _ => none
  | 0x0C => match x with
    | 0x00 => some (.tqput)
    | _ => none
  | 0x0D => match x with
    | 0x00 => some (.tqwait)
    | 0x01 => some (.tqwaitAll)
    | _ => none
  | 0x0E => match x with
    | 0x00 => some (.mstat)
    | 0x01 => some (fun _ => .mstatAbort)
    | _ => none
  | _ => none

/-- The instructions of page 3 by op6 and variant bits (R46 to R48). -/
def page3 (op x : Nat) : Option (Ops → Instr) :=
  match op with
  | 0x00 => match x with
    | 0x00 => some (.pset)
    | 0x01 => some (.psetW)
    | _ => none
  | 0x01 => match x with
    | 0x00 => some (.fvadd)
    | _ => none
  | 0x02 => match x with
    | 0x00 => some (.fvsub)
    | _ => none
  | 0x03 => match x with
    | 0x00 => some (.fvmul)
    | _ => none
  | 0x04 => match x with
    | 0x00 => some (fun o => .fvfma false o)
    | 0x01 => some (fun o => .fvfma true o)
    | _ => none
  | 0x05 => match x with
    | 0x00 => some (.fvdiv)
    | _ => none
  | 0x06 => match x with
    | 0x00 => some (.fvsqrt)
    | _ => none
  | 0x07 => match x with
    | 0x00 => some (.fvcmp)
    | _ => none
  | 0x08 => match x with
    | 0x00 => some (.fvcvtFromi)
    | 0x01 => some (.fvcvtFromf)
    | 0x02 => some (.fvcvtToi)
    | 0x03 => some (.fvcvtTof)
    | _ => none
  | 0x09 => match x with
    | 0x00 => some (.fvld)
    | 0x01 => some (.fvldIx)
    | _ => none
  | 0x0A => match x with
    | 0x00 => some (.fvst)
    | 0x01 => some (.fvstIx)
    | _ => none
  | 0x0B => match x with
    | 0x00 => some (.fvsigGet)
    | 0x01 => some (.fvsigSet)
    | _ => none
  | 0x0C => match x with
    | 0x00 => some (.fvrnd)
    | _ => none
  | 0x0D => match x with
    | 0x00 => some (.fvlen)
    | 0x01 => some (.fvlenW)
    | _ => none
  | 0x10 => match x with
    | 0x00 => some (.vdopenGeq)
    | 0x01 => some (.vdopenGeqImm)
    | 0x02 => some (.vdopenPos)
    | _ => none
  | 0x11 => match x with
    | 0x00 => some (.vdps)
    | _ => none
  | 0x12 => match x with
    | 0x00 => some (.vdlow)
    | _ => none
  | 0x13 => match x with
    | 0x00 => some (.vdupr)
    | _ => none
  | 0x14 => match x with
    | 0x00 => some (.vdfin)
    | _ => none
  | 0x15 => match x with
    | 0x00 => some (.vdchkLive)
    | 0x01 => some (.vdchkAbn)
    | _ => none
  | 0x16 => match x with
    | 0x00 => some (.vtraise)
    | _ => none
  | _ => none

/-- The instructions of page 4 by op6 and variant bits (R46 to R48). -/
def page4 (op x : Nat) : Option (Ops → Instr) :=
  match op with
  | 0x00 => match x with
    | 0x00 => some (fun o => .ld false .b o)
    | 0x01 => some (fun o => .ld false .h o)
    | 0x02 => some (fun o => .ld false .w o)
    | 0x03 => some (fun o => .ld false .d o)
    | 0x04 => some (fun o => .ld false .q o)
    | 0x08 => some (fun o => .ld true .b o)
    | 0x09 => some (fun o => .ld true .h o)
    | 0x0A => some (fun o => .ld true .w o)
    | _ => none
  | 0x01 => match x with
    | 0x00 => some (fun o => .st .b o)
    | 0x01 => some (fun o => .st .h o)
    | 0x02 => some (fun o => .st .w o)
    | 0x03 => some (fun o => .st .d o)
    | 0x04 => some (fun o => .st .q o)
    | _ => none
  | 0x02 => match x with
    | 0x00 => some (.ldc)
    | _ => none
  | 0x03 => match x with
    | 0x00 => some (.stc)
    | _ => none
  | 0x04 => match x with
    | 0x00 => some (fun o => .amo false false .add o)
    | 0x01 => some (fun o => .amo false false .and o)
    | 0x02 => some (fun o => .amo false false .or o)
    | 0x03 => some (fun o => .amo false false .xor o)
    | 0x04 => some (fun o => .amo false false .min o)
    | 0x05 => some (fun o => .amo false false .max o)
    | 0x06 => some (fun o => .amo false false .minu o)
    | 0x07 => some (fun o => .amo false false .maxu o)
    | 0x08 => some (fun o => .amo false false .swap o)
    | 0x09 => some (fun o => .amo false false .fadd o)
    | 0x10 => some (fun o => .amo false true .add o)
    | 0x11 => some (fun o => .amo false true .and o)
    | 0x12 => some (fun o => .amo false true .or o)
    | 0x13 => some (fun o => .amo false true .xor o)
    | 0x14 => some (fun o => .amo false true .min o)
    | 0x15 => some (fun o => .amo false true .max o)
    | 0x16 => some (fun o => .amo false true .minu o)
    | 0x17 => some (fun o => .amo false true .maxu o)
    | 0x18 => some (fun o => .amo false true .swap o)
    | 0x20 => some (fun o => .amo true false .add o)
    | 0x21 => some (fun o => .amo true false .and o)
    | 0x22 => some (fun o => .amo true false .or o)
    | 0x23 => some (fun o => .amo true false .xor o)
    | 0x24 => some (fun o => .amo true false .min o)
    | 0x25 => some (fun o => .amo true false .max o)
    | 0x26 => some (fun o => .amo true false .minu o)
    | 0x27 => some (fun o => .amo true false .maxu o)
    | 0x28 => some (fun o => .amo true false .swap o)
    | 0x29 => some (fun o => .amo true false .fadd o)
    | 0x30 => some (fun o => .amo true true .add o)
    | 0x31 => some (fun o => .amo true true .and o)
    | 0x32 => some (fun o => .amo true true .or o)
    | 0x33 => some (fun o => .amo true true .xor o)
    | 0x34 => some (fun o => .amo true true .min o)
    | 0x35 => some (fun o => .amo true true .max o)
    | 0x36 => some (fun o => .amo true true .minu o)
    | 0x37 => some (fun o => .amo true true .maxu o)
    | 0x38 => some (fun o => .amo true true .swap o)
    | _ => none
  | 0x05 => match x with
    | 0x00 => some (fun o => .cas false o)
    | 0x10 => some (fun o => .cas true o)
    | _ => none
  | 0x06 => match x with
    | 0x00 => some (.mapp)
    | _ => none
  | 0x07 => match x with
    | 0x00 => some (.mrecv)
    | _ => none
  | 0x08 => match x with
    | 0x01 => some (fun o => .fnc .l .acq o)
    | 0x02 => some (fun o => .fnc .l .rel o)
    | 0x03 => some (fun o => .fnc .l .ar o)
    | 0x05 => some (fun o => .fnc .c .acq o)
    | 0x06 => some (fun o => .fnc .c .rel o)
    | 0x07 => some (fun o => .fnc .c .ar o)
    | 0x09 => some (fun o => .fnc .d .acq o)
    | 0x0A => some (fun o => .fnc .d .rel o)
    | 0x0B => some (fun o => .fnc .d .ar o)
    | 0x1B => some (.fncInv)
    | _ => none
  | 0x09 => match x with
    | 0x01 => some (fun o => .fnca .acq o)
    | 0x02 => some (fun o => .fnca .rel o)
    | 0x03 => some (fun o => .fnca .ar o)
    | _ => none
  | 0x0A => match x with
    | 0x00 => some (.cpy)
    | _ => none
  | 0x0B => match x with
    | 0x00 => some (.cpym)
    | _ => none
  | 0x0C => match x with
    | 0x00 => some (fun o => .cpyx .s24 false o)
    | 0x02 => some (fun o => .cpyx .s28 false o)
    | 0x04 => some (fun o => .cpyx .s48 false o)
    | 0x08 => some (fun o => .cpyx .s24 true o)
    | 0x0A => some (fun o => .cpyx .s28 true o)
    | 0x0C => some (fun o => .cpyx .s48 true o)
    | _ => none
  | 0x0D => match x with
    | 0x00 => some (.cwait)
    | _ => none
  | 0x0E => match x with
    | 0x00 => some (.cpoll)
    | _ => none
  | _ => none

/-- The instructions of page 5 by op6 and variant bits (R46 to R48). -/
def page5 (op x : Nat) : Option (Ops → Instr) :=
  match op with
  | 0x00 => match x with
    | 0x00 => some (.sfldBind)
    | 0x01 => some (.sfldDrop)
    | _ => none
  | 0x01 => match x with
    | 0x00 => some (.snew)
    | _ => none
  | 0x02 => match x with
    | 0x00 => some (.sdel)
    | _ => none
  | 0x03 => match x with
    | 0x00 => some (.sput)
    | 0x01 => some (.sputNr)
    | _ => none
  | 0x04 => match x with
    | 0x00 => some (.sld)
    | _ => none
  | 0x05 => match x with
    | 0x00 => some (.sst)
    | _ => none
  | 0x06 => match x with
    | 0x00 => some (.sown)
    | _ => none
  | 0x07 => match x with
    | 0x00 => some (.sqbox)
    | _ => none
  | 0x08 => match x with
    | 0x00 => some (.sqrad)
    | _ => none
  | 0x09 => match x with
    | 0x00 => some (.sqtake)
    | _ => none
  | 0x0A => match x with
    | 0x00 => some (.sqend)
    | _ => none
  | 0x0B => match x with
    | 0x00 => some (.shwait)
    | _ => none
  | 0x0C => match x with
    | 0x00 => some (.scount)
    | _ => none
  | 0x0D => match x with
    | 0x00 => some (.sscan)
    | _ => none
  | _ => none

/-- The instructions of page 6 by op6 and variant bits (R46 to R48). -/
def page6 (op x : Nat) : Option (Ops → Instr) :=
  match op with
  | 0x00 => match x with
    | 0x00 => some (fun _ => .fncp)
    | _ => none
  | 0x01 => match x with
    | 0x00 => some (.pcnt)
    | 0x01 => some (.pcntIss)
    | _ => none
  | 0x02 => match x with
    | 0x00 => some (.gopen)
    | _ => none
  | 0x03 => match x with
    | 0x00 => some (fun o => .stg .b o)
    | 0x01 => some (fun o => .stg .h o)
    | 0x02 => some (fun o => .stg .w o)
    | 0x03 => some (fun o => .stg .d o)
    | 0x04 => some (fun o => .stg .q o)
    | _ => none
  | 0x04 => match x with
    | 0x00 => some (.gcommit)
    | _ => none
  | 0x05 => match x with
    | 0x00 => some (.gabort)
    | _ => none
  | 0x06 => match x with
    | 0x00 => some (.gstat)
    | _ => none
  | 0x07 => match x with
    | 0x00 => some (.sopen)
    | _ => none
  | 0x08 => match x with
    | 0x00 => some (.ssend)
    | _ => none
  | 0x09 => match x with
    | 0x00 => some (.sclose)
    | _ => none
  | 0x0A => match x with
    | 0x00 => some (.fred)
    | _ => none
  | 0x0B => match x with
    | 0x00 => some (.fredw)
    | _ => none
  | _ => none

/-- The instructions of page 7 by op6 and variant bits (R46 to R48). -/
def page7 (op x : Nat) : Option (Ops → Instr) :=
  match op with
  | 0x00 => match x with
    | 0x00 => some (.spawn)
    | _ => none
  | 0x01 => match x with
    | 0x00 => some (.ten)
    | _ => none
  | 0x02 => match x with
    | 0x00 => some (.tdis)
    | _ => none
  | 0x03 => match x with
    | 0x00 => some (.tpnd)
    | _ => none
  | 0x04 => match x with
    | 0x00 => some (.actdef)
    | _ => none
  | 0x05 => match x with
    | 0x00 => some (.actctlEna)
    | 0x01 => some (.actctlDis)
    | 0x02 => some (.actctlPri)
    | 0x03 => some (.actctlStat)
    | 0x04 => some (.actctlFlush)
    | 0x05 => some (.actctlSpri)
    | _ => none
  | 0x06 => match x with
    | 0x00 => some (.nbw)
    | _ => none
  | 0x07 => match x with
    | 0x00 => some (.nbarm)
    | _ => none
  | 0x08 => match x with
    | 0x00 => some (.phreg)
    | _ => none
  | 0x09 => match x with
    | 0x00 => some (.phdrop)
    | _ => none
  | 0x0A => match x with
    | 0x00 => some (.phsig)
    | _ => none
  | 0x0B => match x with
    | 0x00 => some (.phwait)
    | _ => none
  | 0x0C => match x with
    | 0x00 => some (.phadv)
    | _ => none
  | 0x0D => match x with
    | 0x00 => some (.waittRead)
    | 0x01 => some (.waittArm)
    | _ => none
  | 0x0E => match x with
    | 0x00 => some (.lqput)
    | _ => none
  | 0x0F => match x with
    | 0x00 => some (.cancel)
    | _ => none
  | _ => none

/-- The instruction that a page, op6 and variant bits select (R45 to R48). -/
def build (pg op x : Nat) : Option (Ops → Instr) :=
  match pg with
  | 0 => page0 op x
  | 1 => page1 op x
  | 2 => page2 op x
  | 3 => page3 op x
  | 4 => page4 op x
  | 5 => page5 op x
  | 6 => page6 op x
  | 7 => page7 op x
  | _ => none

/-- Whether a base halfword has a prefix op6 (R31). -/
def isPrefix (h : Half) : Bool := decide (0x3C ≤ fld h 15 10)

/-- The halfwords of one instruction out of a sequence of halfwords (R24, R37): up to the first base word, and no more than five;
none when the sequence ends before. -/
def chainOf : Nat → List Half → Option (List Half)
  | 0, _ => some []
  | _ + 1, [] => none
  | k + 1, h :: t => if isPrefix h then (chainOf k t).map (h :: ·) else some [h]

/-- The prefixes of a legal chain (R36), its immediate words from the earliest on, and its base word. -/
structure Parsed where
  page : Option Half := none
  reg : Option Half := none
  md : Option Half := none
  imms : List Half := []
  base : Half := 0
  deriving DecidableEq, Repr, Inhabited

/-- What the decoder answers (R37): an instruction and its length in halfwords; or a trap with its TVAL (R38) and the
length that TSAV.ILEN takes (R74); or that the sequence of halfwords ends inside the chain. -/
inductive Dec | ok (i : Instr) (len : Nat) | trap (c : Cause) (tval : Word) (ilen : Nat) | short
  deriving DecidableEq, Repr, Inhabited

/-- TVAL of ILL and PFX (R38): the offending halfword and the count up to it. -/
def offend (h : Half) (n : Nat) : Word := BitVec.ofNat 64 (h.toNat + n * 2 ^ 16)

/-- Step 2 of R37: reads the prefixes in order; `k` is the position and `st` the rank of the last prefix (R36: PX.PAGE 1,
PX.REG 2, PX.MOD 3, PX.IMM 4). The first offending halfword decides. -/
def parse (st k : Nat) (p : Parsed) : List Half → Except (Half × Nat) Parsed
  | [] => .ok p
  | h :: t =>
    match fld h 15 10 with
    | 0x3E => if 4 ≤ k ∨ 1 ≤ st ∨ fld h 2 0 = 0 then .error (h, k + 1) else parse 1 (k + 1) { p with page := some h } t
    | 0x3D => if 4 ≤ k ∨ 2 ≤ st then .error (h, k + 1) else parse 2 (k + 1) { p with reg := some h } t
    | 0x3F => if 4 ≤ k ∨ 3 ≤ st then .error (h, k + 1) else parse 3 (k + 1) { p with md := some h } t
    | 0x3C => if 4 ≤ k then .error (h, k + 1) else parse 4 (k + 1) { p with imms := p.imms ++ [h] } t
    | _ => .ok { p with base := h }

/-- PX.REG.c (R32). DESIGN CHOICE (log 81): without PX.REG it is 0 for every form that names data in c, FVST.IX among them, which then stores g0;
R121 and R275 say so for VSCT and the copies, R159 says nothing. -/
def regC (p : Parsed) : RegNo := match p.reg with | some h => BitVec.ofNat 6 (fld h 9 4) | none => 0
/-- PX.REG.AH. -/
def regAH (p : Parsed) : Nat := match p.reg with | some h => fld h 3 3 | none => 0
/-- PX.REG.BH. -/
def regBH (p : Parsed) : Nat := match p.reg with | some h => fld h 2 2 | none => 0
/-- PX.REG.L. -/
def regL (p : Parsed) : Nat := match p.reg with | some h => fld h 1 0 | none => 0
/-- a6 = AH ‖ a (R32). -/
def rawA (p : Parsed) : RegNo := BitVec.ofNat 6 (regAH p * 32 + fld p.base 9 5)
/-- b6 = BH ‖ b (R32). -/
def rawB (p : Parsed) : RegNo := BitVec.ofNat 6 (regBH p * 32 + fld p.base 4 0)
/-- A PX.MOD field; absent reads as zero (R34). -/
def modF (p : Parsed) (hi lo : Nat) : Nat := match p.md with | some h => fld h hi lo | none => 0

/-- A role that names a general register. -/
def Role.gen : Role → Bool | .no | .z0 | .mk => false | _ => true
/-- The role reads a general register, so that its field's empty policy applies (R35). -/
def Role.reads : Role → Bool | .no | .z0 | .mk | .w8 => false | _ => true

/-- Whether the base field a is in use: it names a source, or the destination when there is no PX.REG (R40). -/
def usesA (f : Form) (p : Parsed) : Bool := f.a != .no || (f.d != .no && p.reg.isNone)
/-- The role that the field a plays. -/
def roleA (f : Form) (p : Parsed) : Role := if f.a != .no then f.a else if p.reg.isNone then f.d else .no

/-- Step 3 of R37 once the instruction is known: no unused base field is set (R30), and a mask field has [4:3] zero. -/
def baseOk (f : Form) (p : Parsed) : Bool :=
  match f.fmt with
  | .z | .j => true
  | _ =>
    (usesA f p || fld p.base 9 5 == 0) && (roleA f p != .mk || fld p.base 9 8 == 0) &&
    (f.a != .z0 || fld p.base 9 5 == 0) &&
    (f.fmt == .i || ((f.b != .no || fld p.base 4 0 == 0) && (f.b != .mk || fld p.base 4 3 == 0)))

/-- Step 4 for PX.REG: some field is used, and the fields that are not used are zero (R35, R40). MANY and MALL take only PX.IMM (R66). -/
def regOk (f : Form) (p : Parsed) : Bool :=
  (f.d != .no || f.a != .no || f.b != .no || f.c != .no) && f.fmt != .z && !(f.fmt == .i && f.a == .mk) &&
  ((f.d != .no || f.c != .no) || regC p == 0) && ((f.d != .mk && f.c != .mk) || decide ((regC p).toNat < 8)) &&
  (f.a.gen || regAH p == 0) && (f.b.gen || regBH p == 0) &&
  ((f.d == .var || f.a == .var || f.b == .var || f.c == .var) || regL p == 0)

/-- Step 4 for PX.MOD (R34, R35). -/
def modOk (f : Form) (p : Parsed) : Bool :=
  (f.a.reads || f.b.reads || f.msk || f.scp || f.near || f.of) &&
  (f.msk || modF p 9 7 == 0) && (f.a.reads || modF p 6 6 == 0) && (f.b.reads || modF p 5 5 == 0) &&
  (f.a.reads || f.b.reads || modF p 4 4 == 0) && (f.scp || modF p 3 2 == 0) && (f.near || modF p 1 1 == 0) &&
  (f.of || modF p 0 0 == 0)

/-- A prefix field that holds a value the instruction does not accept: OF on an atomic outside scope SYS (R266), and the
scope of FNC.INV (R273). -/
def valueOk (i : Instr) (p : Parsed) : Bool :=
  match i with
  | .amo .. => modF p 0 0 == 0 || modF p 3 2 == 3
  | .fncInv _ => decide (2 ≤ modF p 3 2)
  | _ => true

/-- The first halfword, with its count, that fails step 4 of R37, from the earliest on; for a field of an absent prefix the
base word (R38). -/
def stepFour (i : Instr) (f : Form) (p : Parsed) : Option (Half × Nat) :=
  let nPage := if p.page.isSome then 1 else 0
  let nReg := nPage + if p.reg.isSome then 1 else 0
  let nMod := nReg + if p.md.isSome then 1 else 0
  match (match p.reg with | some h => if regOk f p then none else some (h, nReg) | none => none) with
  | some x => some x
  | none =>
    match (match p.md with | some h => if modOk f p && valueOk i p then none else some (h, nMod) | none => none) with
    | some x => some x
    | none =>
      match p.imms with
      | h :: _ => if f.imm == .no then some (h, nMod + 1)
                  else if p.md.isNone && !valueOk i p then some (p.base, nMod + p.imms.length + 1) else none
      | [] => if p.md.isNone && !valueOk i p then some (p.base, nMod + 1) else none

/-- The number of registers of a window (R41). -/
def Role.len (r : Role) (l : Nat) : Nat :=
  match r with | .g2 => 2 | .g4 => 4 | .w8 => 8 | .var => 2 ^ l | _ => 1

/-- The registers in the order c, a, b with their roles, for the alignment check of step 5. -/
def windows (f : Form) (p : Parsed) : List (RegNo × Role) :=
  (if p.reg.isSome then [(regC p, if f.d != .no then f.d else f.c)] else []) ++
  [(rawA p, if p.reg.isNone && f.d != .no then f.d else .no), (rawA p, f.a), (rawB p, f.b)]

/-- Step 5 of R37 and R38: WIN for an illegal length class, then for the first misaligned window. -/
def stepFive (pg op : Nat) (f : Form) (p : Parsed) : Option Word :=
  let l := regL p
  let vf := pg == 3 && decide (op ≤ 0x0D)
  if l == 3 || (l == 2 && vf) then some 0x3F
  else
    match (windows f p).find? (fun w => w.1.toNat % w.2.len l != 0) with
    | some w => some (BitVec.ofNat 64 w.1.toNat)
    | none => none

/-- The immediate of R39: the payloads and the base field, extended to 64 bits. -/
def immVal (f : Form) (p : Parsed) : Word :=
  let hiPart := p.imms.foldl (fun acc h => acc * 2 ^ 10 + fld h 9 0) 0
  let k := 10 * p.imms.length
  let (v, w) := match f.fmt with
    | .i => (hiPart * 2 ^ 5 + fld p.base 4 0, k + 5)
    | .j => (hiPart * 2 ^ 10 + fld p.base 9 0, k + 10)
    | _ => (hiPart, k)
  match f.imm with
  | .no => 0
  | .u => BitVec.ofNat 64 v
  | .s => BitVec.ofInt 64 (sxNat w v)

/-- The scope codes of R34. -/
def scopeOf : Nat → Scope | 0 => .core | 1 => .clu | 2 => .dev | _ => .sys
/-- The code of a scope (R34). -/
def scopeCode : Scope → Nat | .core => 0 | .clu => 1 | .dev => 2 | .sys => 3

/-- The operands of a chain that passed steps 2 to 5 (R32, R34, R39, R40). -/
def operands (f : Form) (p : Parsed) : Ops where
  d := if f.d == .no then 0 else if p.reg.isSome then regC p else rawA p
  a := if f.a == .no then 0 else rawA p
  b := if f.b == .no then 0 else rawB p
  c := if f.c == .no then 0 else regC p
  l := BitVec.ofNat 2 (regL p)
  imm := immVal f p
  msk := BitVec.ofNat 3 (modF p 9 7)
  epa := modF p 6 6 == 1
  epb := modF p 5 5 == 1
  ru := modF p 4 4 == 1
  scp := scopeOf (modF p 3 2)
  near := modF p 1 1 == 1
  of := modF p 0 0 == 1

/-- Decoding of one chain by the steps 2 to 5 of R37. -/
def decodeChain (hs : List Half) : Dec :=
  match parse 0 0 {} hs with
  | .error (h, n) => .trap .pfx (offend h n) n
  | .ok p =>
    let n := hs.length
    let pg := match p.page with | some h => fld h 2 0 | none => 0
    let op := fld p.base 15 10
    let x := if pg = 0 ∧ op = 0 then fld p.base 9 0 else match p.page with | some h => fld h 9 3 | none => 0
    match build pg op x with
    | none => .trap .ill (offend p.base n) n
    | some mk =>
      let i := mk {}
      let f := formOf i
      if !baseOk f p then .trap .ill (offend p.base n) n
      else
        match stepFour i f p with
        | some (h, k) => .trap .pfx (offend h k) k
        | none =>
          match stepFive pg op f p with
          | some v => .trap .win v n
          | none => .ok (mk (operands f p)) n

/-- Decoding of a sequence of halfwords: the chain at its start. -/
def decode (hs : List Half) : Dec :=
  match chainOf 5 hs with
  | none => .short
  | some c => decodeChain c

/-- Halfwords of program text from its bytes (R24: little-endian). -/
def halves : List Byte → List Half
  | a :: b :: t => (b ++ a) :: halves t
  | _ => []

/-- Decoding of bytes of program text. -/
def decodeBytes (bs : List Byte) : Dec := decode (halves bs)

/-! ## The encoder (R44) -/

/-- Number of PX.IMM words that represent an immediate, smallest first, out of those allowed; none when four do not. -/
def immCount (f : Form) (v : Word) : Nat → Option Nat
  | 0 => none
  | k + 1 =>
    let n := 4 - k
    let w := (match f.fmt with | .i => 5 | .j => 10 | _ => 0) + 10 * n
    let fits := match f.imm with
      | .no => true
      | .u => decide (v.toNat < 2 ^ w)
      | .s => v == BitVec.ofInt 64 (sxNat w (v.toNat % 2 ^ w))
    if fits then some n else immCount f v k

/-- The payloads of n PX.IMM words, earliest first, of a value. -/
def immWords : Nat → Nat → List Half
  | 0, _ => []
  | n + 1, v => immWords n (v / 2 ^ 10) ++ [BitVec.ofNat 16 (0xF000 + v % 2 ^ 10)]

/-- Whether a chain must hold a PX.REG for its operands (R32, R40, R44). -/
def mustReg (f : Form) (o : Ops) : Bool :=
  decide (32 ≤ o.a.toNat) || decide (32 ≤ o.b.toNat) || decide (32 ≤ o.d.toNat) || o.c != 0 || o.l != 0 ||
  (f.d != .no && f.a != .no && o.d != o.a)

/-- The PX.MOD payload of the operands (R34). -/
def modWord (o : Ops) : Nat :=
  o.msk.toNat * 128 + o.epa.toNat * 64 + o.epb.toNat * 32 + o.ru.toNat * 16 + scopeCode o.scp * 4 + o.near.toNat * 2 + o.of.toNat

/-- The number of prefixes beside PX.REG of a chain on page pg with k PX.IMM words. -/
def otherPrefixes (pg : Nat) (o : Ops) (k : Nat) : Nat := (if pg = 0 then 0 else 1) + (if modWord o = 0 then 0 else 1) + k

/-- Whether the chain holds a PX.REG: where the operands need it, and where the chapter says that nxas always emits it (R44), as far as
the chain has room for it (R36). -/
def needsReg (pg : Nat) (f : Form) (o : Ops) (k : Nat) : Bool := mustReg f o || (f.always && decide (otherPrefixes pg o k < 4))

/-- The fields a, b and c of a chain (R40): the destination stands in a when there is no PX.REG. -/
def fieldC (f : Form) (o : Ops) : Nat := if f.d != .no then o.d.toNat else o.c.toNat
/-- The register number that the field a and AH spell. -/
def fieldA (f : Form) (o : Ops) (reg : Bool) : Nat :=
  if f.a != .no then o.a.toNat else if f.d != .no && !reg then o.d.toNat else 0

/-- The words of an instruction: the shortest legal chain (R44); none for an event, a variant the instruction does not have,
an immediate that does not fit, or a chain of more than four prefixes (R36). -/
def encode (i : Instr) : Option (List Half) :=
  match codeOf i with
  | none => none
  | some (pg, op, x) =>
    let f := formOf i
    let o := opsOf i
    match immCount f o.imm 5 with
    | none => none
    | some k =>
      let reg := needsReg pg f o k
      let v := o.imm.toNat
      let immHigh := match f.fmt with | .i => v / 2 ^ 5 | .j => v / 2 ^ 10 | _ => v
      let base := match f.fmt with
        | .z => x
        | .j => op * 1024 + v % 2 ^ 10
        | .i => op * 1024 + fieldA f o reg % 32 * 32 + v % 2 ^ 5
        | .a => op * 1024 + fieldA f o reg % 32 * 32 + o.b.toNat % 32
      if 4 < otherPrefixes pg o k + reg.toNat then none
      else some ((if pg = 0 then [] else [BitVec.ofNat 16 (0xF800 + x * 8 + pg)]) ++
        (if reg then
          [BitVec.ofNat 16 (0xF400 + fieldC f o * 16 + fieldA f o reg / 32 * 8 + o.b.toNat / 32 * 4 + o.l.toNat)] else []) ++
        (if modWord o = 0 then [] else [BitVec.ofNat 16 (0xFC00 + modWord o)]) ++
        immWords k immHigh ++ [BitVec.ofNat 16 base])

/-- The instruction the decoder reads from a word numbered as spec/opcode_table.json numbers it: the table writes an
instruction with a PX.PAGE as one 32-bit word with the PX.PAGE halfword in bits [31:16] and the base word in bits [15:0],
so the first halfword in program order is the one in the highest bits (log 7). -/
def tableHalves (nbits w : Nat) : List Half :=
  if nbits = 16 then [BitVec.ofNat 16 w]
  else if nbits = 32 then [BitVec.ofNat 16 (w / 2 ^ 16), BitVec.ofNat 16 w]
  else []

/-- See `tableHalves`; the halfwords after the word are zero. -/
def decodeTableWord (nbits w : Nat) : Option Instr :=
  match tableHalves nbits w with
  | [] => none
  | hs => match decode (hs ++ [0, 0, 0, 0, 0]) with
    | .ok i _ => some i
    | _ => none

end Sys2Proof
end

