-- ==== Sys2Proof/Machine/Fetch.lean ====
section
/-! DEFINITION. Fetch.lean: fetching and decoding an instruction (R24 to R27, R37, R42), for a context and for an engine
program. -/

namespace Sys2Proof.Machine

/-- What fetching a halfword gives: it, a wait for a moving page (R287), or the cause of the fetch's trap. -/
inductive Fetched | half (h : Half) | wait | fail (c : Cause)
  deriving DecidableEq, Repr, Inhabited

/-- Where a CODE address stood when a launch was dispatched (R27, R286): its page may have been moved since. `loc`, where it stands now, when
it was not mapped to package memory then. -/
def LaunchText.place (t : LaunchText) (s : State) (va : Word) (loc : Nat) : Nat :=
  match t.root.bind (walk { s with mem := t.mem } va 4 0) with
  | some (_, leaf) => if fld leaf 11 10 = 0 then leafPhys leaf va else loc
  | none => loc

/-- A byte of program text of launch `lid` at a CODE address that now stands at `loc` (R27): as it stood at the launch's dispatch, without what
launches not complete then had stored, or, when `new` says so, as the launch itself has since stored it, where the byte stands now or under its
address. -/
def State.textByte (s : State) (lid : Word) (new : Bool) (va : Word) (loc : Nat) : Byte :=
  match s.texts.find? (fun t => t.lid == lid) with
  | none => Memory.read s.mem loc
  | some t =>
    let was := t.place s va loc
    let old := ((t.held.find? (·.1 == was)).map (·.2)).getD (Memory.read t.mem was)
    let own := ((t.own.find? (fun e => e.1 == loc && e.2.2)).map (·.2.1)).or ((t.ownVa.find? (·.1 == va.toNat)).map (·.2))
    if new then own.getD old else old

/-- A halfword of program text as launch `lid` fetches it (R27): the old one, or the one that the launch itself has stored there, as it happens
(log 2). -/
def State.textHalf (s : State) (lid : Word) (va : Word) (loc : Nat) : Half :=
  let new := Config.freeBit (s.turns * 2 ^ 42 + loc)
  s.textByte lid new (va + 1) (loc + 1) ++ s.textByte lid new va loc

/-- Fetches one halfword for context g (R26, R259, R260). -/
def State.fetchHalf (s : State) (g : Nat) (a : PcAddr) : Fetched × State :=
  let c := s.ctxAt g
  match translate s (g / 1024) c.pid.toNat (a.setWidth 64) [lEX] with
  | (none, t) => (.fail .xlat, t)
  | (some (_, .moving), t) => (.wait, t)
  | (some (_, .home phys), t) =>
    if (t.poisonedAt phys 2).isSome then (.fail .pois, t)
    else (.half (t.textHalf c.lid (a.setWidth 64) phys), t)
  | (some _, t) => (.fail .xlat, t)

/-- What fetching and decoding an instruction gives. -/
inductive FetchDec | instr (i : Instr) (len : Nat) | wait | trap (c : Cause) (v : Word) (ilen : Nat)
  deriving DecidableEq, Repr, Inhabited

/-- Fetches the chain at an address, as far as it is needed: up to the first base word, and no more than five halfwords; `hs` are
the halfwords already read, latest first. -/
def State.fetchChain (g : Nat) (a : PcAddr) : Nat → List Half → State → Except FetchDec (List Half) × State
  | 0, hs, s => (.ok hs.reverse, s)
  | k + 1, hs, s =>
    let at_ := a + BitVec.ofNat 56 (2 * hs.length)
    match s.fetchHalf g at_ with
    | (.half h, t) => if isPrefix h then State.fetchChain g a k (h :: hs) t else (.ok (h :: hs).reverse, t)
    | (.wait, t) => (.error .wait, t)
    | (.fail c, t) => (.error (.trap c (at_.setWidth 64) (hs.length + 1)), t)

/-- Fetches and decodes the instruction of context g at an address (R26, R37). -/
def State.fetch (s : State) (g : Nat) (a : PcAddr) : FetchDec × State :=
  match State.fetchChain g a 5 [] s with
  | (.error e, t) => (e, t)
  | (.ok hs, t) =>
    match decodeChain hs with
    | .ok i n => (.instr i n, t)
    | .trap c v n => (.trap c v n, t)
    | .short => (.wait, t)

end Sys2Proof.Machine
end

