-- ==== Sys2Proof/Machine/EngineEvents.lean ====
section
/-! DEFINITION. EngineEvents.lean: what the matrix engine does with its queued operations (R186 to R188, R191, R194, R197 to R201,
R206, R208) and engine programs (R203 to R205). -/

namespace Sys2Proof.Machine

/-! ## Operands of a running operation -/

/-- The use of each descriptor of an operation, in order. -/
def EKind.uses : EKind → List TUse
  | .mzero _ | .mdrnR .. => []
  | .mma => [.mul, .mul]
  | .mmas .. => [.packed, .mul]
  | .mdrn _ => [.drain]
  | .mlda _ => [.load]
  | .cmpr .. => [.prune, .pruned]
  | .mxpd .. => [.expand, .expanded]

/-- The tile of descriptor i. -/
def EOp.tile (op : EOp) (i : Nat) : Tile := tileOf (op.dregs.getD i 0) (op.descs.getD i 0)
/-- Its sampled bank formats. -/
def EOp.fmts (op : EOp) (i : Nat) : List Word := op.bf.getD i []
/-- The element format of its row r (R183). -/
def EOp.eltAt (op : EOp) (i r : Nat) : EFmt := (op.tile i).eltAt (op.fmts i) r
/-- Planes that the operation reads of it. -/
def EOp.np (op : EOp) (i : Nat) : Nat := if (op.kind.uses.getD i .mul).whole then 8 else (op.tile i).planes
/-- The staged bytes of a row of a PEER operand (R191). -/
def EOp.staged (op : EOp) (i r : Nat) : Option (List Byte) := (op.rows.find? (fun e => e.1 == i && e.2.1 == r)).map (·.2.2)
/-- The bytes of a row. -/
def EOp.row_ (op : EOp) (s : State) (i r : Nat) : List Byte :=
  (op.tile i).rowBytes s op.cid (op.eltAt i r) (op.np i) ((op.staged i r).getD []) r

/-- The value of element k of row r of operand i, scale applied (R131, R187). -/
def EOp.value (op : EOp) (s : State) (i r k : Nat) : Num :=
  let t := op.tile i
  let e := op.eltAt i r
  e.value (elemBits e t.kx (op.row_ s i r) k) (t.scale s op.cid (op.fmts i) e ((op.staged i r).getD []) r k)

/-- The fault that reading that element finds (R206); the FP32 operands of every operation are looked at for the ABN class
(R134). -/
def EOp.fault (op : EOp) (s : State) (i r k : Nat) : Option RFault :=
  (op.tile i).elemFault s op.cid (op.fmts i) (op.eltAt i r) (op.np i) true (op.row_ s i r) r k

/-- The shape of a sparse operation. -/
def EKind.shape : EKind → Option (Shape × Bool)
  | .mmas sh u | .cmpr sh u | .mxpd sh u => some (sh, u)
  | _ => none

/-- The entries of its metadata (R195). -/
def EOp.entries (op : EOp) : List (List Nat) :=
  match op.kind.shape with | some (sh, _) => metaEntries sh op.metaBits op.metaLen | none => []

/-- The compressed element that stands for dense element k of row r, for a dense K (R194); none when it is pruned. -/
def EOp.kept (op : EOp) (es : List (List Nat)) (kDense r k : Nat) : Option Nat := keptAt op.kind.shape es kDense r k

/-! ## MMA and MMAS (R187, R188) -/

/-- K of a multiplication, and the number of elements that are not masked by VK. -/
def EOp.kDense (op : EOp) : Nat := (op.tile 1).kx
def EOp.kValid (op : EOp) : Nat :=
  match op.kind with | .mma => min (op.tile 0).vk (op.tile 1).vk | _ => (op.tile 1).vk
/-- Chunk width for row i of A and row j of B (R185). -/
def EOp.width (op : EOp) (i j : Nat) : Nat := match pairOf (op.eltAt 0 i) (op.eltAt 1 j) with | some (_, w) => w | none => 8

/-- The unmasked elements of row i of A that take part for row j of B in step c: dense k and A's element. A step covers eight elements of K; a
chunk of 24 is added in the step in which it begins. -/
def EOp.chunkRow (op : EOp) (es : List (List Nat)) (c i w : Nat) : List (Nat × Nat) :=
  if 8 * c % w ≠ 0 then []
  else (List.range w).filterMap (fun j =>
    let k := 8 * c + j
    if k < op.kValid then (op.kept es op.kDense i k).map (fun a => (k, a)) else none)

/-- The chunk widths that row i of A takes part in, and those of row j of B. -/
def EOp.widthsA (op : EOp) (i : Nat) : List Nat := ((List.range (op.tile 1).rows).map (op.width i)).eraseDups
def EOp.widthsB (op : EOp) (j : Nat) : List Nat := ((List.range (op.tile 0).rows).map (fun i => op.width i j)).eraseDups

/-- The first fault of a step: the elements of A by row, then those of B that take part. -/
def EOp.chunkFault (op : EOp) (s : State) (es : List (List Nat)) (c : Nat) : Option RFault :=
  let rows := List.range (op.tile 0).rows
  let fa := rows.findSome? (fun i => (op.widthsA i).findSome? (fun w =>
    (op.chunkRow es c i w).findSome? (fun e => op.fault s 0 i e.2)))
  match fa with
  | some f => some f
  | none =>
    let ks (w : Nat) : List Nat := (rows.flatMap (fun i => (op.chunkRow es c i w).map (·.1))).foldl (fun l k => insertNat k l) []
    (List.range (op.tile 1).rows).findSome? (fun j => (op.widthsB j).findSome? (fun w => (ks w).findSome? (fun k => op.fault s 1 j k)))

/-- The exact sum of products of one chunk (R187): none when every element is masked. -/
def EOp.dot (op : EOp) (s : State) (i j : Nat) (ks : List (Nat × Nat)) : Option (Num × Flags) :=
  ks.foldl (fun (x : Option (Num × Flags)) e =>
    let (p, f) := Num.mul (op.value s 0 i e.2) (op.value s 1 j e.1)
    some (match x with
      | none => (p, f)
      | some (y, g) => let (z, h) := Num.add 0 y p; (z, f ||| g ||| h))) none

/-- An exact value as an integer. -/
def numInt (x : Num) : Int := (toInteger 1 (-(2 ^ 64)) (2 ^ 64) x).1

/-- Adds a chunk sum to an accumulator (R187). -/
def addChunk (int : Bool) (c : BitVec 32) (x : Num × Flags) : BitVec 32 × Flags :=
  if int then (c + BitVec.ofInt 32 (numInt x.1), 0)
  else
    let (v, f) := Num.add 0 (f32Val c) x.1
    let (r, g) := toF32 0 (v, f)
    (r, g ||| x.2)

/-- A chunk sum for element n of a set; the checksums take the same sum, computed separately, for what was written there (R208). -/
def AccSet.addAt (a : AccSet) (n : Nat) (x : Num × Flags) : AccSet × Flags :=
  let (v, f) := addChunk a.int (a.elems.get 0 n) x
  ({ a with
      elems := a.elems.put n v
      upset := match a.upset.find n with | some u => a.upset.put n (addChunk a.int u x).1 | none => a.upset }, f)

/-- One step for every element of the set. -/
def EOp.applyChunk (op : EOp) (s : State) (es : List (List Nat)) (c : Nat) (a : AccSet × Flags) : AccSet × Flags :=
  (List.range (op.tile 0).rows).foldl (fun a i => (List.range (op.tile 1).rows).foldl (fun a j =>
    match op.dot s i j (op.chunkRow es c i (op.width i j)) with
    | none => a
    | some x => let (b, f) := a.1.addAt (i * 32 + j) x; (b, a.2 ||| f)) a) a

/-- The chunks from the next one on, as far as no fault stops them: the set, the flags, the next chunk, and the fault. -/
def EOp.chunks (op : EOp) (s : State) (es : List (List Nat)) : Nat → Nat → AccSet × Flags → (AccSet × Flags) × Nat × Option RFault
  | 0, c, a => (a, c, none)
  | n + 1, c, a =>
    match op.chunkFault s es c with
    | some f => (a, c, some f)
    | none => op.chunks s es n (c + 1) (op.applyChunk s es c a)

/-! ## The other operations -/

/-- Writes the bytes of a row of a destination (R179: a store over a part of a poisoned word writes nothing). -/
def engWrite (lid : Word) (home off : Nat) (bs : List Byte) (s : State) : Except RFault State :=
  match ((s.coreAt home).poolAt off bs.length).map (fun o => (Cause.perm, o)) |>.orElse
      (fun _ => (s.partPoison (spad home off) bs.length).map (fun l => (Cause.pois, l - spad home 0))) with
  | some (c, o) => .error ⟨c, cluAddr home o⟩
  | none => .ok ((s.unpoison (spad home off) bs.length).store lid (spad home off) bs)

/-- Writes several rows; nothing is written if one of them cannot be. -/
def engWrites (lid : Word) (home : Nat) (ws : List (Nat × List Byte)) (s : State) : Except RFault State :=
  ws.foldl (fun (r : Except RFault State) w => match r with | .ok s => engWrite lid home w.1 w.2 s | e => e) (.ok s)

/-- Row r of plane 7 − p of a BP8 tile from the element bits of the row (R126): padding bits are zero. -/
def planeRow (t : Tile) (row : List Nat) (p r : Nat) : Nat × List Byte :=
  (t.off + p * t.rows * t.rs + r * t.rs, (List.range ((t.kx + 7) / 8)).map (fun b =>
    BitVec.ofNat 8 ((List.range 8).foldl (fun x i => x + (row.getD (8 * b + i) 0) / 2 ^ (7 - p) % 2 * 2 ^ i) 0)))

/-- The rows of a tile from element bits by row, each in the format of its bank: the bytes at its start with the elements replaced. -/
def tileRows (t : Tile) (s : State) (home : Nat) (bf : List Word) (vals : List (List Nat)) : List (Nat × List Byte) :=
  (List.range 8).flatMap (fun p => (List.range t.rows).filterMap (fun r =>
    let row := vals.getD r []
    match t.eltAt bf r with
    | .bp8 => some (planeRow t row p r)
    | e =>
      if p ≠ 0 then none
      else
        let start := t.off + r * t.rs
        let old := s.bytesAt (spad home start) ((row.length * e.bits + 7) / 8)
        some (start, ((List.range row.length).zip row).foldl (fun bs x => setElem e bs x.1 x.2) old)))

/-- The value of an accumulator. -/
def AccSet.num (a : AccSet) (i j : Nat) : Num :=
  let x := a.elems.get 0 (i * 32 + j)
  if a.int then Num.ofInt x.toInt else f32Val x

/-- One row of a drain (R132, R133, R198): the element bits, the scales by block, and the flags. -/
def drainRow (a : AccSet) (t : Tile) (e : EFmt) (i : Nat) : List Nat × List Nat × Flags :=
  let vs := (List.range t.kx).map (a.num i)
  match e with
  | .blk f =>
    let blocks := (List.range ((t.kx + 23) / 24)).map (fun b => quantBlock f true ((vs.drop (24 * b)).take 24))
    (blocks.flatMap (fun b => b.2.1 ++ List.replicate (24 - b.2.1.length) 0), blocks.map (·.1), blocks.foldl (fun g b => g ||| b.2.2) 0)
  | _ =>
    let rs := vs.map (fun v =>
      let r := e.encode v 127
      match e with | .flt f => if f.width = 8 then flushSub f r else r | _ => r)
    (rs.map (·.1), [], rs.foldl (fun g r => g ||| r.2) 0)

/-- A drain of a set into a tile (R198): the writes and the flags. -/
def drainWrites (a : AccSet) (t : Tile) (s : State) (home : Nat) (bf : List Word) : List (Nat × List Byte) × Flags :=
  let rows := (List.range t.rows).map (fun r => drainRow a t (t.eltAt bf r) r)
  let scales := (List.range t.rows).flatMap (fun r =>
    let sc := (rows.getD r ([], [], 0)).2.1
    (List.range sc.length).map (fun b => (t.scaleOff bf r (t.blockOf (t.eltAt bf r) r (24 * b)), [BitVec.ofNat 8 (sc.getD b 0)])))
  (tileRows t s home bf (rows.map (·.1)) ++ scales, rows.foldl (fun g r => g ||| r.2.2) 0)

/-- The first fault of a whole tile. -/
def EOp.tileFault (op : EOp) (s : State) (i : Nat) : Option RFault :=
  (List.range (op.tile i).rows).findSome? (fun r => (List.range (op.tile i).kx).findSome? (fun k => op.fault s i r k))

/-- The bits of element k of row r of operand i. -/
def EOp.bitsAt (op : EOp) (s : State) (i r k : Nat) : Nat := elemBits (op.eltAt i r) (op.tile i).kx (op.row_ s i r) k

/-- The L1 norm of a column of a row group (R200): a NaN gives +∞. DESIGN CHOICE (log 73): VK of the dense source plays no part, neither here nor
in what is kept. -/
def EOp.norm (op : EOp) (s : State) (u g k : Nat) : Num :=
  (List.range u).foldl (fun x r =>
    match op.value s 0 (g * u + r) k with
    | .nan _ | .inf _ => .inf false
    | .zero _ => x
    | .fin _ a b e => (Num.add 0 x (.fin false a b e)).1) (.zero false)

/-- The columns kept of a k-group (R200): the largest norms, the lower index on a tie, in ascending order. -/
def EOp.keepCols (op : EOp) (s : State) (sh : Shape) (u g h : Nat) : List Nat :=
  let gw := shapeGroup sh
  let norm (t : Nat) : Num := op.norm s u g (h * gw + t)
  let ahead (t x : Nat) : Bool := let c := (norm x).cmp (norm t); decide (0 < c) || (c == 0 && decide (x < t))
  (List.range gw).filter (fun t => decide (((List.range gw).filter (ahead t)).length < shapeKeep sh))

/-- The columns that CMPR keeps, by row group and k-group (R200). -/
def EOp.keptCols (op : EOp) (s : State) (sh : Shape) (u8 : Bool) : List (List (List Nat)) :=
  (List.range ((op.tile 0).rows / rowGroup u8)).map (fun g =>
    (List.range ((op.tile 0).kx / shapeGroup sh)).map (fun h => op.keepCols s sh (rowGroup u8) g h))

/-- The element bits that CMPR stores, by row: those of the kept columns, in order (R200). -/
def EOp.pruned (op : EOp) (s : State) (sh : Shape) (u8 : Bool) : List (List Nat) :=
  (List.range (op.tile 0).rows).map (fun r =>
    ((List.range ((op.tile 0).kx / shapeGroup sh)).zip ((op.keptCols s sh u8).getD (r / rowGroup u8) [])).flatMap (fun e =>
      e.2.map (fun c => op.bitsAt s 0 r (e.1 * shapeGroup sh + c))))

/-- The index set that CMPR writes (R195, R200): the entries one after the other from bit 0, each with its indices from its low bits up. -/
def EOp.indexSet (op : EOp) (s : State) (sh : Shape) (u8 : Bool) : Nat :=
  (op.keptCols s sh u8).flatten.foldr (fun e x =>
    (e.foldr (fun i y => i + y * 2 ^ shapeIw sh) 0) + x * 2 ^ (shapeKeep sh * shapeIw sh)) 0

/-- The element bits that MXPD stores, by row: zero where the dense element is pruned (R201). -/
def EOp.dense (op : EOp) (s : State) : List (List Nat) :=
  (List.range (op.tile 1).rows).map (fun r => (List.range (op.tile 1).kx).map (fun k =>
    match op.kept op.entries (op.tile 1).kx r k with | some a => op.bitsAt s 0 r a | none => 0))

/-- The sixteen elements that MDRN.R reads: half sel / 32 of row sel % 32 (R198). -/
def AccSet.half (a : AccSet) (sel : Nat) : List (BitVec 32) :=
  (List.range 16).map (fun l => a.elems.get 0 (sel % 32 * 32 + 16 * (sel / 32) + l))

/-- The firing that issued an operation is still the one its context holds. -/
def EOp.lives (op : EOp) (s : State) : Bool := (s.ctxAt op.g).fire == op.fire

/-- Writes the registers an operation has leased: their lease ends (R198, R200); a register whose lease has ended before stays (R206). -/
def putLeased (s : State) (op : EOp) (vs : List Quad) : State :=
  if op.lives s then s.updCtx op.g (fun c => (op.leased.zip vs).foldl (fun c e => if (c.regAt e.1).pres = .leased then c.setRegAt e.1 { bits := e.2 } else c) c) else s

/-- What an operation does when it runs (R197 to R201): the state after it, and the operation finished or suspended. A drain
whose checksums do not match does nothing here. -/
def runOp (s : State) (op : EOp) : State × EOp :=
  let cid := op.cid
  let lid := op.lid
  let k := s.coreAt cid
  let set := if op.set = 1 then k.sets[1] else k.sets[0]
  let putSet (s : State) (a : AccSet) : State :=
    s.updCore cid (fun c => { c with sets := if op.set = 1 then c.sets.set 1 a else c.sets.set 0 a })
  let stop (s : State) (f : RFault) : State × EOp := (s, { op with susp := some f })
  let done (s : State) (fl : Flags) : State × EOp := (s, { op with fin := true, flags := op.flags ||| fl })
  match op.kind with
  | .mzero int => done (putSet s { int := int }) 0
  | .mma | .mmas .. =>
    let total := (op.kDense + 7) / 8
    let (r, c, f) := op.chunks s op.entries (total - op.chunk) op.chunk (set, 0)
    let t := putSet s r.1
    match f with
    | some f => (t, { op with chunk := c, flags := op.flags ||| r.2, susp := some f })
    | none => done t r.2
  | .mdrn clr =>
    let home := (op.tile 0).home cid
    let (ws, fl) := drainWrites set (op.tile 0) s home (op.fmts 0)
    match engWrites lid home ws s with
    | .error f => stop s f
    | .ok t => done (if clr then putSet t { int := set.int } else t) fl
  | .mdrnR clr sel =>
    let t := putLeased s op (laneRegs (set.half sel))
    done (if clr then putSet t { int := set.int } else t) 0
  | .mlda int =>
    match op.tileFault s 0 with
    | some f => stop s f
    | none =>
      let t := op.tile 0
      (List.range t.rows).foldl (fun (r : State × EOp) i => (List.range t.kx).foldl (fun r j =>
        let (v, fl) : BitVec 32 × Flags :=
          if int then (BitVec.ofInt 32 (numInt (op.value s 0 i j)), 0) else toF32 0 (op.value s 0 i j, 0)
        let a := if op.set = 1 then (r.1.coreAt cid).sets[1] else (r.1.coreAt cid).sets[0]
        (putSet r.1 { a with elems := a.elems.put (i * 32 + j) v }, { r.2 with flags := r.2.flags ||| fl })) r)
        (done (putSet s { int := int }) 0)
  | .cmpr sh u8 =>
    match op.tileFault s 0 with
    | some f => stop s f
    | none =>
      let home := (op.tile 1).home cid
      match engWrites lid home (tileRows (op.tile 1) s home (op.fmts 1) (op.pruned s sh u8)) s with
      | .error f => stop s f
      | .ok t => done (putLeased t op ((winRegs op.destLen (op.indexSet s sh u8)).map (·.1))) 0
  | .mxpd _ _ =>
    match op.tileFault s 0 with
    | some f => stop s f
    | none =>
      let home := (op.tile 1).home cid
      match engWrites lid home (tileRows (op.tile 1) s home (op.fmts 1) (op.dense s)) s with
      | .error f => stop s f
      | .ok t => done t 0

/-! ## PEER operands (R191) -/

/-- Whether element k of row r of operand i takes part, so that its block's scale is read (R187, R191). -/
def EOp.needs (op : EOp) (es : List (List Nat)) (i r k : Nat) : Bool :=
  match op.kind with
  | .mma | .mmas .. => mulReads op.kind.shape es op.kDense op.kValid (op.tile 0).rows i r k
  | _ => true

/-- The addresses of the bytes of a row of a PEER operand, with those of its scales; none for a scale that is not read. -/
def EOp.peerBytes (op : EOp) (i r : Nat) : List (Option Word) :=
  let t := op.tile i
  let e := op.eltAt i r
  let es := op.entries
  let data := match e with
    | .bp8 => (List.range (op.np i)).flatMap (fun p =>
        (List.range ((t.kx + 7) / 8)).map (fun b => some (t.peerAddr (p * t.rows * t.rs + r * t.rs + b))))
    | _ => (List.range (t.rowLen e false)).map (fun b => some (t.peerAddr (r * t.rs + b)))
  let nb := (t.kx + 23) / 24
  data ++ (if e.isBlk then (List.range nb).map (fun n =>
      if (List.range 24).any (fun j => decide (24 * n + j < t.kx) && op.needs es i r (24 * n + j)) then
        some (t.peerAddr (t.rows * t.rs + r * nb + n))
      else none)
    else [])

/-- The next row to fetch: operand and row, operand by operand in ascending order. -/
def EOp.nextRow (op : EOp) : Option (Nat × Nat) :=
  (List.range op.descs.length).findSome? (fun i =>
    if (op.tile i).spc = 1 then (List.range (op.tile i).rows).findSome? (fun r => if (op.staged i r).isNone then some (i, r) else none)
    else none)

/-- The runs of a row's bytes that one access reads at once (R175): consecutive addresses within a 16-byte granule; a run is numbered by the
place of its first byte. -/
def rowRuns (as : List (Option Word)) : List Piece :=
  (((List.range as.length).zip as).foldl (fun (l : List Piece) e =>
    match e.2, l with
    | none, l => l
    | some a, [] => [{ part := e.1, va := a, n := 1 }]
    | some a, p :: t =>
      if p.part + p.n = e.1 ∧ p.va + BitVec.ofNat 64 p.n = a ∧ p.va.toNat / 16 = a.toNat / 16 then { p with n := p.n + 1 } :: t
      else { part := e.1, va := a, n := 1 } :: p :: t) []).reverse

/-- The packets of a row (R373, R385): one for each 64-byte block. -/
def rowPackets (ps : List Piece) : List (List Piece) :=
  let block (p : Piece) : Nat := p.va.toNat / 64
  ((ps.map block).reverse.eraseDups.reverse).map (fun b => ps.filter (fun p => block p == b))

/-- The bytes of a row from what its runs have brought; what is not read counts as zero. -/
def rowBytesOf (n : Nat) (ps : List Piece) (got : Tab Nat) : List Byte :=
  (List.range n).map (fun k => match ps.find? (fun p => decide (p.part ≤ k ∧ k < p.part + p.n)) with
    | some p => BitVec.ofNat 8 (got.get 0 p.part / 256 ^ (k - p.part))
    | none => 0)

/-! ## Events -/

/-- The operation at work on a set: the first that is not finished. -/
def Core.atWork (c : Core) (set : Nat) : Option EOp := c.equeue.find? (fun e => e.set == set && !e.fin)

/-- Whether an earlier operation of the same context is suspended, so that this one does not start (R206). -/
def Core.heldBack (c : Core) (op : EOp) : Bool :=
  (c.equeue.takeWhile (fun e => e.id != op.id)).any (fun e => e.g == op.g && e.task.isNone && e.susp.isSome)

/-- Whether an operation that the same context issued to this engine before has not started (R81 note 3). -/
def Core.startsAfter (c : Core) (op : EOp) : Bool :=
  (c.equeue.takeWhile (fun e => e.id != op.id)).any (fun e => e.g == op.g && e.fire == op.fire && e.task.isNone && !e.started)

/-- ENGINE_OP_START (R81, R186): the first unfinished operation of a set starts; those of one context start in the order of their issue,
whatever their sets. -/
def execEngineOpStart (cid set : Nat) (s : State) : Out :=
  match (s.coreAt cid).atWork set with
  | some op =>
    if op.started || (op.task.isNone && ((s.coreAt cid).heldBack op || (s.coreAt cid).startsAfter op)) then .next s
    else .next (s.updOp cid op.id (fun e => { e with started := true }))
  | none => .next s

/-- A tile task of a cluster, changed. -/
def State.updTask (s : State) (cl key : Nat) (f : Task → Task) : State :=
  s.updClu cl (fun u => { u with tasks := u.tasks.map (fun t => if t.key = key then f t else t) })

/-- A tile task completes, with a fault or without one: the count of the hang monitor starts again (R250). -/
def State.endTask (s : State) (cl key : Nat) (f : Task → Task) : State := (s.updTask cl key f).updClu cl (fun u => { u with hang := 0 })

/-- Ends a tile task in a fault (R246): its operations are discarded; its flags reach CFU, and the locks of one whose firing has ended are
released (R76). -/
def State.failTask (s : State) (cid key : Nat) (f : RFault) : State :=
  let fl : Flags := ((s.coreAt cid).equeue.filter (fun e => e.task == some key)).foldl (fun x e => x ||| e.flags) 0
  let t := s.updCore cid (fun c => { c with equeue := c.equeue.filter (fun e => e.task != some key) })
  let u := t.endTask (cid / 16) key (fun k => { k with st := .failed f, flags := k.flags ||| fl })
  match (s.cluAt (cid / 16)).tasks.find? (fun k => k.key == key) with
  | some k => (if (s.ctxAt k.g).fire = k.fire then u else u.unlock key).unionFlags k.g fl
  | none => u

/-- An operation whose firing has ended is over: it leaves the queue, and its locks are released (R76, R171). -/
def State.endOrphan (s : State) (op : EOp) : State :=
  (s.unlock op.id).updCore op.cid (fun c => { c with equeue := c.equeue.filter (fun e => e.id != op.id) })

/-- The magnitude of a value. -/
def magOf : Num → Num
  | .fin _ a b e => .fin false a b e
  | .inf _ => .inf false
  | x => x

/-- Whether the sum of the elements of a line (a row or a column) differs from its checksum (R208): what upsets have changed there, as integers
modulo 2^32, or exactly, against 2^−16 of the largest magnitude in the line. Where a NaN or an infinity stands, the spec states no result:
`open_` decides (log 20). -/
def AccSet.lineBad (a : AccSet) (open_ : Bool) (line : List Nat) : Bool :=
  let changed := line.filterMap (fun n => (a.upset.find n).map (fun u => (a.elems.get 0 n, u)))
  if a.int then changed.foldl (fun (x : BitVec 32) e => x + e.1 - e.2) 0 != 0
  else if changed.isEmpty then false
  else
    let wild (x : BitVec 32) : Bool := match f32Val x with | .nan _ => true | .inf _ => true | _ => false
    if line.any (fun n => wild (a.elems.get 0 n)) || changed.any (fun e => wild e.2) then open_
    else
      let diff := changed.foldl (fun x e => (Num.add 0 (Num.add 0 x (f32Val e.1)).1 (f32Val (e.2 ^^^ 0x80000000))).1) (.zero false)
      let most := line.foldl (fun (x : Num) n => let y := magOf (f32Val (a.elems.get 0 n)); if x.cmp y < 0 then y else x) (.zero false)
      let bound := match most with | .fin g x y e => Num.fin g x y (e - 16) | x => x
      decide (0 < (magOf diff).cmp bound)

/-- Whether a drain finds a row or a column that does not match its checksum (R208). -/
def AccSet.sumBad (a : AccSet) (open_ : Bool) : Bool :=
  !a.upset.isEmpty && (List.range 32).any (fun i =>
    a.lineBad open_ ((List.range 32).map (fun j => i * 32 + j)) || a.lineBad open_ ((List.range 32).map (fun j => j * 32 + i)))

/-- Whether the tiles of an operation can be reached: those of another core go over the mesh, which a fence or a reset closes (R58, R251). -/
def EOp.reaches (op : EOp) (s : State) : Bool :=
  (List.range op.descs.length).all (fun i =>
    let h := (op.tile i).home op.cid
    (op.tile i).spc != 0 || h == op.cid || ((s.coreAt h).open_ && (s.coreAt op.cid).open_))

/-- ENGINE_OP_COMPLETE (R187, R197 to R201, R206, R208): the operation at work on a set runs, once the rows of its PEER operands
are staged and its other tiles can be reached (R58). A drain that finds a row or column sum that does not match writes nothing: the firing is abandoned, or the task has failed
(R246), the operation is over, and the engine's core is reported for sparing. `sumBad` is the result of a comparison that meets a NaN or an infinity, which the spec
leaves open (log 20). -/
def execEngineOpComplete (cid set : Nat) (sumBad : Bool) (s : State) : Out :=
  match (s.coreAt cid).atWork set with
  | none => .next s
  | some op =>
    let drain : Bool := match op.kind with | .mdrn _ | .mdrnR .. => true | _ => false
    if !op.started || op.susp.isSome || op.fetch.isSome || op.nextRow.isSome || !op.reaches s then .next s
    else if drain && (if op.set = 1 then (s.coreAt cid).sets[1] else (s.coreAt cid).sets[0]).sumBad sumBad then
      match op.task with
      | none => .next (((if op.lives s then s.abandon op.g 2 0 else s).endOrphan op).reportCore cid)
      | some key => .next ((s.reportCore cid).failTask cid key ⟨.pois, BitVec.ofNat 64 (((s.cluAt (cid / 16)).tasks.find? (fun t => t.key == key)).map (·.id) |>.getD 0)⟩)
    else
      let (t, o) := runOp s op
      let t := t.updOp cid op.id (fun _ => o)
      match op.task, o.susp with
      | none, _ =>
        let t := if o.fin then t.unionFlags op.g o.flags else t
        .next (if op.lives s then t else t.endOrphan op)
      | some key, some f => .next (t.failTask cid key f)
      | some _, none => .next t

/-- Whether a launch stops its engines between two rows of a PEER fetch, since it is to be saved or stopped (R209, R349). -/
def State.stopsRows (s : State) (lid : Word) : Bool :=
  match s.launches.find? (fun l => l.lid == lid) with | some l => l.st == .saving || l.st == .stopping | none => false

/-- PEER_ROW_FETCH (R191, R385): the engine asks for the next row of a PEER operand, with one load packet of the issuing context for each
64-byte block; they are translated, ordered, routed and answered as any load is. What the fabric does to them (`_outcome` names it for one
packet) comes with its own events. -/
def execPeerRowFetch (cid set _outcome : Nat) (s : State) : Out :=
  match (s.coreAt cid).atWork set with
  | none => .next s
  | some op =>
    match (if !op.started || op.susp.isSome || op.fetch.isSome || (s.coreAt cid).fenced || s.stopsRows op.lid then none else op.nextRow) with
    | none => .next s
    | some (i, r) =>
      let gs := rowPackets (rowRuns (op.peerBytes i r))
      let msgs := ((List.range gs.length).zip gs).map (fun (e : Nat × List Piece) => ({
        id := s.nextId + e.1, g := op.g, fire := op.fire, lid := op.lid, pid := op.pid
        body := .acc { kind := .load, space := 2, pieces := e.2, weight := e.2.length, row := some (cid, op.id) } } : Msg))
      .next (({ s with net := s.net ++ msgs, nextId := s.nextId + gs.length } : State).updOp cid op.id (fun e =>
        { e with fetch := some { operand := i, row := r, left := gs.length } }))

/-- The fetch of a row ends (R191): the row is staged, or the operation is suspended with the row's number, or the task fails (R246). -/
def State.rowEnds (s : State) (op : EOp) (x : RowFetch) : State :=
  let as := op.peerBytes x.operand x.row
  match x.fault with
  | none => s.updOp op.cid op.id (fun e =>
      { e with fetch := none, rows := e.rows ++ [(x.operand, x.row, rowBytesOf as.length (rowRuns as) x.got)] })
  | some (_, f) =>
    match op.task with
    | some key => s.failTask op.cid key f
    | none =>
      if op.lives s then s.updOp op.cid op.id (fun e => { e with fetch := none, susp := some f, row := x.row + x.operand % 2 * 32 })
      else s.endOrphan op

/-- The register that TVAL names for an instruction on the wrong side (R184, R205; log 21). -/
def sideReg (o : Ops) : Nat := if o.a ≠ 0 then o.a.toNat else if o.d ≠ 0 then o.d.toNat else o.b.toNat

/-- Replaces the bits of a register, keeping its presence state (a LEASED register stays so, R206). -/
def Ctx.poke (c : Ctx) (n : Nat) (v : Quad) : Ctx := c.setRegAt n { c.regAt n with bits := v, tag := .data }

/-- An instruction of the engine program of the current context (R204, R205): the state after it, with the next program counter
when it is a taken loop: ELOOP tests its register after the write, and g0 reads as zero. DESIGN CHOICE (log 71, 79): the bump of EBUMP is a signed
64-bit number; an instruction that only a thread may use raises reason 9 whatever registers it names. -/
def progExec (s : State) (p : Prog) (i : Instr) : Ex (State × Option PcAddr) := do
  match i with
  | .mzero n int => do let t ← mzero true n int s; .ok (t, none)
  | .mma n o => do let t ← mma true n o s; .ok (t, none)
  | .mmas n sh u o => do let t ← mmas true n sh u o s; .ok (t, none)
  | .mdrn n clr o => do let t ← mdrn true n clr o s; .ok (t, none)
  | .mlda n int o => do let t ← mlda true n int o s; .ok (t, none)
  | .mxpd sh u o => do let t ← mxpd true sh u o s; .ok (t, none)
  | .endp => .ok (s.updMe (fun c => { c with prog := c.prog.map (fun p => { p with ended := true }) }), none)
  | .eloop o => do
    engRegs true s [src o.a o.epa] [o.a.toNat]
    let t := s.updMe (fun c => c.poke o.a.toNat ((s.lo o.a - 1).setWidth 128))
    .ok (t, if t.lo o.a ≠ 0 then some (p.pc + (o.imm + o.imm).setWidth 56) else none)
  | .ebump o => do
    engRegs true s [dst o.d, src o.a o.epa, src o.b o.epb] [o.a.toNat, o.b.toNat]
    let off : Int := (fld (s.bits o.a) 18 0 : Int) + (s.lo o.b).toInt
    check (decide (0 ≤ off ∧ off < 2 ^ 19)) .bound (BitVec.ofInt 64 off)
    .ok (s.updMe (fun c => c.poke o.d.toNat (setFld (s.bits o.a) 18 0 off.toNat)), none)
  | i => .error (.trap .ill (illVal (sideReg (opsOf i)) 9))

/-- ENGINE_PROGRAM_STEP (R204): the engine fetches and issues the next instruction of a context's program. A fault suspends the
program; an issue that must wait is tried again. -/
def execEngineProgramStep (g : Nat) (s : State) : Out :=
  match (s.ctxAt g).prog with
  | none => .next s
  | some p =>
    if p.ended || p.susp.isSome || (s.opsOf g).any (fun e => e.susp.isSome) then .next s
    else
      let susp (t : State) (c : Cause) (v : Word) : State :=
        t.updCtx g (fun k => { k with prog := k.prog.map (fun p => { p with susp := some ⟨c, v⟩ }) })
      match s.fetch g p.pc with
      | (.wait, t) => .next t
      | (.trap c v _, t) => .next (susp t c v)
      | (.instr i n, t) =>
        match progExec { t with cur := g } p i with
        | .ok (u, pc) => .next (({ u with cur := s.cur }).updCtx g (fun (k : Ctx) =>
            { k with prog := k.prog.map (fun (q : Prog) => { q with pc := pc.getD (p.pc + BitVec.ofNat 56 (2 * n)) }) }))
        | .error (.trap c v) => .next (susp t c v)
        | .error (.post c v _) => .next (susp t c v)
        | .error _ => .next t

end Sys2Proof.Machine
end

