-- ==== Sys2Proof/Machine/Varifloat.lean ====
section
/-! DEFINITION. Varifloat.lean: run-time precision (R142 to R160): the head and its layouts, the one rounding of every result,
the significance count, and the instructions of page 3 op6 0x00 to 0x0D. -/

namespace Sys2Proof.Machine

/-! ## Values -/

/-- A varifloat value (R142, R143): kind, length in bytes, count, sign, biased exponent, fraction. -/
structure VFloat where
  kind : Nat
  len : Nat
  cnt : Nat := 0
  neg : Bool := false
  exp : Nat := 0
  frac : Nat := 0
  deriving DecidableEq, Repr, Inhabited

/-- Reads a value from its head and the string F of `flen` bits (R142, R145). -/
def vfOf (head F flen : Nat) : VFloat where
  kind := head / 2 ^ 29 % 8
  len := head / 2 ^ 24 % 32 + 1
  cnt := head / 2 ^ 16 % 256
  neg := head / 2 ^ 15 % 2 == 1
  exp := head % 2 ^ 15
  frac := F / 2 ^ (flen - 8 * (head / 2 ^ 24 % 32 + 1))

/-- The head of a value (R142). -/
def VFloat.head (v : VFloat) : Nat :=
  v.kind * 2 ^ 29 + (v.len - 1) * 2 ^ 24 + v.cnt * 2 ^ 16 + v.neg.toNat * 2 ^ 15 + v.exp

/-- Length of the string F of a window of w registers (R145). -/
def vfBits (w : Nat) : Nat := if w = 1 then 96 else 224

/-- Whether a window of w registers holds a value of a length (R145). -/
def vfFits (w len : Nat) : Bool := decide (8 * len ≤ vfBits w)

/-- The registers of a value (R145): the fraction in the top bits of F, the rest zero. -/
def VFloat.regs (v : VFloat) (w : Nat) : List (Quad × Tag) :=
  let F := v.frac * 2 ^ (vfBits w - 8 * v.len)
  if w = 1 then [(BitVec.ofNat 128 (F * 2 ^ 32 + v.head), .data)]
  else [(BitVec.ofNat 128 (F / 2 ^ 128 * 2 ^ 32 + v.head), .data), (BitVec.ofNat 128 F, .data)]

/-- The bytes of a value (R144). -/
def VFloat.bytes (v : VFloat) : List Byte := leBytes 4 v.head ++ leBytes v.len v.frac

/-- A value of length `len` from its bytes in memory, little-endian in x; its stored length is replaced (R144, R159). -/
def vfOfBytes (len x : Nat) : VFloat := { vfOf (x % 2 ^ 32) 0 224 with len := len, frac := x / 2 ^ 32 % 2 ^ (8 * len) }

/-- The value in the window of w registers that starts at n (R145). -/
def State.vfAt (s : State) (n : RegNo) (w : Nat) : VFloat :=
  let r := (s.me.reg n.toNat).bits
  let F := if w = 1 then fld r 127 32 else fld r 127 32 * 2 ^ 128 + (s.me.reg (n.toNat + 1)).bits.toNat
  vfOf (fld r 31 0) F (vfBits w)

/-- What a value stands for (R143): a kind 5 to 7 reads as a signalling NaN. -/
def VFloat.num (v : VFloat) : Num :=
  match v.kind with
  | 0 => .zero v.neg
  | 1 => .fin v.neg (2 ^ (8 * v.len) + v.frac) 1 ((v.exp : Int) - 16383 - 8 * v.len)
  | 2 => .inf v.neg
  | 3 => .nan false
  | _ => .nan true

/-- The weight of the last trusted bit of a normal value (R148). -/
def VFloat.ulp (v : VFloat) : Int := (v.exp : Int) - 16383 - v.cnt + 1

/-! ## The one rounding (R147) and the count (R148) -/

/-- Rounds an exact value to `len` bytes in a mode, as R147 says; `cnt` gives the count from the unbiased exponent of the
result (R148), clamped. -/
def vfRound (rm len : Nat) (cnt : Int → Int) : Num → VFloat × Flags
  | .nan sig => ({ kind := 3, len := len }, if sig then fNV else 0)
  | .inf neg => ({ kind := 2, len := len, neg := neg }, 0)
  | .zero neg => ({ kind := 0, len := len, neg := neg }, 0)
  | .fin neg num den ex =>
    let (m, e, exact) := roundTo rm neg num den ex (8 * len)
    if 16384 < e then
      let toInf := (match rm with | 0 => true | 4 => true | 2 => !neg | 3 => neg | _ => false)
      (if toInf then { kind := 2, len := len, neg := neg }
        else { kind := 1, len := len, neg := neg, exp := 0x7FFF, frac := 2 ^ (8 * len) - 1,
               cnt := (satInt (cnt 16384) 0 (8 * len + 1)).toNat }, fOF ||| fNX)
    else if e < -16383 then ({ kind := 0, len := len, neg := neg }, fUF ||| fNX)
    else ({ kind := 1, len := len, neg := neg, exp := (e + 16383).toNat, frac := m - 2 ^ (8 * len),
            cnt := (satInt (cnt e) 0 (8 * len + 1)).toNat }, if exact then 0 else fNX)

/-- The greatest of the weights and of the result's own last bit, and the count it gives (R148). -/
def cntOf (us : List Int) (len : Nat) (e : Int) : Int := e - us.foldl max (e - 8 * len) + 1

/-- The weight of an operand that takes part in the maximum of R148. -/
def VFloat.ulps (v : VFloat) : List Int := if v.kind = 1 then [v.ulp] else []

/-- L_r (R146). -/
def Ctx.vfLen (c : Ctx) : Nat := fld c.prc 4 0 + 1

/-- Writes a result, raises its flags, and then makes the check of R149. -/
def vfFinish (s : State) (d : RegNo) (w : Nat) (check : Bool) (r : VFloat × Flags) : Ex State :=
  let t := (s.putL d (r.1.regs w)).setFlags r.2
  if check && r.1.kind == 1 && bitAt s.me.prc 16 && decide (r.1.cnt < fld s.me.prc 15 8) then
    .error (.post .pxh (BitVec.ofNat 64 r.1.cnt) t)
  else .ok t

/-! ## Operand rules (R150) -/

/-- The window length of an instruction. -/
def winLen (o : Ops) : Nat := 2 ^ o.l.toNat

/-- The length check of a source: its LQ is legal and its window holds it. -/
def vfSrc (s : State) (w : Nat) (n : RegNo) : Ex VFloat := do
  let v := s.vfAt n w
  check (vfFits w v.len && decide (v.len ≤ 28)) .win (BitVec.ofNat 64 n.toNat)
  .ok v

/-- The length check of a destination. -/
def vfDst (w len : Nat) (n : RegNo) : Ex Unit := check (vfFits w len) .win (BitVec.ofNat 64 n.toNat)

/-- The immediate length (R156, R159). -/
def vfImm (o : Ops) : Ex Nat := do
  check (decide (1 ≤ o.imm.toNat ∧ o.imm.toNat ≤ 28)) .win 0x3F
  .ok o.imm.toNat

/-- Two sources and a destination of the working length. -/
def vfTwo (o : Ops) (s : State) (f : VFloat → VFloat → Num × Flags) (cnt : VFloat → VFloat → Int → Int) : Ex State := do
  check88 s [dst o.d (winLen o), src o.a o.epa (winLen o), src o.b o.epb (winLen o)]
  numWin s o.a (winLen o)
  numWin s o.b (winLen o)
  vfDst (winLen o) s.me.vfLen o.d
  let a ← vfSrc s (winLen o) o.a
  let b ← vfSrc s (winLen o) o.b
  let (v, fl) := f a b
  let (r, fl') := vfRound s.me.rm s.me.vfLen (cnt a b) v
  vfFinish s o.d (winLen o) true (r, fl ||| fl')

/-! ## PRC (R151) -/

/-- PSET: the new PRC is gB as it stood before the instruction, also where gD is gB (log 59). -/
def execPset (o : Ops) (s : State) : Out := s.settle (do
  check88 s [dst o.d, src o.b o.epb]
  numTag s o.b.toNat
  let v := s.lo o.b
  .ok ((s.put o.d s.me.prc).updMe (fun c => { c with
    prc := BitVec.ofNat 64 (min (fld v 4 0) 27 + fld v 15 8 * 2 ^ 8 + fld v 16 16 * 2 ^ 16) })))

/-- PSET.W. -/
def execPsetW (o : Ops) (s : State) : Out := s.settle (do
  check88 s [dst o.d]
  .ok ((s.put o.d s.me.prc).updMe (fun c => { c with prc := setFld c.prc 4 0 (min o.imm.toNat 27) })))

/-! ## Arithmetic (R152, R153) -/

/-- FVADD. -/
def execFvadd (o : Ops) (s : State) : Out := s.settle (
  vfTwo o s (fun a b => Num.add s.me.rm a.num b.num) (fun a b => cntOf (a.ulps ++ b.ulps) s.me.vfLen))
/-- FVSUB. -/
def execFvsub (o : Ops) (s : State) : Out := s.settle (
  vfTwo o s (fun a b => Num.sub s.me.rm a.num b.num) (fun a b => cntOf (a.ulps ++ b.ulps) s.me.vfLen))
/-- FVMUL. -/
def execFvmul (o : Ops) (s : State) : Out := s.settle (
  vfTwo o s (fun a b => Num.mul a.num b.num) (fun a b _ => min a.cnt b.cnt))
/-- FVDIV. -/
def execFvdiv (o : Ops) (s : State) : Out := s.settle (
  vfTwo o s (fun a b => Num.div a.num b.num) (fun a b _ => min a.cnt b.cnt))

/-- The exact value of FVFMA: a NaN operand decides before an invalid product does (R153). -/
def vfFma (rm : Nat) (a b d : Num) : Num × Flags :=
  if a.isNan || b.isNan || d.isNan then (.nan false, if a.isSig || b.isSig || d.isSig then fNV else 0)
  else Num.fma rm a b d

/-- The weight of the last trusted bit of a product (R148); none for a zero product. -/
def vfProdUlp (a b : VFloat) : List Int :=
  match (Num.mul a.num b.num).1 with
  | .fin _ num den ex => [floorLog2 num den ex - (min a.cnt b.cnt : Nat) + 1]
  | _ => []

/-- FVFMA: the destination is the addend; the tags of a, b and d are checked in this order (log 59). -/
def execFvfma (neg : Bool) (o : Ops) (s : State) : Out := s.settle (do
  check88 s [srcC o.d (winLen o), src o.a o.epa (winLen o), src o.b o.epb (winLen o)]
  numWin s o.a (winLen o)
  numWin s o.b (winLen o)
  numWin s o.d (winLen o)
  vfDst (winLen o) s.me.vfLen o.d
  let a ← vfSrc s (winLen o) o.a
  let b ← vfSrc s (winLen o) o.b
  let d ← vfSrc s (winLen o) o.d
  let (v, fl) := vfFma s.me.rm (if neg then a.num.flip else a.num) b.num d.num
  let (r, fl') := vfRound s.me.rm s.me.vfLen (cntOf (vfProdUlp a b ++ d.ulps) s.me.vfLen) v
  vfFinish s o.d (winLen o) true (r, fl ||| fl'))

/-- One source and a destination of a length given. -/
def vfOne (o : Ops) (s : State) (len : Nat) (f : VFloat → Num × Flags) (cnt : VFloat → Int → Int) : Ex State := do
  vfDst (winLen o) len o.d
  let b ← vfSrc s (winLen o) o.b
  let (v, fl) := f b
  let (r, fl') := vfRound s.me.rm len (cnt b) v
  vfFinish s o.d (winLen o) true (r, fl ||| fl')

/-- FVSQRT. -/
def execFvsqrt (o : Ops) (s : State) : Out := s.settle (do
  check88 s [dst o.d (winLen o), src o.b o.epb (winLen o)]
  numWin s o.b (winLen o)
  vfOne o s s.me.vfLen (fun b => Num.sqrt 240 b.num) (fun b _ => b.cnt))

/-- FVRND (R156): the rounding of R147 keeps the kind of what is not normal. len is checked after the tags and before the lengths of R150
(log 59). -/
def execFvrnd (o : Ops) (s : State) : Out := s.settle (do
  check88 s [dst o.d (winLen o), src o.b o.epb (winLen o)]
  numWin s o.b (winLen o)
  let len ← vfImm o
  vfOne o s len (fun b => (b.num, 0)) (fun b => cntOf b.ulps len))

/-- FVCMP (R154). -/
def execFvcmp (o : Ops) (s : State) : Out := s.settle (do
  check88 s [dst o.d, src o.a o.epa (winLen o), src o.b o.epb (winLen o)]
  numWin s o.a (winLen o)
  numWin s o.b (winLen o)
  let a ← vfSrc s (winLen o) o.a
  let b ← vfSrc s (winLen o) o.b
  if a.num.isNan || b.num.isNan then .ok ((s.put o.d 2).setFlags (if a.num.isSig || b.num.isSig then fNV else 0))
  else .ok (s.put o.d (BitVec.ofInt 64 (a.num.cmp b.num))))

/-! ## Conversions (R155) -/

/-- FVCVT.FROMI. -/
def execFvcvtFromi (o : Ops) (s : State) : Out := s.settle (do
  check88 s [dst o.d (winLen o), src o.b o.epb]
  numTag s o.b.toNat
  let len := s.me.vfLen
  vfDst (winLen o) len o.d
  vfFinish s o.d (winLen o) true (vfRound s.me.rm len (fun _ => 8 * len + 1) (Num.ofInt (s.lo o.b).toInt)))

/-- FVCVT.FROMF: a destination too short raises WIN before a source of the ABN payload class raises ABN (log 59). -/
def execFvcvtFromf (o : Ops) (s : State) : Out := s.settle (do
  check88 s [dst o.d (winLen o), src o.b o.epb]
  numTag s o.b.toNat
  let len := s.me.vfLen
  vfDst (winLen o) len o.d
  let x := (s.lo o.b).setWidth 32
  check (!isAbn x) .abn (BitVec.ofNat 64 o.b.toNat)
  let cnt : Int := if fld x 30 23 = 0 then Nat.log2 (fld x 22 0) + 1 else 24
  vfFinish s o.d (winLen o) true (vfRound s.me.rm len (fun _ => cnt) (f32Val x)))

/-- FVCVT.TOI. -/
def execFvcvtToi (o : Ops) (s : State) : Out := s.settle (do
  check88 s [dst o.d, src o.b o.epb (winLen o)]
  numWin s o.b (winLen o)
  let b ← vfSrc s (winLen o) o.b
  let r := toInteger s.me.rm (-(2 ^ 63)) (2 ^ 63 - 1) b.num
  .ok ((s.put o.d (BitVec.ofInt 64 r.1)).setFlags r.2))

/-- FVCVT.TOF. -/
def execFvcvtTof (o : Ops) (s : State) : Out := s.settle (do
  check88 s [dst o.d, src o.b o.epb (winLen o)]
  numWin s o.b (winLen o)
  let b ← vfSrc s (winLen o) o.b
  let r := toF32 s.me.rm (b.num, 0)
  .ok ((s.put o.d (r.1.setWidth 64)).setFlags r.2))

/-! ## Counts and lengths (R157, R158) -/

/-- FVSIG.GET. -/
def execFvsigGet (o : Ops) (s : State) : Out := s.settle (do
  check88 s [dst o.d, src o.b o.epb (winLen o)]
  numWin s o.b (winLen o)
  let b ← vfSrc s (winLen o) o.b
  .ok (s.put o.d (BitVec.ofNat 64 (if b.kind = 1 then b.cnt else 0))))

/-- FVSIG.SET: the copy keeps the length and, when a is not normal, every field. The destination is checked first (R150); a
length that is illegal is the source's own fault. -/
def execFvsigSet (o : Ops) (s : State) : Out := s.settle (do
  check88 s [dst o.d (winLen o), src o.a o.epa (winLen o), src o.b o.epb]
  numWin s o.a (winLen o)
  numTag s o.b.toNat
  let len := (s.vfAt o.a (winLen o)).len
  if len ≤ 28 then vfDst (winLen o) len o.d
  let a ← vfSrc s (winLen o) o.a
  let r := if a.kind = 1 then { a with cnt := min (fld (s.lo o.b) 7 0) (8 * a.len + 1) } else a
  .ok (s.putL o.d (r.regs (winLen o))))

/-- FVLEN. -/
def execFvlen (o : Ops) (s : State) : Out := s.settle (do
  check88 s [dst o.d, src o.b o.epb (winLen o)]
  numWin s o.b (winLen o)
  let b ← vfSrc s (winLen o) o.b
  .ok (s.put o.d (BitVec.ofNat 64 (4 + b.len))))

/-- FVLEN.W. -/
def execFvlenW (o : Ops) (s : State) : Out := s.settle (do
  check88 s [dst o.d]
  .ok (s.put o.d (BitVec.ofNat 64 (5 + fld s.me.prc 4 0))))

/-! ## Loads and stores (R159, R160) -/

/-- The pieces of n bytes at an address: one for each 32-byte granule, numbered by their distance from the start (R160). -/
def vfPieces (a : Word) (bs : List Byte) (n : Nat) : List Piece :=
  let k := 32 - a.toNat % 32
  if n ≤ k then [{ part := 0, va := a, n := n, bytes := bs }]
  else [{ part := 0, va := a, n := k, bytes := bs.take k }, { part := k, va := a + BitVec.ofNat 64 k, n := n - k, bytes := bs.drop k }]

/-- The capability checks of R159 for n bytes at A. -/
def vfAccess (c : Cap) (s : State) (a : Word) (n : Nat) (need : Nat) : Ex Unit := do
  capPerm s c a [need]
  capSpace c a [0, 1, 2]
  capBound c a n

/-- The checks of the pieces that lie in the own scratchpad. -/
def vfOwn (s : State) (spc : Nat) (write : Bool) (ps : List Piece) : Ex Unit :=
  ps.forM (fun p => if s.isOwn spc p.va then ownCheck s p.va p.n write else .ok ())

/-- The number that the bytes of the pieces stand for, each at its distance. -/
def vfJoin (got : Tab Nat) : Nat := got.foldl (fun x p => x + p.2 * 256 ^ p.1) 0

/-- What pieces in the own scratchpad hold. -/
def vfGot (s : State) (ps : List Piece) : Tab Nat := ps.map (fun p => (p.part, leVal (ownRead s p.va p.n)))

/-- Loads pieces that do not all lie in the own scratchpad: each is read at its home, in ascending order (R160), once no store of the context to
one of them is queued. -/
def vfFetch (s : State) (kind : AccKind) (spc : Nat) (ps : List Piece) (dest : List Nat) (how : Deposit) : Ex State :=
  if ps.any (fun p => s.isOwn spc p.va && s.pieceQueued s.cur kind p) then .error (.stall s)
  else .ok (s.issueLoad kind spc ps dest how [] true)

/-- The registers that receive a loaded value of a length: the head takes the length (R159). -/
def vfLoaded (len w x : Nat) : List (Quad × Tag) := (vfOfBytes len x).regs w

/-- Places of the registers of a window. -/
def State.places (s : State) (n : RegNo) (len : Nat) : List Nat := (List.range len).map (fun i => s.me.ix (n.toNat + i))

/-- FVLD.IX: len is checked after the tags and before the lengths of R150 (log 59). -/
def execFvldIx (o : Ops) (s : State) : Out := s.settle (do
  check88 s [dst o.d (winLen o), src o.a o.epa, src o.b o.epb 2]
  numTag s o.a.toNat
  capTag s o.b
  let len ← vfImm o
  vfDst (winLen o) len o.d
  let c := s.capAt o.b
  let a := c.cur + s.lo o.a * BitVec.ofNat 64 (4 + len)
  vfAccess c s a (4 + len) pRD
  let ps := vfPieces a [] (4 + len)
  vfOwn s c.spc false ps
  if ps.all (fun p => s.isOwn c.spc p.va) then .ok (s.putL o.d (vfLoaded len (winLen o) (vfJoin (vfGot s ps))))
  else vfFetch s .load c.spc ps (s.places o.d (winLen o)) (.fvIx len))

/-- The three checks of a head that a stream FVLD has read (R159): the cause and the TVAL of the first that fails. `lim` is the
first address outside the bounds. -/
def vfHeadBad (head : Nat) (w dn : Nat) (a lim : Word) : Option RFault :=
  let len := head / 2 ^ 24 % 32 + 1
  if 28 < len then some ⟨.win, a⟩
  else if !vfFits w len then some ⟨.win, BitVec.ofNat 64 dn⟩
  else if lim.toNat < a.toNat + 4 + len then some ⟨.bound, a⟩
  else none

/-- The first address outside a capability's bounds and its space (R22, R94). -/
def Cap.top (c : Cap) : Word :=
  BitVec.ofNat 64 (match c.spc with | 0 => min c.lim.toNat 0x80000 | 1 => min c.lim.toNat 0x800000 | _ => c.lim.toNat)

/-- FVLD: the destination takes the value, and gB:2 the advanced cursor. -/
def execFvld (o : Ops) (s : State) : Out := s.settle (do
  check88 s [dst o.d (winLen o), src o.b o.epb 2]
  capTag s o.b
  let c := s.capAt o.b
  let a := c.cur
  vfAccess c s a 4 pRD
  let hs := vfPieces a [] 4
  vfOwn s c.spc false hs
  if hs.all (fun p => s.isOwn c.spc p.va) then do
    let head := leVal (ownRead s a 4)
    match vfHeadBad head (winLen o) o.d.toNat a c.top with
    | some f => .error (.trap f.cause f.val)
    | none => .ok ()
    let len := head / 2 ^ 24 % 32 + 1
    let ps := vfPieces a [] (4 + len)
    vfOwn s c.spc false ps
    let adv (s : State) : State := s.putL o.b [(({ c with cur := c.cur + BitVec.ofNat 64 (4 + len) } : Cap).head, .caph), (c.tail, .capt)]
    if ps.all (fun p => s.isOwn c.spc p.va) then .ok (adv (s.putL o.d (vfLoaded len (winLen o) (vfJoin (vfGot s ps)))))
    else do
      let t ← vfFetch s .load c.spc ps (s.places o.d (winLen o)) .fvBody
      .ok (adv t)
  else
    let max := min (4 + vfBits (winLen o) / 8) (c.top - a).toNat
    let t ← vfFetch s (.loadFv max) c.spc hs (s.places o.d (winLen o)) (.fvHead (winLen o) o.d.toNat (s.me.ix o.b.toNat) c.spc a)
    .ok (t.updMe (fun k => k.markEmpty (s.places o.b 2))))

/-- Stores pieces that lie all in the own scratchpad, through the store queue, or all outside it, posted (R159, R231). -/
def vfPut (s : State) (c : Cap) (own : Bool) (ps : List Piece) : Ex State :=
  if own then .ok (ps.foldl (fun t p => ownWrite t p.va p.bytes) s)
  else if s.room c.spc ps.length then .ok (s.sendAcc .store c.spc (groupPieces ps) 0 false false true)
  else .error (.stall s)

/-- Stores the pieces of a value in ascending order (R159, R160). Where one lies in the own scratchpad and the other does not, the second
follows once the first is performed; the phase remembers that the first has left. -/
def vfStore (s : State) (c : Cap) (a : Word) (v : VFloat) : Ex State := do
  let ps := vfPieces a v.bytes v.bytes.length
  let own (p : Piece) : Bool := s.isOwn c.spc p.va
  match ps with
  | [p, q] =>
    if own p == own q then do
      vfOwn s c.spc true ps
      vfPut s c (own p) ps
    else match s.me.phase with
      | .part _ _ => if s.queueOut || s.cluStoresOut then .error (.stall s) else do vfOwn s c.spc true [q]; vfPut s c (own q) [q]
      | _ => do
        vfOwn s c.spc true ps
        let t ← vfPut s c (own p) [p]
        .error (.stall (t.setPhase (.part 1 0)))
  | _ => do
    vfOwn s c.spc true ps
    vfPut s c (ps.all own) ps

/-- FVST: the value is stored as held; its registers are sources of a variable-length value, in which ABN raises (R150, log 50). -/
def execFvst (o : Ops) (s : State) : Out := s.settle (do
  check88 s [src o.a o.epa (winLen o), src o.b o.epb 2]
  numWin s o.a (winLen o)
  capTag s o.b
  let v ← vfSrc s (winLen o) o.a
  let c := s.capAt o.b
  vfAccess c s c.cur (4 + v.len) pWR
  let t ← vfStore s c c.cur v
  .ok (t.putL o.b [(({ c with cur := c.cur + BitVec.ofNat 64 (4 + v.len) } : Cap).head, .caph), (c.tail, .capt)]))

/-- FVST.IX: the value is first rounded to len bytes; ABN raises, as in FVST (log 50). The tags of a, b and c
are checked in this order, then len, then the lengths of R150 (log 59). -/
def execFvstIx (o : Ops) (s : State) : Out := s.settle (do
  check88 s [srcC o.c (winLen o), src o.a o.epa, src o.b o.epb 2]
  numTag s o.a.toNat
  capTag s o.b
  numWin s o.c (winLen o)
  let len ← vfImm o
  let v ← vfSrc s (winLen o) o.c
  let c := s.capAt o.b
  let a := c.cur + s.lo o.a * BitVec.ofNat 64 (4 + len)
  vfAccess c s a (4 + len) pWR
  let (r, fl) := vfRound s.me.rm len (cntOf v.ulps len) v.num
  let t ← vfStore s c a r
  .ok (t.setFlags fl))

end Sys2Proof.Machine
end

