-- ==== Sys2Proof/Machine/Verdict.lean ====
section
/-! DEFINITION. Verdict.lean: verdict accumulations (R211 to R224): bounds, the predicate, the verdict state and its
instructions. -/

namespace Sys2Proof.Machine

/-- P of R211. -/
def Verdict.pos (v : Verdict) : Int := (v.query.map (fun q => max q 0)).sum
/-- N of R211. -/
def Verdict.neg (v : Verdict) : Int := (v.query.map (fun q => min q 0)).sum
/-- acc_i. -/
def Verdict.accAt (v : Verdict) (i : Nat) : Int := v.acc.getD i 0

/-- U_i after the planes processed (R211). -/
def Verdict.upper (v : Verdict) (i : Nat) : Int :=
  if v.planes = 0 then 127 * v.pos - 128 * v.neg else v.accAt i + v.pos * (2 ^ (8 - v.planes) - 1)
/-- L_i (R211). -/
def Verdict.lower (v : Verdict) (i : Nat) : Int :=
  if v.planes = 0 then 127 * v.neg - 128 * v.pos else v.accAt i + v.neg * (2 ^ (8 - v.planes) - 1)

/-- RB of R219: bytes of a row of a plane. -/
def Verdict.rowBytes (v : Verdict) : Nat := (v.dim + 7) / 8

/-- Misuse of the verdict state (R217). -/
def misuse (cond : Bool) (reason : Nat) : Ex Unit := check (!cond) .ill (BitVec.ofNat 64 (2 ^ 62 + reason))

/-- One plane (R219): `bits` are the 16 rows, `t` the threshold; the new state and the mask of the lanes abandoned now. -/
def Verdict.step (v : Verdict) (bits : List Byte) (t : Int) : Verdict × BitVec 16 :=
  let p := 7 - v.planes
  let w : Int := if p = 7 then -128 else 2 ^ p
  let bit (i k : Nat) : Bool := bitAt (bits.getD (i * v.rowBytes + k / 8) 0) (k % 8)
  let dot (i : Nat) : Int := (((List.range v.dim).zip v.query).map (fun e => if bit i e.1 then e.2 else 0)).sum
  let acc := (List.range 16).map (fun i => if bitAt v.alive i then v.accAt i + w * dot i else v.accAt i)
  let u : Verdict := { v with acc := acc, planes := v.planes + 1 }
  let killed := (List.range 16).foldl (fun (m : BitVec 16) i =>
    if bitAt v.alive i && (if v.src ≤ 1 then decide (u.upper i < t) else decide (u.upper i ≤ 0)) then m ||| (1 <<< i) else m) 0
  ({ u with alive := v.alive &&& ~~~killed }, killed)

/-- The verdict that VDOPEN opens (R218). -/
def openVerdict (src : Nat) (q : List (Quad × Tag)) (w : Word) (cell : Nat × Word) : Verdict :=
  let d := fld w 6 0
  { isOpen := true, src := src, dim := d
    query := (List.range d).map (fun k => sxNat 8 (fld (q.getD (k / 16) default).1 (k % 16 * 8 + 7) (k % 16 * 8)))
    cell := cell, imm := sxNat 32 (fld w 63 32), acc := List.replicate 16 0, alive := 0xFFFF, planes := 0 }

/-- The control word is well formed (R217 reason 4). -/
def badControl (w : Word) : Bool := fld w 6 0 == 0 || decide (64 < fld w 6 0) || fld w 31 7 != 0

/-- VDOPEN.GEQ (R218). -/
def execVdopenGeq (o : Ops) (s : State) : Out := s.settle (do
  check88 s [srcC o.c, src o.a o.epa 4, src o.b o.epb 2]
  numTag s o.c.toNat
  numWin s o.a 4
  capTag s o.b
  misuse (badControl (s.lo o.c)) 4
  let c := s.capAt o.b
  capPerm s c c.cur [pRD]
  capSpace c c.cur [0, 1, 2]
  capBound c c.cur 4
  check (c.cur.toNat % 4 == 0) .align c.cur
  .ok (s.updMe (fun k => { k with verdict := openVerdict 0 (s.win o.a 4) (s.lo o.c) (c.spc, c.cur) })))

/-- The forms of VDOPEN without a cell. -/
def vdopen (n : Nat) (o : Ops) (s : State) : Ex State := do
  check88 s [srcC o.c, src o.a o.epa 4]
  numTag s o.c.toNat
  numWin s o.a 4
  misuse (badControl (s.lo o.c)) 4
  .ok (s.updMe (fun k => { k with verdict := openVerdict n (s.win o.a 4) (s.lo o.c) (0, 0) }))

/-- VDOPEN.GEQ.IMM (R218). -/
def execVdopenGeqImm (o : Ops) (s : State) : Out := s.settle (vdopen 1 o s)
/-- VDOPEN.POS (R218). -/
def execVdopenPos (o : Ops) (s : State) : Out := s.settle (vdopen 2 o s)

/-- The pieces of a plane, by 32-byte granule, numbered by their distance from its start behind the 4 bytes of the sample. -/
def planePieces : Nat → Word → Nat → Nat → List Piece
  | 0, _, _, _ => []
  | k + 1, a, part, n =>
    if n = 0 then []
    else
      let m := min n (32 - a.toNat % 32)
      { part := part, va := a, n := m } :: planePieces k (a + BitVec.ofNat 64 m) (part + m) (n - m)

/-- Applies a plane and writes the results (R219). -/
def vdpsWrite (o : Ops) (s : State) (c : Cap) (n : Nat) (bits : List Byte) (sample : Nat) : Ex State :=
  let v := s.me.verdict
  let (u, killed) := v.step bits (if v.src = 0 then sxNat 32 sample else v.imm)
  let t := s.updMe (fun k => { k with verdict := u })
  let t := t.putL o.b [(({ c with cur := c.cur + BitVec.ofNat 64 n } : Cap).head, .caph), (c.tail, .capt)]
  .ok (t.putQ o.d ((killed ++ u.alive).setWidth 128))

/-- VDPS (R219): the sample of a cell outside the own scratchpad, and a plane that is not wholly in it, are requested
together; the answer holds the bytes in that order. A cell in the own scratchpad is sampled at the start, also when the plane has to come from
elsewhere (R215). A refusal of the plane names its lowest refused byte. -/
def execVdps (o : Ops) (s : State) : Out := s.settle (do
  check88 s [dst o.d, src o.b o.epb 2]
  capTag s o.b
  let v := s.me.verdict
  misuse (!v.isOpen) 1
  misuse (v.planes == 8) 3
  let c := s.capAt o.b
  let n := 16 * v.rowBytes
  capPerm s c c.cur [pRD]
  capSpace c c.cur [0, 1]
  capBound c c.cur n
  let ps := planePieces 5 c.cur 4 n
  let ownPlane := ps.all (fun p => s.isOwn c.spc p.va)
  let ownCell := v.src != 0 || s.isOwn v.cell.1 v.cell.2
  let sample : Ex Nat := if v.src != 0 then .ok 0 else do
    ownCheck s v.cell.2 4 false
    .ok (leVal (ownRead s v.cell.2 4))
  let plane : Ex (List Byte) := do
    ownCheck s c.cur n false
    .ok (ownRead s c.cur n)
  let request : Ex State := do
    let here ← if ownCell then sample else .ok 0
    if ownPlane then do let _ ← plane
    check (ownCell || v.cell.1 != 2 || s.leafKind v.cell.2 != some 1) .perm v.cell.2
    let cells : List (List Piece) := if ownCell then [] else [[{ part := 0, va := v.cell.2, n := 4 }]]
    let gs := if ownPlane then [] else groupPieces ps
    let key := s.nextId
    let t := s.updMe (fun k => { k with
      loads := k.loads ++ [{ key := key, dest := [], left := cells.length + gs.length, how := .answer (4 + n), got := [(0, here)] }] })
    .ok ((t.sendAcc .loadPlane v.cell.1 cells key false false).sendAcc .loadPlane c.spc gs key false false)
  let use (a : Answer) : Ex State := match a.fault with
    | some f => .error (.trap f.cause f.val)
    | none => do
      let t ← if ownCell && ownPlane then sample else .ok (leVal (a.bytes.take 4))
      let b ← if ownPlane then plane else .ok (a.bytes.drop 4)
      vdpsWrite o s c n b t
  if ownPlane && ownCell then use {} else rpc s 6 0 request use)

/-- A lane of VDLOW and VDUPR (R220). -/
def boundLanes (v : Verdict) (f : Nat → Int) : List (BitVec 32) :=
  (List.range 16).map (fun i => if bitAt v.alive i then BitVec.ofInt 32 (f i) else 0x80000000)

/-- VDLOW (R220). -/
def execVdlow (o : Ops) (s : State) : Out := s.settle (do
  check88 s [dst o.d 4]
  misuse (!s.me.verdict.isOpen) 1
  .ok (s.putLanes o.d (boundLanes s.me.verdict s.me.verdict.lower)))

/-- VDUPR (R220). -/
def execVdupr (o : Ops) (s : State) : Out := s.settle (do
  check88 s [dst o.d 4]
  misuse (!s.me.verdict.isOpen) 1
  .ok (s.putLanes o.d (boundLanes s.me.verdict s.me.verdict.upper)))

/-- VDFIN (R221). -/
def execVdfin (o : Ops) (s : State) : Out := s.settle (do
  check88 s [dst o.d 4]
  let v := s.me.verdict
  misuse (!v.isOpen) 1
  misuse (decide (v.planes < 8)) 2
  let lanes := (List.range 16).map (fun i =>
    if bitAt v.alive i then (toF32 0 (Num.ofInt (v.accAt i), 0)).1 else 0xFFBA0000 ||| BitVec.ofNat 32 i)
  let tag (k : Nat) : Tag := if fld v.alive (4 * k + 3) (4 * k) = 15 then .data else .abn
  .ok ((s.putL o.d ((laneRegs lanes).zip ((List.range 4).map tag))).updMe (fun k => { k with verdict := {} })))

/-- VDCHK (R222): bit i is whether lane i is of the ABN payload class. -/
def vdchk (o : Ops) (s : State) (want : Bool) : Ex State := do
  check88 s [src o.b o.epb 4]
  let m := ((List.range 16).zip (s.lanes o.b)).foldl (fun (m : BitVec 16) e => if isAbn e.2 == want then m ||| (1 <<< e.1) else m) 0
  .ok (s.updMe (fun k => k.setMask o.a.toNat m))

/-- VDCHK.LIVE (R222). -/
def execVdchkLive (o : Ops) (s : State) : Out := s.settle (vdchk o s false)
/-- VDCHK.ABN (R222). -/
def execVdchkAbn (o : Ops) (s : State) : Out := s.settle (vdchk o s true)

/-- VTRAISE (R223): an atomic at the scope of the cell's home. -/
def execVtraise (o : Ops) (s : State) : Out := s.settle (do
  check88 s [dst o.d, src o.a o.epa, src o.b o.epb 2]
  numTag s o.a.toNat
  capTag s o.b
  let c := s.capAt o.b
  let a := c.cur
  capPerm s c a [pRD, pWR, pAT]
  capSpace c a [0, 1, 2]
  capBound c a 4
  check (a.toNat % 4 == 0) .align a
  check (c.spc != 2 || s.me.phase != .idle || s.leafKind a != some 1) .perm a
  let scp : Scope := if c.spc = 2 then .dev else if s.isOwn c.spc a then .core else .clu
  atomGo s { kind := .raise, space := c.spc, va := a, dbl := false, val := s.lo o.a, nr := false, scp := scp } (some o.d))

end Sys2Proof.Machine
end

