-- ==== Sys2Proof/Machine/MemEvents.lean ====
section
/-! DEFINITION. MemEvents.lean: what happens to loads, stores and cluster atomics after they have left: at the home core (R229 to
R232, R167, R253), the replies (R87, R122, R159), and the acknowledgements (R231). -/

namespace Sys2Proof.Machine

/-! ## Homes and order -/

/-- The home core of a scratchpad address of context g (R22). -/
def homeOf (g space : Nat) (va : Word) : Nat := if space = 0 then g / 4 else g / 64 * 16 + va.toNat / 2 ^ 19 % 16

/-- The scratchpad home of a request in flight, if it has one. -/
def Msg.homeCore (m : Msg) : Option Nat :=
  match m.body with
  | .acc a => if a.space < 2 then (a.pieces.head?).map (fun p => homeOf m.g a.space p.va) else none
  | .atom a => if a.space < 2 then some (homeOf m.g a.space a.va) else none
  | _ => none

/-- Whether an earlier request of the same context that satisfies a test is not performed yet. -/
def State.behind (s : State) (m : Msg) (p : Msg → Bool) : Bool :=
  s.net.any (fun x => decide (x.id < m.id) && x.g == m.g && x.pending && x.stage != .lost && p x)

/-- A .NR atomic that everything later of its context follows (R253). -/
def Msg.isFirst (m : Msg) : Bool := match m.body with | .atom a => a.first | _ => false

/-- Whether a request follows the one sent just before it, which is not performed yet (R160). -/
def State.chained (s : State) (m : Msg) : Bool :=
  (match m.body with | .acc a => a.chain | _ => false) && s.net.any (fun x => x.id + 1 == m.id && x.unperformed && x.stage != .lost)

/-- Whether an access waits for an earlier one of its context although their homes differ: while engine or copy work of the context is
under way, its loads and stores keep the K cells of R81. -/
def State.behindEngine (s : State) (m : Msg) : Bool :=
  let c := s.ctxAt m.g
  (c.copies.any (fun e => e.2.held && e.2.doneAt.isNone) || (s.coreAt (m.g / 4)).equeue.any (fun e => e.g == m.g && !e.fin)) &&
  (match m.body with
   | .acc a => a.row.isNone && s.behind m (fun x => x.fire == m.fire && !x.toPeer &&
      (match x.body with | .acc b => b.row.isNone && (!b.kind.stores || a.kind.stores) | _ => false))
   | _ => false)

/-- Something in flight acts for a context of core cid: its own, or merged into it (R270). -/
def Msg.actsFor (m : Msg) (cid : Nat) : Bool :=
  m.g / 4 == cid || (match m.body with | .atom a => a.also.any (fun e => e.g / 4 == cid) | _ => false)

/-- An earlier answer from the same place to core cid has not come there yet (R257). -/
def State.replyDue (s : State) (m : Msg) (cid : Nat) : Bool :=
  m.from_ != 0 && s.net.any (fun x => !x.unperformed && x.from_ == m.from_ && x.actsFor cid && decide (x.done < m.done))

/-- Whether an answer waits: a fenced core takes no packet (R58), and an earlier answer from the same place to the same core comes first (R257). -/
def State.behindReply (s : State) (m : Msg) : Bool := (s.coreAt (m.g / 4)).fenced || s.replyDue m (m.g / 4)

/-- An answer that is a message of its own leaves from a place for the firing that asked (R70, R235, R257). -/
def State.sendReply (s : State) (g fire src : Nat) (b : Body) : State :=
  (s.sendAs g fire b (.answered {})).updMsg s.nextId (fun m => { m with from_ := src, done := s.turns })

/-- The end of a request at its home: the answer leaves from there. -/
def Msg.answer (m : Msg) (s : State) (from_ : Nat) (a : Answer) : Msg := { m with stage := .answered a, from_ := from_, done := s.turns }

/-- Whether a request must still wait for something earlier, whatever its home (R81, R160, R253, R282): the rest of a value of which an
earlier load has brought the head is read at that load's place in the order. -/
def State.follows (s : State) (m : Msg) : Bool :=
  s.behind m (fun x => x.isFirst || x.headOut) || s.chained m || s.behindEngine m || s.streamOut m.g m.fire m.id

/-- Whether a request may be performed at its scratchpad home now: both cores are reachable, and no earlier request of the core
on the same route, and nothing else that it follows, is out (R58, R81, R160, R229, R253, R257, R282). -/
def State.atHomeNow (s : State) (m : Msg) (home : Nat) : Bool :=
  (s.coreAt (m.g / 4)).open_ && (s.coreAt home).open_ && !s.follows m &&
  !s.net.any (fun x => decide (x.id < m.id) && x.g / 4 == m.g / 4 && x.unperformed && x.homeCore == some home)

/-! ## One piece at its home -/

/-- Where a piece is performed: a location, and for a scratchpad its core. -/
structure Site where
  loc : Nat
  core : Option Nat
  deriving DecidableEq, Repr, Inhabited

/-- The checks of n bytes at a home (R164, R171, R179, R289). -/
def siteCheck (s : State) (x : Site) (va : Word) (n : Nat) (write sys : Bool) : Option RFault :=
  match x.core with
  | some cid =>
    let off := x.loc - spad cid 0
    match homeCheck s cid off n write sys with
    | .error (c, o) => some ⟨c, asAddr va off o⟩
    | .ok () => none
  | none => if (if write then s.partPoison x.loc n else s.poisonedAt x.loc n).isSome then some ⟨.pois, va⟩ else none

/-- What a load piece brings: what was read by part, the faults by part, the flags, and a granule's tag. -/
structure Got where
  vals : Tab Nat := []
  faults : List (Nat × RFault) := []
  flags : Flags := 0
  gtag : Bool := false
  deriving DecidableEq, Repr, Inhabited

/-- A piece of a load at its home (R121, R159, R173, R174): the bytes of a value whose head ends in the piece are read with it,
as far as the granule goes, when it is no longer than `max` (R160). -/
def loadPiece (s : State) (k : AccKind) (x : Site) (p : Piece) (sys : Bool) : Got × State :=
  match k with
  | .loadGran =>
    match siteCheck s x p.va 32 false sys with
    | some f => ({ faults := [(p.part, f)] }, s)
    | none =>
      if s.tagPoison.contains (x.loc / 32) then
        ({ faults := [(p.part, ⟨.pois, p.va⟩)] }, { s with tagPoison := s.tagPoison.filter (· != x.loc / 32) })
      else ({ vals := [(p.part, s.numAt x.loc 32)], gtag := s.tagged.contains (x.loc / 32) }, s)
  | .loadPlane =>
    match (List.range p.n).findSome? (fun i =>
        siteCheck s { x with loc := x.loc + i } (p.va + BitVec.ofNat 64 i) 1 false sys) with
    | some f => ({ faults := [(p.part, f)] }, s)
    | none => ({ vals := [(p.part, s.numAt x.loc p.n)] }, s)
  | .loadLane t =>
    match x.core with
    | some cid =>
      let off := x.loc - spad cid 0
      match laneCheck s cid off t none sys with
      | some c => ({ faults := [(p.part, ⟨c, (s.coreAt cid).laneTval off t c p.va⟩)] }, s)
      | none => let r := laneRead s cid off t; ({ vals := [(p.part, r.1.toNat)], flags := r.2 }, s)
    | none =>
      match siteCheck s x p.va 4 false sys with
      | some f => ({ faults := [(p.part, f)] }, s)
      | none => ({ vals := [(p.part, s.numAt x.loc 4)] }, s)
  | .loadFv max =>
    match siteCheck s x p.va p.n false sys with
    | some f => ({ faults := [(p.part, f)] }, s)
    | none =>
      let head := s.numAt x.loc p.n
      let n := p.fvSpan max head
      if n = p.n then ({ vals := [(p.part, head)] }, s)
      else
        match siteCheck s x p.va n false sys with
        | some f => ({ vals := [(p.part, head)], faults := [(4, f)] }, s)
        | none => ({ vals := [(p.part, s.numAt x.loc n)] }, s)
  | _ =>
    match siteCheck s x p.va p.n false sys with
    | some f => ({ faults := [(p.part, f)] }, s)
    | none => ({ vals := [(p.part, s.numAt x.loc p.n)] }, s)

/-- A piece of a store at its home (R164, R167, R171, R174, R179, R289): the refusal, or the state written and the flags. -/
def storePiece (s : State) (k : AccKind) (lid : Word) (x : Site) (p : Piece) (sys : Bool) : Except RFault (State × Flags) :=
  match k, x.core with
  | .storeLane t, some cid =>
    let off := x.loc - spad cid 0
    let v := BitVec.ofNat 32 (leVal p.bytes)
    match laneCheck s cid off t (some v) sys with
    | some c => .error ⟨c, (s.coreAt cid).laneTval off t c p.va⟩
    | none => .ok (laneWrite s lid cid off t v)
  | k, _ =>
    match siteCheck s x p.va p.bytes.length true sys with
    | some f => .error f
    | none =>
      let t := s.unpoison x.loc p.bytes.length
      .ok ((match k with | .storeGran => t.storeGran lid x.loc p.bytes | _ => t.store lid x.loc p.bytes).noteVa lid p.va x.loc p.bytes, 0)

/-- Performs a piece of an access at a site: what the access has gathered then, and the state. -/
def doPiece (s : State) (lid : Word) (a : Acc) (p : Piece) (x : Site) : Acc × State :=
  if a.kind.stores then
    match storePiece s a.kind lid x p a.sys with
    | .error f => ({ a with faults := a.faults ++ [(p.part, f)] }, s)
    | .ok (t, fl) => ({ a with flags := a.flags ||| fl }, t)
  else
    let (g, t) := loadPiece s a.kind x p a.sys
    ({ a with got := a.got ++ g.vals, faults := a.faults ++ g.faults, flags := a.flags ||| g.flags, gtag := a.gtag || g.gtag }, t)

/-- Where a reply comes from: a core, or a slice (R257). -/
def Site.source (x : Site) : Nat := match x.core with | some c => 1 + c | none => 4096 + x.loc / 256 % 32 + 32 * (x.loc / 2 ^ 35 % 8)

/-- Performs the next piece of an access at its home; after the last one the access is answered. -/
def performPiece (s : State) (m : Msg) (a : Acc) (x : Piece → Site) : State :=
  match a.pieces with
  | [] => s
  | p :: rest =>
    let (b, t) := doPiece s m.lid { a with pieces := rest } p (x p)
    t.updMsg m.id (fun m => { (if rest.isEmpty then m.answer s (x p).source {} else m) with body := .acc b })

/-- REMOTE_ACCESS_AT_HOME (R229): the next piece of a cluster access is performed at its home. A part of a value or plane that lies in the own
scratchpad is read behind the context's own queued stores to it (R177). -/
def execRemoteAccessAtHome (id : Nat) (s : State) : Out :=
  match s.msg id with
  | some m =>
    match m.body, m.stage, m.homeCore with
    | .acc a, .new, some home =>
      if s.atHomeNow m home && !(home == m.g / 4 && a.pieces.any (s.pieceQueued m.g a.kind)) then
        .next (performPiece s m a (fun p => { loc := spad home (p.va.toNat % 2 ^ 19), core := some home }))
      else .next s
    | _, _, _ => .next s
  | none => .next s

/-! ## Replies (R87, R122, R159) -/

/-- Writes loaded values into places of the register file: FULL (R86). -/
def Ctx.fill (c : Ctx) (dest : List Nat) (vs : List (Quad × Tag)) : Ctx :=
  (dest.zip vs).foldl (fun c e => c.setRegAt e.1 { bits := e.2.1, tag := e.2.2 }) c

/-- Records a fault on the destination, which stays EMPTY (R87): one record, which each register of a window holds until it is raised at one of
them (log 51). -/
def Ctx.recordFault (c : Ctx) (dest : List Nat) (f : RFault) : Ctx :=
  dest.foldl (fun c k => c.setRegAt k { c.regAt k with pres := .empty, fault := some f, window := dest }) c

/-- Makes the capability at a place FULL again, its cursor advanced by n (R159). -/
def Ctx.fillCap (c : Ctx) (k n : Nat) : Ctx :=
  let cap := capOf (c.regAt k).bits (c.regAt (k + 1)).bits
  c.fill [k, k + 1] [(({ cap with cur := cap.cur + BitVec.ofNat 64 n } : Cap).head, .caph), (cap.tail, .capt)]

/-- The lanes of the destinations of a vector load, with those that have come replaced. -/
def Ctx.fillLanes (c : Ctx) (dest : List Nat) (got : Tab Nat) : Ctx :=
  let lane (i : Nat) : BitVec 32 := match got.find i with
    | some v => BitVec.ofNat 32 v
    | none => (c.regAt (dest.getD (i / 4) 0)).bits.extractLsb' (i % 4 * 32) 32
  c.fill dest ((laneRegs ((List.range 16).map lane)).map (fun q => (q, .data)))

/-- Deposits the complete reply of a load (R86, R87). What is left of a value whose head has come is asked for under the number of the request
that has just been answered, and so at its place in the order (R81, R160). -/
def State.deposit (s : State) (g id : Nat) (l : Load) : State :=
  let drop (s : State) : State := s.updCtx g (fun c => { c with loads := c.loads.filter (fun x => x.key != l.key) })
  let regs (vs : List (Quad × Tag)) : State := ((drop s).updCtx g (fun c => c.fill l.dest vs)).setFlagsOf g l.flags
  match l.how, l.fault with
  | .answer n, f => (drop s).reply g (s.ctxAt g).fire l.key { fault := f.map (·.2), bytes := leBytes n (vfJoin l.got) }
  | .fvHead w dn capk space va, f =>
    let c := s.ctxAt g
    let head := vfJoin l.got % 2 ^ 32
    let bad := match f with
      | some (part, e) => if part < 4 then some e else none
      | none => none
    match bad.orElse (fun _ => vfHeadBad head w dn va (capOf (c.regAt capk).bits (c.regAt (capk + 1)).bits).top) with
    | some e => (drop s).updCtx g (fun c => (c.fillCap capk 0).recordFault l.dest e)
    | none =>
      let len := head / 2 ^ 24 % 32 + 1
      let t := s.updCtx g (fun c => c.fillCap capk (4 + len))
      let k := 32 - va.toNat % 32
      match f with
      | some (_, e) => (drop t).updCtx g (fun c => c.recordFault l.dest e)
      | none =>
        if 4 ≤ k ∧ k < 4 + len then
          let rest : Piece := { part := k, va := va + BitVec.ofNat 64 k, n := 4 + len - k }
          let u := (t.updCtx g (fun c => { c with loads := c.loads.map (fun x => if x.key = l.key then { l with how := .fvBody, left := 1 } else x) })).send g
            (.acc { kind := .load, space := space, pieces := [rest], weight := 1, key := l.key })
          u.updMsg s.nextId (fun m => { m with id := id })
        else (drop t).updCtx g (fun c => c.fill l.dest (vfLoaded len w (vfJoin l.got)))
  | _, some (_, e) => (drop s).updCtx g (fun c => c.recordFault l.dest e)
  | .raw n sg, none => regs [(extend n sg (vfJoin l.got), .data)]
  | .granule, none => regs (granRegs l.granTag (vfJoin l.got))
  | .lane, none => ((drop s).updCtx g (fun c => c.fillLanes l.dest l.got)).setFlagsOf g l.flags
  | .fvIx len, none => regs (vfLoaded len l.dest.length (vfJoin l.got))
  | .fvBody, none => let x := vfJoin l.got; regs (vfLoaded (x / 2 ^ 24 % 32 + 1) l.dest.length x)
  | .record n, none => regs (winRegs n (vfJoin l.got))

/-- The fault with the lower part number. -/
def lowerFault (a : Option (Nat × RFault)) (b : List (Nat × RFault)) : Option (Nat × RFault) :=
  b.foldl (fun a x => match a with | some y => if x.1 < y.1 then some x else some y | none => some x) a

/-- A packet of a row of a PEER operand reaches the engine (R191, R385); one for an operation that is over is discarded. -/
def State.rowArrives (s : State) (a : Acc) (cid id : Nat) : State :=
  match (s.coreAt cid).equeue.find? (·.id == id) with
  | none => s
  | some op =>
    match op.fetch with
    | none => s
    | some x =>
      let x : RowFetch := { x with left := x.left - 1, got := x.got ++ a.got, fault := lowerFault x.fault a.faults }
      if x.left = 0 then s.rowEnds op x else s.updOp cid id (fun e => { e with fetch := some x })

/-- The reply of a load part reaches its context (R87), or the engine that fetches a row; one for a firing that has ended is discarded. -/
def State.loadArrives (s : State) (m : Msg) (a : Acc) : State :=
  let t := s.gone m.id
  match a.row with
  | some (cid, id) => t.rowArrives a cid id
  | none =>
  let c := s.ctxAt m.g
  match (if c.fire = m.fire then c.loads.find? (fun l => l.key == a.key) else none) with
  | none => t
  | some l =>
    let l : Load := { l with
      left := l.left - 1, got := l.got ++ a.got, flags := l.flags ||| a.flags
      granTag := l.granTag || a.gtag, fault := lowerFault l.fault a.faults }
    if l.left = 0 then t.deposit m.g m.id l
    else t.updCtx m.g (fun c => { c with loads := c.loads.map (fun x => if x.key = l.key then l else x) })

/-- The reply of a spatial request that is not posted reaches the context that waits for it, or the registers of an SLD (R303, R305, R306, R309, R310).
A query take opens its query; that of a context which no longer waits gives its active-query slot back. -/
def State.spArrives (s : State) (m : Msg) (x : SpReq) (a : Answer) : State :=
  let t := s.gone m.id
  match x.op with
  | .read _ _ key =>
    match (if (s.ctxAt m.g).fire = m.fire then (s.ctxAt m.g).loads.find? (fun l => l.key == key) else none) with
    | some l => t.deposit m.g m.id { l with left := 0, got := [(0, leVal a.bytes)], fault := a.fault.map (fun e => (0, e)) }
    | none => t
  | .take qi q =>
    if x.step ≠ .ended 0 then t.reply m.g m.fire m.id a
    else if (s.ctxAt m.g).fire = m.fire ∧ (s.ctxAt m.g).phase = .sent m.id then
      (t.updCtx m.g (fun c => { c with queries := c.queries.put qi q })).reply m.g m.fire m.id a
    else (t.updHome (fieldKey m.pid x.fld) (fun h => { h with queries := h.queries.drop q.slot })).reclaimField m.pid x.fld
  | _ => t.reply m.g m.fire m.id a

/-- LOAD_REPLY (R87, R257, R310): the reply of a load, of an atomic that returns a value, or of a spatial request (log 84). -/
def execLoadReply (id : Nat) (s : State) : Out :=
  match s.msg id with
  | some m =>
    match m.body, m.stage with
    | .sp x, .answered a => if x.posted || s.behindReply m then .next s else .next (s.spArrives m x a)
    | .acc a, .answered _ => if a.kind.stores || m.path.isSome || s.behindReply m then .next s else .next (s.loadArrives m a)
    | .atom a, .answered x =>
      if a.nr || m.path.isSome || s.behindReply m then .next s else .next ((s.gone id).reply m.g m.fire id x)
    | _, _ => .next s
  | none => .next s

/-! ## Cluster atomics and acknowledgements (R231, R232) -/

/-- CLUSTER_ATOMIC_AT_HOME (R232, R269, R223): one read-modify-write at the home bank; its answer leaves for the context. `eccBad` is an
uncorrectable error in the write-verify. LOCK names the address (R232, where R171 says the lowest locked address: log 57). -/
def execClusterAtomicAtHome (id : Nat) (eccBad : Bool) (s : State) : Out :=
  match s.msg id with
  | some m =>
    match m.body, m.stage, m.homeCore with
    | .atom a, .new, some home =>
      if s.atHomeNow m home then
        let off := a.va.toNat % 2 ^ 19
        let r : State × Answer := match atomHome s home off a.n with
          | .error (c, _) => (s, { fault := some ⟨c, a.va⟩ })
          | .ok () => s.atomAt a m.lid (spad home off) eccBad
        .next (r.1.updMsg id (fun m => m.answer s (1 + home) r.2))
      else .next s
    | _, _, _ => .next s
  | none => .next s

/-- The refusal that an answered store or .NR atomic brings back. -/
def Msg.refusal (m : Msg) : Option RFault :=
  match m.body, m.stage with
  | .acc a, .answered x => (a.faults.head?).map (·.2) |>.orElse (fun _ => x.fault)
  | .atom _, .answered x => x.fault
  | _, _ => none

/-- Whether something in flight is a .NR .FADD that found a value of the ABN class: it is refused under R265, wherever its home is (R267). -/
def Msg.abnRefused (m : Msg) : Bool :=
  match m.body, m.stage with | .atom a, .answered x => a.nr && x.fault.any (fun f => f.cause == .abn) | _, _ => false

/-- Whether a refusal at a scratchpad is recorded under R265: that of an .NR atomic at DEV or SYS (R269), and one of the ABN class (R267). -/
def Msg.devRefused (m : Msg) : Bool :=
  m.abnRefused || (match m.body with | .atom a => a.nr && (a.scp == .dev || a.scp == .sys) | _ => false)

/-- CLUSTER_STORE_ACK (R231): the acknowledgement of a posted store, or .NR atomic, to a scratchpad. The flags that the lanes of a vector store
raised there (R137) reach FCS while their firing lasts, and the cluster's CFU in any case (R141). -/
def execClusterStoreAck (id : Nat) (s : State) : Out :=
  match s.msg id with
  | some m =>
    let posted := match m.body with
      | .acc a => a.kind.stores && decide (a.space < 2)
      | .atom a => a.nr && decide (a.space < 2)
      | _ => false
    if posted && !m.unperformed && !s.behindReply m then
      let t := s.gone id
      let fl : Flags := match m.body with | .acc a => a.flags | _ => 0
      if (s.ctxAt m.g).fire = m.fire then
        .next ((t.updCtx m.g (fun c => if m.devRefused then c.refuseDev m.refusal
          else { c with clusterRef := keepFirst c.clusterRef m.refusal })).setFlagsOf m.g fl)
      else .next (t.unionFlags m.g fl)
    else .next s
  | none => .next s

end Sys2Proof.Machine
end

