-- ==== Sys2Proof/Machine/Cluster.lean ====
section
/-! DEFINITION. Cluster.lean: messages and receives (R235, R236), phasers (R237 to R240), tile tasks (R243 to R247), and the wait
table (R248, R249). What the cluster unit and the core edges do is in ClusterEvents.lean. -/

namespace Sys2Proof.Machine

/-- Misuse of a cluster instruction (R241). -/
def cluMisuse (bad : Bool) (reason : Nat) : Ex Unit := check (!bad) .ill (BitVec.ofNat 64 (2 ^ 61 + reason))

/-- The order of a W (R253): earlier loads, cluster stores, atomics and messages have been performed. -/
def orderW (s : State) : Ex Unit := if s.loadsOut || s.gate || s.cluStoresOut || s.queueOut then .error (.stall s) else .ok ()

/-! ## MAPP and MRECV -/

/-- The cores of a 16-bit mask, ascending. -/
def maskCores (m : Nat) : List Nat := (List.range 16).filter (fun i => m.testBit i)

/-- MAPP (R235): it waits for the context's queued stores to its own scratchpad (R328, log 58); the copies leave together; the answers gather in the phase, accepted cores in [15:0], refused ones in [31:16], and
the instruction waits until every named core has answered. -/
def execMapp (o : Ops) (s : State) : Out := s.settle (do
  let w := s.lo o.b
  let mask := fld w 15 0
  let tag := fld w 19 16
  let n := fld w 23 20
  match s.me.phase with
  | .part _ x =>
    if x % 2 ^ 16 ||| x / 2 ^ 16 = mask then .ok (s.put o.c (BitVec.ofNat 64 x)) else .error (.wait 4 tag s)
  | _ => do
    check88 s [dst o.c, src o.b o.epb]
    numTag s o.b.toNat
    cluMisuse (tag == 0 || tag == 15) 1
    cluMisuse (n == 0 || decide (8 < n)) 2
    cluMisuse (fld w 63 24 != 0) 3
    check (decide (n ≤ 4) || o.a.toNat % 8 == 0) .win (BitVec.ofNat 64 o.a.toNat)
    check88 s [src o.a o.epa n]
    dataTags s ((List.range n).map (o.a.toNat + ·))
    match (maskCores mask).find? (fun c => (s.coreAt (s.clu * 16 + c)).lid != s.me.lid) with
    | some c => .error (.trap .part (BitVec.ofNat 64 (s.clu * 16 + c)))
    | none =>
      if mask = 0 then .ok (s.put o.c 0)
      else if s.streamBusy s.cur || s.queueOut then .error (.stall s)
      else
        let regs := (s.win o.a n).map (·.1)
        let t := (maskCores mask).foldl (fun (t : State) c => t.send s.cur (.packet {
          from_ := s.cur, fire := s.me.fire, to_ := s.clu * 16 + c, tag := tag, msg := true, regs := regs, reply := some s.nextId })) s
        .error (.wait 4 tag (t.setPhase (.part s.nextId 0))))

/-- MRECV (R236). -/
def execMrecv (o : Ops) (s : State) : Out := s.settle (do
  check88 s [dst o.c, dst o.a 8, src o.b o.epb]
  numTag s o.b.toNat
  if 2 ≤ s.me.recvs.length then .error (.wait 6 0 s)
  else
    let hdr := s.me.ix o.c.toNat
    let pay := s.me.ix o.a.toNat
    .ok (s.updMe (fun c => { (c.markEmpty (hdr :: (List.range 8).map (pay + ·))) with
      recvs := c.recvs ++ [{ hdr := hdr, pay := pay, mask := fld (s.lo o.b) 15 0 }] })))

/-! ## Phasers -/

/-- The phaser a register names (R239, R241). -/
def phaserNo (v : Word) : Ex Nat := do
  cluMisuse (decide (63 < v.toNat)) 4
  .ok v.toNat

/-- The membership a phaser instruction needs (R241): reason 5 without one, reason 6 for a mode that is not among those. -/
def memberOf (s : State) (n : Nat) (modes : List Nat) : Ex Member :=
  match (s.phaser s.clu n).member s.cur with
  | none => do cluMisuse true 5; .ok default
  | some m => do cluMisuse (!modes.contains m.mode) 6; .ok m

/-- PHREG (R239). The wait for the cluster unit's answer is not a blocked wait (R240). -/
def execPhreg (o : Ops) (s : State) : Out := s.settle (do
  let (p, w) ← arg2 o s
  let n ← phaserNo p
  cluMisuse (fld w 1 0 == 0 || decide (8 ≤ fld w 5 2) || fld w 63 7 != 0) 8
  ask s (.ok (s.send s.cur (.phaser 0 n w))) (fun a => .ok (s.put o.d (a.data.setWidth 64))))

/-- PHDROP (R239). -/
def execPhdrop (o : Ops) (s : State) : Out := s.settle (do
  let p ← arg1 o s
  let n ← phaserNo p
  ask s (.ok (s.send s.cur (.phaser 1 n 0))) (fun a => .ok (s.put o.d (a.data.setWidth 64))))

/-- The wait of PHWAIT for member m of phaser n (R239): the value written and the member waited. -/
def phaserWait (o : Ops) (s : State) (n : Nat) (m : Member) : Ex State :=
  let p := s.phaser s.clu n
  if !m.completed then .error (.wait 1 n s)
  else
    let f (x : Member) : Member :=
      if x.mode = 2 then { x with mark := p.phase, completed := false } else { x with waited := true }
    let q : Phaser := { p with members := p.members.map (fun x => if x.g = s.cur then f x else x) }
    let t := s.updClu s.clu (fun u => { u with phasers := u.phasers.put n q })
    .ok (t.put o.d (if m.mode = 2 then p.last else m.val))

/-- The signal of PHSIG and PHADV (R239): part 1 of the phase is the wait of a signal held one ahead, part 2 the wait of PHADV;
`after` is what follows the signal, given the phase signalled. -/
def phaserSignal (s : State) (n : Nat) (v : Word) (kind : Nat) (after : State → Word → Ex State) : Ex State :=
  let held := (s.phaser s.clu n).held.any (fun h => h.1 == s.cur)
  let mark := (((s.phaser s.clu n).member s.cur).map (·.mark)).getD 0
  match s.me.phase with
  | .part 1 _ => if held then .error (.wait kind n s) else after s (mark.setWidth 64)
  | .part _ _ => after s (mark.setWidth 64)
  | .done a => if bitAt a.data 64 then .error (.wait kind n (s.setPhase (.part 1 0))) else after s (a.data.setWidth 64)
  | .sent _ => .error (.stall s)
  | .idle => do
    orderW s
    settleStores s false
    .error (.stall ((s.send s.cur (.phaser 2 n v)).setPhase (.sent s.nextId)))

/-- PHSIG (R238, R239). -/
def execPhsig (o : Ops) (s : State) : Out := s.settle (do
  let (p, v) ← arg2 o s
  let n ← phaserNo p
  let _ ← memberOf s n [1, 3]
  phaserSignal s n v 2 (fun t ph => .ok (t.put o.d ph)))

/-- PHWAIT (R239, R253). -/
def execPhwait (o : Ops) (s : State) : Out := s.settle (do
  let p ← arg1 o s
  let n ← phaserNo p
  let m ← memberOf s n [2, 3]
  cluMisuse (m.mode == 3 && m.waited) 7
  orderW s
  phaserWait o s n m)

/-- PHADV (R239): one blocked wait for both. -/
def execPhadv (o : Ops) (s : State) : Out := s.settle (do
  let (p, v) ← arg2 o s
  let n ← phaserNo p
  let _ ← memberOf s n [3]
  phaserSignal s n v 1 (fun t _ =>
    let t := t.setPhase (.part 2 0)
    match (t.phaser t.clu n).member t.cur with
    | some m => phaserWait o t n m
    | none => .error (.wait 1 n t)))

/-! ## Tile tasks -/

/-- The fields of a task record (R243). -/
def recNat (bs : List Byte) (at_ n : Nat) : Nat := leVal ((bs.drop at_).take n)
/-- Descriptor d of a task record: 0 A, 1 B, 2 D. -/
def recDesc (bs : List Byte) (d : Nat) : Quad := BitVec.ofNat 128 (recNat bs (16 * d) 16)
def recInt (bs : List Byte) : Bool := recNat bs 48 1 % 2 == 1
def recSteps (bs : List Byte) : Nat := recNat bs 49 1
def recBump (bs : List Byte) : Nat := recNat bs 52 4
def recId (bs : List Byte) : Nat := recNat bs 56 2 % 1024
/-- The valid dependences. -/
def recDeps (bs : List Byte) : List Nat := [58, 60].filterMap (fun k =>
  let x := recNat bs k 2
  if 0x8000 ≤ x then some (x % 1024) else none)

/-- Tile A or B of a step: OFF advanced by whole bumps (R243). -/
def stepTile (bs : List Byte) (d step : Nat) : Tile :=
  let t := tileOf d (recDesc bs d)
  if d = 2 then t else { t with off := t.off + step * recBump bs }

/-- A tile as an operand, with the bank formats of its home now; the engine may be any of the cluster. -/
def taskOpnd (s : State) (cl : Nat) (t : Tile) (u : TUse) : Opnd := (t, (s.coreAt (t.home (cl * 16))).bfmt.toList, u)

/-- The first reason of R184 for a descriptor of any step: reason and descriptor. A tile of a step that starts past the scratchpad has no bank
whose format could be checked, and only its K extent is compared; it is BOUND when the task is dispatched. -/
def taskReason (s : State) (cl : Nat) (bs : List Byte) : Option (Nat × Nat) :=
  let inside (d i : Nat) : Bool := let t := stepTile bs d i; t.spc == 1 || decide (t.off < 2 ^ 19)
  let steps := List.range (max 1 (recSteps bs))
  let one (d : Nat) (u : TUse) : Option (Nat × Nat) := (if d = 2 then [0] else steps.filter (inside d)).findSome? (fun i =>
    let o := taskOpnd s cl (stepTile bs d i) u
    (tileReason o.1 o.2.1 o.2.2).map (fun r => (r, d)))
  let pair : Option (Nat × Nat) := steps.findSome? (fun i =>
    let a := taskOpnd s cl (stepTile bs 0 i) .mul
    let b := taskOpnd s cl (stepTile bs 1 i) .mul
    if !(inside 0 i && inside 1 i) then (if a.1.kx ≠ b.1.kx then some (4, 0) else none) else
    match pairAll a b with
    | none => some (3, 0)
    | some int => if a.1.kx ≠ b.1.kx ∨ int ≠ some (recInt bs) then some (4, 0) else none)
  (((one 0 .mul).orElse (fun _ => one 1 .mul)).orElse (fun _ => one 2 .drain)).orElse (fun _ => pair)

/-- Reason 10 of R244, with its descriptor. -/
def recordBad (bs : List Byte) : Option Nat :=
  if recNat bs 48 1 / 2 ≠ 0 ∨ recSteps bs = 0 ∨ recNat bs 50 2 ≠ 0 ∨ recNat bs 62 2 ≠ 0 ∨ 1024 ≤ recNat bs 56 2 ∨
     1024 ≤ recNat bs 58 2 % 0x8000 ∨ 1024 ≤ recNat bs 60 2 % 0x8000 ∨ (recDeps bs).contains (recId bs) then some 0
  else (List.range 3).find? (fun d => !(tileOf d (recDesc bs d)).rem)

/-- A task that is not complete. -/
def Task.open_ (t : Task) : Bool := match t.st with | .pending | .running _ => true | _ => false

/-- The task a launch means by an ID: the one enqueued last. -/
def Cluster.task (u : Cluster) (lid : Word) (id : Nat) : Option Task := (u.tasks.filter (fun t => t.lid == lid && t.id == id)).getLast?

/-- The status of TQPUT for a record (R244), the first that applies in the order of its table. -/
def tqStatus (s : State) (bs : List Byte) : Nat :=
  let u := s.cluAt s.clu
  if 256 ≤ (u.tasks.filter Task.open_).length then 1
  else if u.tasks.any (fun t => t.lid == s.me.lid && t.id == recId bs && t.open_) then 2
  else match taskReason s s.clu bs with
    | some (r, d) => 3 + r * 256 + d * 65536
    | none => match recordBad bs with
      | some d => 3 + 10 * 256 + d * 65536
      | none => 0

/-- Enqueues a task: the done bit of its ID is cleared (R244). -/
def State.enqueueTask (s : State) (bs : List Byte) : State :=
  let t : Task := {
    key := s.nextId, g := s.cur, fire := s.me.fire, lid := s.me.lid, pid := s.me.pid.toNat, id := recId bs, deps := recDeps bs, bytes := bs }
  { s.updClu s.clu (fun u => { u with
      tasks := u.tasks.filter (fun x => !(x.lid == t.lid && x.id == t.id && x.joined)) ++ [t] }) with nextId := s.nextId + 1 }

/-- TQPUT (R244). -/
def execTqput (o : Ops) (s : State) : Out := s.settle (do
  check88 s [dst o.d, src o.b o.epb 2]
  capTag s o.b
  let c := s.capAt o.b
  let a := c.cur
  capPerm s c a [pRD]
  capSpace c a [0, 1]
  capBound c a 64
  check (a.toNat % 16 == 0) .align a
  let use (bs : List Byte) : Ex State :=
    let st := tqStatus s bs
    .ok ((if st = 0 then s.enqueueTask bs else s).put o.d (BitVec.ofNat 64 st))
  let order : Ex Unit := do
    orderW s
    settleStores s false
  if s.isOwn c.spc a then do
    order
    ownCheck s a 64 false
    use (ownRead s a 64)
  else
    let req : Ex State := do
      order
      .ok (s.issueLoad .load c.spc [{ part := 0, va := a, n := 64 }] [] (.answer 64))
    rpc s 6 0 req (fun x => match x.fault with
      | some f => .error (.trap f.cause f.val)
      | none => use x.bytes))

/-- Joins tasks (R247): releases their locks, ORs their flags into FCS, and reports the failure of the earliest failed one. -/
def State.joinTasks (s : State) (ts : List Task) : State × Option RFault :=
  let fl : Flags := ts.foldl (fun x t => x ||| t.flags) 0
  let t := ts.foldl (fun (s : State) t => s.unlock t.key) s
  let keys := ts.map (·.key)
  ((t.updClu s.clu (fun u => { u with tasks := u.tasks.map (fun t => if keys.contains t.key then { t with joined := true } else t) })).updMe
    (fun c => { c with fcs := c.fcs ||| (fl.setWidth 64 <<< 4) }),
   ts.findSome? (fun t => match t.st with | .failed f => some f | _ => none))

/-- The tasks of a context's firing that no context has joined. -/
def State.myTasks (s : State) : List Task :=
  (s.cluAt s.clu).tasks.filter (fun t => t.g == s.cur && t.fire == s.me.fire && !t.joined)

/-- Joins complete tasks and writes a number, or reports. -/
def joinAndWrite (o : Ops) (s : State) (ts : List Task) (n : Nat) : Ex State :=
  match s.joinTasks ts with
  | (t, some f) => .error (.report f.cause f.val t)
  | (t, none) => .ok (t.put o.d (BitVec.ofNat 64 n))

/-- TQWAIT (R247). -/
def execTqwait (o : Ops) (s : State) : Out := s.settle (do
  let v ← arg1 o s
  orderW s
  match (s.cluAt s.clu).task s.me.lid (fld v 9 0) with
  | none => .error (.wait 5 0 s)
  | some t => if t.open_ then .error (.wait 5 0 s) else joinAndWrite o s (if t.joined then [] else [t]) 0)

/-- TQWAIT.ALL (R247). -/
def execTqwaitAll (o : Ops) (s : State) : Out := s.settle (do
  check88 s [dst o.d]
  orderW s
  if s.myTasks.any Task.open_ then .error (.wait 5 0 s) else joinAndWrite o s s.myTasks s.myTasks.length)

/-! ## The wait table -/

/-- The wait-table entry of context g (R248). -/
def State.waitEntry (s : State) (g : Nat) : Word :=
  match (if (s.ctxAt g).waits then (s.ctxAt g).wait else none) with
  | none => 0
  | some w => BitVec.ofNat 64 (1 + w.kind * 2 + w.obj % 64 * 16 + w.since % 2 ^ 48 * 2 ^ 16)

/-- WAITT.READ (R249). -/
def execWaittRead (o : Ops) (s : State) : Out := s.settle (do
  let v ← arg1 o s
  .ok (s.put o.d (s.waitEntry (s.clu * 64 + fld v 5 0))))

/-- WAITT.ARM (R249). -/
def execWaittArm (o : Ops) (s : State) : Out := s.settle (do
  let v ← arg1 o s
  if s.isSupervisor s.cid then
    .ok ((s.updClu s.clu (fun u => { u with monLimit := fld v 39 0 })).put o.d (BitVec.ofNat 64 (s.cluAt s.clu).monLimit))
  else .ok (s.put o.d (BitVec.allOnes 64)))

end Sys2Proof.Machine
end

