-- ==== Sys2Proof/Machine/Routes.lean ====
section
/-! DEFINITION. Routes.lean: the ways of the mesh and between dies (R17, R256), where what is in flight may be on them (R252), and the streams that
hold them and break with them (R281, R284). -/

namespace Sys2Proof.Machine

/-! ## Ways -/

/-- Column and row of a core's router on its die (R17). -/
def meshCol (cid : Nat) : Nat := cid / 16 % 4 * 4 + cid % 4
def meshRow (cid : Nat) : Nat := cid / 64 % 4 * 4 + cid / 4 % 4

/-- The links of a way along a row of a die (R256): skips of four columns, then single hops. A link number is ((die × 256 + router) × 8 +
direction). -/
def rowLinks (base : Nat) : Nat → Nat → Nat → Nat → List Nat
  | 0, _, _, _ => []
  | k + 1, row, c, tc =>
    if c + 4 ≤ tc then (base + (row * 16 + c) * 8 + 4) :: rowLinks base k row (c + 4) tc
    else if tc + 4 ≤ c then (base + (row * 16 + c) * 8 + 5) :: rowLinks base k row (c - 4) tc
    else if c < tc then (base + (row * 16 + c) * 8 + 1) :: rowLinks base k row (c + 1) tc
    else if tc < c then (base + (row * 16 + c) * 8 + 3) :: rowLinks base k row (c - 1) tc
    else []

/-- The links of a way along a column of a die. -/
def colLinks (base : Nat) : Nat → Nat → Nat → Nat → List Nat
  | 0, _, _, _ => []
  | k + 1, col, r, tr =>
    if r < tr then (base + (r * 16 + col) * 8 + 2) :: colLinks base k col (r + 1) tr
    else if tr < r then (base + (r * 16 + col) * 8) :: colLinks base k col (r - 1) tr
    else []

/-- The links of the way from one router (row × 16 + column) of a die to another (R256): along the row, then along the column. -/
def dieWay (die a b : Nat) : List Nat :=
  rowLinks (die * 2048) 16 (a / 16) (a % 16) (b % 16) ++ colLinks (die * 2048) 16 (b % 16) (a / 16) (b / 16)

/-- The router of a core on its die. -/
def meshRouter (cid : Nat) : Nat := meshRow cid * 16 + meshCol cid

/-- The n-th of the 60 routers at the edge of a die: the top row, the bottom row, and what is left of the left and the right column. -/
def edgeRouter (n : Nat) : Nat :=
  if n < 16 then n else if n < 32 then 240 + (n - 16) else if n < 46 then 16 * (n - 31) else 16 * (n - 45) + 15

/-- The router at whose edge the link from a die to another leaves (R256): which of those at the edge it is, is the device's (log 24). -/
def dieExit (a b : Nat) : Nat := edgeRouter (Config.dieExit a b % 60)

/-- The links of the way from router a of die x to router b of die y (R256): on one die the way between them; else the way to the link of the two
dies, that link, and the way on the far die. -/
def meshWay (x a y b : Nat) : List Nat :=
  if x = y then dieWay x a b else dieWay x a (dieExit x y) ++ (8 * 2048 + x * 8 + y) :: dieWay y (dieExit y x) b

/-- The links of the route from one core to another. -/
def strRoute (a b : Nat) : List Nat := meshWay (a / 256) (meshRouter a) (b / 256) (meshRouter b)

/-- The router that a slice of a die stands at (R17): slices 0 to 15 along row 0, slices 16 to 31 along row 15, slice n in column n mod 16. -/
def sliceRouter (n : Nat) : Nat := if n < 16 then n else 240 + (n - 16)

/-- The link from that router to slice k, numbered 32 × die + slice; its direction is 6. -/
def sliceLink (k : Nat) : Nat := (k / 32 * 256 + sliceRouter (k % 32)) * 8 + 6

/-- The links from a core to a slice, from a slice to a core, and between slices, which hold the stations too (R256, R259). -/
def wayToSlice (c k : Nat) : List Nat := meshWay (c / 256) (meshRouter c) (k / 32) (sliceRouter (k % 32)) ++ [sliceLink k]
def wayFromSlice (k c : Nat) : List Nat := meshWay (k / 32) (sliceRouter (k % 32)) (c / 256) (meshRouter c)
def sliceWay (j k : Nat) : List Nat :=
  if j = k then [] else meshWay (j / 32) (sliceRouter (j % 32)) (k / 32) (sliceRouter (k % 32)) ++ [sliceLink k]

/-- The core whose router a link leaves. -/
def linkCore (l : Nat) : Nat :=
  let p := l / 8 % 256
  l / 2048 * 256 + (p / 16 / 4 * 4 + p % 16 / 4) * 16 + (p / 16 % 4 * 4 + p % 16 % 4)

/-- The core of a router of a die. -/
def routerCore (die r : Nat) : Nat := linkCore ((die * 256 + r) * 8)

/-- The routers a route passes, as cores. -/
def strCores (a b : Nat) : List Nat :=
  a :: b :: ((strRoute a b).filter (· < 8 * 2048)).map linkCore ++
  (if a / 256 = b / 256 then [] else [routerCore (a / 256) (dieExit (a / 256) (b / 256)), routerCore (b / 256) (dieExit (b / 256) (a / 256))])

/-- Whether a link leaves a cluster (R252): it starts at a router of the cluster and ends outside. A skip, the link to a slice and the link to another
die always do. -/
def linkLeaves (cl l : Nat) : Bool :=
  if 8 * 2048 ≤ l then
    let d := l - 8 * 2048
    routerCore (d / 8) (dieExit (d / 8) (d % 8)) / 16 == cl
  else linkCore l / 16 == cl && (match l % 8 with
    | 0 => l / 128 % 4 == 0
    | 1 => l / 8 % 4 == 3
    | 2 => l / 128 % 4 == 3
    | 3 => l / 8 % 4 == 0
    | _ => true)

/-! ## What is on a way -/

/-- The DEVICE address of a request, which its station translates. -/
def Msg.devAddr (m : Msg) : Option Word :=
  match m.body with
  | .acc a => if a.space = 2 then (a.pieces.head?).map (·.va) else none
  | .atom a => if a.space = 2 then some a.va else none
  | _ => none

/-- The station of a request: VPN mod 32 on the requester's die (R259). -/
def Msg.station (m : Msg) : Option Nat := m.devAddr.map (fun va => m.g / 1024 * 32 + fld va 20 16)

/-- The station of a request, as the place that an answer comes from (R257). -/
def Msg.stationSource (m : Msg) : Nat := 8192 + m.station.getD 0

/-- The home slice of a physical address (R258). -/
def sliceOf (phys : Nat) : Nat := phys / 256 % 32 + 32 * (phys / 2 ^ 35 % 8)

/-- No core: a request that the directory itself has ended. -/
def noCore : Nat := 2 ^ 11

/-- Where the answer to a spatial request comes from (R257): its owner, or the slice of the field's home for what ends there. -/
def SpReq.source (x : SpReq) : Nat :=
  match x.op with
  | .take .. => 4096 + sliceOf x.home
  | _ => if x.owner = noCore then 4096 + sliceOf x.home else 1 + x.owner

/-- The way of an answer from a place to the core of a context: from a core, a slice or a station; that from the application die is not known. -/
def answerWay (src g : Nat) : List Nat :=
  if src = 0 ∨ 16384 ≤ src then [] else if src ≤ 2048 then strRoute (src - 1) (g / 4) else wayFromSlice ((src - 4096) % 4096) (g / 4)

/-- The way of a spatial request of a core in its present step (R301, R303, R305, R306): to its owner, unless the owner has taken it up, to the
directory, on to the owner that it or a tombstone has named, with a haul to the new owner, or back. -/
def SpReq.way (x : SpReq) (core : Nat) (taken : Bool) : List Nat :=
  let home := sliceOf x.home
  match x.op, x.step with
  | .take .., .owner => wayToSlice core home
  | _, .owner =>
    if taken then []
    else match x.via with
      | some c => strRoute c x.owner
      | none => if x.named then wayFromSlice home x.owner else strRoute core x.owner
  | _, .dir => wayToSlice (x.via.getD core) home
  | _, .moving to_ => strRoute x.owner to_
  | _, .settling .. => answerWay x.source (4 * core)
  | _, _ => []

/-- The links that something in flight may be on now, as far as the spec gives its way; of an answer, on the way to the core of context g. -/
def State.wayOf (s : State) (m : Msg) (g : Nat) : List Nat :=
  match m.stage, m.body with
  | .answered _, _ => answerWay m.from_ g
  | .home p, _ => (m.station.map (fun k => sliceWay k (sliceOf p))).getD []
  | .new, .packet p => strRoute (p.from_ / 4) p.to_
  | .new, .spawn target .. => strRoute (m.g / 4) target
  | .new, .sp x => x.way (m.g / 4) (s.cores.any (fun e => e.2.pool.any (fun p => p.2.busy == some m.id || p.2.queue.contains m.id)))
  | .new, _ => (m.station.map (wayToSlice (m.g / 4))).getD []
  | _, _ => []

/-! ## Streams that break (R284) -/

/-- Whether a router on the route of a stream of context g is fenced or in reset (R284). -/
def State.streamCut (s : State) (g : Nat) (x : Stream) : Bool := (strCores (g / 4) x.target).any (fun c => !(s.coreAt c).open_)

/-- A saved context's stream on a route that is cut is broken (R284). -/
def SavedCluster.breakStream (x : SavedCluster) (s : State) (g : Nat) : SavedCluster :=
  { x with ctxs := x.ctxs.map (fun e => if e.1 = g ∧ e.2.stream.any (s.streamCut g) then
      (g, { e.2 with stream := e.2.stream.map (fun y => { y with broken := true }) }) else e) }

/-- The stream of a context, or of a saved one, on a route that is cut is broken, and its packets in flight are discarded (R252, R284). -/
def State.breakStream (s : State) (g : Nat) : State :=
  let t : State := { s with launches := s.launches.map (fun l => { l with saved := l.saved.map (fun x => x.breakStream s g) }) }
  match (t.ctxAt g).stream with
  | none => t
  | some x =>
    if !t.streamCut g x then t
    else
      let mine (p : Packet) : Bool := p.ofStream g (t.ctxAt g).fire
      let t : State := { t with net := t.net.filter (fun m => match m.body with | .packet p => !mine p | _ => true) }
      let t := t.updClu (g / 64) (fun u => { u with returned := u.returned.filter (fun p => !mine p) })
      t.updCtx g (fun c => { c with stream := some { x with broken := true } })

/-- The contexts that hold a stream, or held one when they were saved. -/
def State.streamers (s : State) : List Nat :=
  (s.ctxs.filter (fun e => e.2.stream.isSome)).map (·.1) ++
  s.launches.flatMap (fun l => l.saved.flatMap (fun x => (x.ctxs.filter (fun e => e.2.stream.isSome)).map (·.1)))

/-- A router closes, by a fence or a reset: every stream whose route it cuts is broken (R284). -/
def State.cutStreams (s : State) : State := s.streamers.foldl State.breakStream s

end Sys2Proof.Machine
end

