-- ==== Sys2Proof/Machine/ClusterEvents.lean ====
section
/-! DEFINITION. ClusterEvents.lean: packets at the core edges (R52, R63, R234), spawns (R70), neighbour writes (R105), heartbeat and
wait timeouts (R58, R59), receives (R236), phaser requests (R238, R239), tile tasks (R245, R246), hang detection (R250), the flag
union (R141) and cluster reset (R251). -/

namespace Sys2Proof.Machine

/-! ## Packets (R52, R63, R234) -/

/-- The routed input that a tag fills (R52). -/
def Core.routedInput (k : Core) (tag : Nat) : Option Fifo :=
  k.actors.findSome? (fun e => (e.2.used.find? (fun f => decide (f.1 < 4) && f.2.bind == 2 && f.2.tag == tag)).map (·.2))

/-- Number of slots and base of the inbox ring (R233). -/
def Core.ildSlots (k : Core) : Nat := fld k.ild 29 20
def Core.ildBase (k : Core) : Nat := fld k.ild 18 0
/-- Offset of an inbox slot (R234). -/
def Core.slotAt (k : Core) (n : Nat) : Nat := k.ildBase + 144 * n

/-- A free slot of the inbox ring whose bytes are not locked (R234). -/
def Core.freeSlot (k : Core) : Option Nat :=
  (List.range k.ildSlots).find? (fun n => !k.inbox.any (·.1 == n) && (k.lockedAt (k.slotAt n) 144).isNone)

/-- Where a packet can be delivered now. -/
inductive Landing | fifo (f : Fifo) | slot (n : Nat) | no
  deriving DecidableEq, Repr, Inhabited

/-- Delivery at the edge of a core (R63, R234). -/
def Core.landing (k : Core) (p : Packet) : Landing :=
  if !k.tagsEn.getLsbD p.tag then .no
  else match k.routedInput p.tag with
    | some f => if (k.rings.get {} f.ring).occ < f.cap then .fifo f else .no
    | none => if p.msg then (match k.freeSlot with | some n => .slot n | none => .no) else .no

/-- The payload of a packet as bytes. -/
def Packet.payload (p : Packet) : List Byte := p.bytes ++ p.regs.flatMap (fun q => leBytes 16 q.toNat)

/-- Bytes cut or padded with zero to a length (R234). -/
def fitBytes (n : Nat) (bs : List Byte) : List Byte := bs.take n ++ List.replicate (n - bs.length) 0

/-- The 144 bytes of an inbox slot (R234). -/
def slotBytes (p : Packet) (serial : Nat) : List Byte :=
  leBytes 4 (p.from_ / 4 + p.from_ % 4 * 2 ^ 11 + p.tag * 2 ^ 16 + p.regs.length * 2 ^ 20) ++ leBytes 4 serial ++ leBytes 8 0 ++
  fitBytes 128 p.payload

/-- Sets the event bits of a core's contexts (R60) and tells the hang monitor that a message was accepted or taken (R250). -/
def State.coreEvent (s : State) (cid : Nat) : State :=
  ((List.range 4).foldl (fun s i => s.updCtx (4 * cid + i) (fun c => { c with event := true })) s).updClu (cid / 16) (fun u => { u with hang := 0 })

/-- What the acceptance of a packet, or its refusal, answers: MAPP hears of it, and the slot of a routed output is free (R52, R235); a token of
an earlier content of the ring frees none. -/
def State.accepted (s : State) (p : Packet) (ok : Bool) : State :=
  match p.reply, p.token with
  | some req, _ => s.sendReply p.from_ p.fire (1 + p.to_) (.mappReply req p.to_ ok)
  | none, some (cid, ring, gen) => s.updCore cid (fun k =>
      let r := k.rings.get {} ring
      if r.flight = 0 ∨ r.gen ≠ gen then k
      else { k with rings := k.rings.put ring { r with occ := r.occ - 1, head := r.head + 1, flight := r.flight - 1 } })
  | none, none => s

/-- An edge takes a packet and holds it: that counts as accepted (R63, R235, R250). -/
def State.holdAt (s : State) (p : Packet) : State :=
  (((s.updCore p.to_ (fun k => { k with edge := k.edge ++ [p] })).updClu (p.to_ / 16) (fun u => { u with hang := 0 })).accepted p true)

/-- Puts a packet where it lands. DESIGN CHOICE (log 82): the arrival serial is given, and the messages of R236 are ordered, when a slot is written;
what becomes a token, or is held at the edge, takes none before. -/
def State.land (s : State) (p : Packet) : Landing → State
  | .no => s
  | .fifo f =>
    let r := (s.coreAt p.to_).rings.get {} f.ring
    ((s.edgeWrite p.to_ (f.ring + (r.head + r.occ) % f.cap * f.size) (fitBytes f.size p.payload)).updCore p.to_ (fun k =>
      { k with rings := k.rings.put f.ring { r with occ := r.occ + 1 } })).coreEvent p.to_
  | .slot n =>
    let k := s.coreAt p.to_
    ((s.edgeWrite p.to_ (k.slotAt n) (slotBytes p k.arrivals)).updCore p.to_ (fun k =>
      { k with inbox := k.inbox ++ [(n, p.tag)], arrivals := (k.arrivals + 1) % 2 ^ 32 })).coreEvent p.to_

/-- A packet of the same tag is held at the edge, so that later ones wait behind it. -/
def Core.holds (k : Core) (tag : Nat) : Bool := k.edge.any (·.tag == tag)

/-- What happens to a packet that has reached the edge of its core, unless it lands in the inbox ring, when `ring` says so: it is
delivered, held, or returned to the cluster unit of its sender (R63). -/
def State.atEdge (s : State) (p : Packet) (ring : Bool) : Option State :=
  let k := s.coreAt p.to_
  let back := ((s.cluAt (p.from_ / 64)).returned.any (fun q => q.from_ / 4 == p.from_ / 4 && q.to_ == p.to_ && q.tag == p.tag))
  let hold : Option State :=
    if ring then none
    else if back || 16 ≤ (k.edge.filter (·.tag == p.tag)).length then
      some (s.updClu (p.from_ / 64) (fun u => { u with returned := u.returned ++ [p] }))
    else some (s.holdAt p)
  if back || k.holds p.tag then hold
  else match k.landing p with
    | .no => hold
    | .slot n => if ring then some ((s.land p (.slot n)).accepted p true) else none
    | x => if ring then none else some ((s.land p x).accepted p true)

/-- Whether the earlier accesses that a message follows have been performed (R81, R253). -/
def State.behindAccess (s : State) (m : Msg) (cid : Nat) : Bool :=
  s.behind m (fun x => x.fire == m.fire && (x.isLoad m.g m.fire || x.homeCore == some cid || x.isFirst))

/-- An earlier packet of the same class from the same core to the same core is still under way (R235, R257): a fault message follows fault
messages, and the others follow packets and spawns. -/
def State.behindPacket (s : State) (m : Msg) (fault : Bool) (to_ : Nat) : Bool :=
  s.net.any (fun x => decide (x.id < m.id) && x.g / 4 == m.g / 4 && x.goesTo fault to_)

/-- A packet reaches its core. A fault message leaves a fenced core (R58); nothing else does. A fenced core takes nothing: the cluster unit
refuses a message for it, a token waits, and a fault message for it is discarded (log 18). What arrives for a core in reset is discarded
(R251). -/
def packetArrives (ring : Bool) (id : Nat) (s : State) : Out :=
  match s.msg id with
  | some m =>
    match m.body with
    | .packet p =>
      if (!p.isFault && (s.coreAt (p.from_ / 4)).fenced) || (p.msg && s.behindAccess m p.to_) then .next s
      else if !(s.coreAt p.to_).open_ then
        if ring || (p.token.isSome && !(s.coreAt p.to_).resetting) then .next s
        else if p.reply.isSome then .next ((s.gone id).accepted p false) else .next (s.gone id)
      else if s.behindPacket m p.isFault p.to_ then .next s
      else match s.atEdge p ring with
        | some t => .next (t.gone id)
        | none => .next s
    | _ => .next s
  | none => .next s

/-- ROUTED_PACKET_ARRIVAL (R63): a packet becomes a token, is held at the edge, or is returned. -/
def execRoutedPacketArrival (id : Nat) (s : State) : Out := packetArrives false id s

/-- INBOX_DELIVERY (R234): a message is written into the inbox ring. -/
def execInboxDelivery (id : Nat) (s : State) : Out := packetArrives true id s

/-- HELD_PACKET_DELIVERY (R63): the oldest packet that a core's edge holds for a tag. -/
def execHeldPacketDelivery (cid tag : Nat) (s : State) : Out :=
  let k := s.coreAt cid
  match k.edge.find? (·.tag == tag) with
  | some p =>
    match k.open_, k.landing p with
    | true, .no => .next s
    | true, x =>
      .next ((s.updCore cid (fun k => { k with edge := k.edge.eraseP (·.tag == tag) })).land p x)
    | false, _ => .next s
  | none => .next s

/-- PACKET_REOFFER (R63): the cluster unit offers the oldest returned packet again when the edge has a place, whether or not its sender has
been fenced since: it left the sender's core before. For a target that is fenced or in reset by now, it answers a MAPP with a refusal (R235),
and a reset discards (R251). -/
def execPacketReoffer (cl cid tag : Nat) (s : State) : Out :=
  let mine (p : Packet) : Bool := p.to_ == cid && p.tag == tag
  match (s.cluAt cl).returned.find? mine with
  | some p =>
    let t := s.updClu cl (fun u => { u with returned := u.returned.eraseP mine })
    if !(s.coreAt cid).open_ then
      (if p.reply.isSome then .next (t.accepted p false) else if (s.coreAt cid).resetting then .next t else .next s)
    else if 16 ≤ ((s.coreAt cid).edge.filter (·.tag == tag)).length then .next s
    else .next (t.holdAt p)
  | none => .next s

/-- OUTPUT_DRAIN (R52): the next token of a routed output leaves as a packet; its slot stays taken until the packet is accepted. -/
def execOutputDrain (cid act out : Nat) (s : State) : Out :=
  let k := s.coreAt cid
  let f := ((k.actors.find act).map (fun a => a.fifos.getD (4 + out % 4) default)).getD default
  let r := k.rings.get {} f.ring
  if f.rate = 0 ∨ f.bind ≠ 2 ∨ r.occ ≤ r.flight ∨ !k.open_ then .next s
  else
    let bs := s.bytesAt (spad cid (f.ring + (r.head + r.flight) % f.cap * f.size)) f.size
    .next ((s.send (4 * cid) (.packet { from_ := 4 * cid, to_ := f.dst, tag := f.tag, bytes := bs, token := some (cid, f.ring, r.gen) })).updCore cid
      (fun k => { k with rings := k.rings.put f.ring { r with flight := r.flight + 1 } }))

/-- MAPP_ACCEPTANCE_REPLY (R235): one core's answer reaches the sender, in the order of the class RSP (R257). -/
def execMappAcceptanceReply (id : Nat) (s : State) : Out :=
  match s.msg id with
  | some m =>
    match m.body with
    | .mappReply req core ok =>
      if s.behindReply m then .next s else
      let t := s.gone id
      let c := s.ctxAt m.g
      match c.phase with
      | .part k x =>
        if c.fire = m.fire ∧ k = req then
          .next (t.updCtx m.g (fun c => { c with phase := .part k (x ||| 2 ^ (core % 16 + if ok then 0 else 16)) }))
        else .next t
      | _ => .next t
    | _ => .next s
  | none => .next s

/-! ## Spawns (R70) -/

/-- SPAWN_ARRIVAL (R70): the target accepts or bounces; the answer goes back from there (R257). For a fenced or resetting target its cluster
unit bounces at once; the order behind earlier accesses and packets (R81, R257) is that of an arrival at the core. -/
def execSpawnArrival (id : Nat) (s : State) : Out :=
  match s.msg id with
  | some m =>
    match m.body with
    | .spawn target pc lid args =>
      if (s.coreAt (m.g / 4)).fenced || ((s.coreAt target).open_ && (s.behindAccess m target || s.behindPacket m false target)) then .next s
      else
        let k := s.coreAt target
        let t := s.gone id
        if k.open_ && k.tagsEn.getLsbD 0 && decide (k.spawnFifo.length < 8) && k.lid == lid then
          .next (((t.updCore target (fun k => { k with spawnFifo := k.spawnFifo ++ [{ pc := pc, lid := lid, args := args }] })).coreEvent target).sendReply
            m.g m.fire (1 + target) (.spawnReply id 0))
        else .next (t.sendReply m.g m.fire (1 + target) (.spawnReply id 1))
    | _ => .next s
  | none => .next s

/-- SPAWN_REPLY (R70): the answer enters the core in the order of the class RSP (R257), and a fenced core not at all (R58). -/
def execSpawnReply (id : Nat) (s : State) : Out :=
  match s.msg id with
  | some m =>
    match m.body with
    | .spawnReply req st => if s.behindReply m then .next s else .next ((s.gone id).reply m.g m.fire req { data := BitVec.ofNat 128 st })
    | _ => .next s
  | none => .next s

/-! ## Heartbeats, waits, neighbour links -/

/-- HEARTBEAT_MISS (R58): the core is fenced, if it is not yet, the streams that pass its router break (R284), and fault messages go to the
supervisor and the neighbours, once for each miss. -/
def execHeartbeatMiss (g : Nat) (s : State) : Out :=
  let c := s.ctxAt g
  if c.busy && c.hb == 0 && !c.missed then
    .next ((((s.updCtx g (fun c => { c with missed := true })).updCore (g / 4) (fun k => { k with fenced := true })).cutStreams).faultMsg g 1 0 c.pc)
  else .next s

/-- WAIT_TIMEOUT (R59): WTO with the clk waited. -/
def execWaitTimeout (g : Nat) (s : State) : Out :=
  match (s.ctxAt g).wait with
  | some w => if w.left = 0 ∧ (s.ctxAt g).waits then .next (s.takeTrap g .wto (BitVec.ofNat 64 w.waited) false w.ilen) else .next s
  | none => .next s

/-- NEIGHBOUR_WRITE_LAND (R105). -/
def execNeighbourWriteLand (cid : Nat) (dir : Dir) (s : State) : Out :=
  if (s.coreAt cid).resetting then .next s else .next (s.landNb cid dir)

/-! ## Receives (R236) -/

/-- MRECV_DELIVERY (R236): the oldest pending receive takes the oldest message that matches; a poisoned word of the slot is recorded on the
registers (R87). DESIGN CHOICE (log 82): where gH lies in the window gP:8 the payload is written first and the header last, so that gH ends with the
header. -/
def execMrecvDelivery (g : Nat) (s : State) : Out :=
  let cid := g / 4
  let k := s.coreAt cid
  match (s.ctxAt g).recvs with
  | [] => .next s
  | r :: rest =>
    match k.inbox.find? (fun e => r.mask == 0 || r.mask.testBit e.2) with
    | none => .next s
    | some e =>
      let off := k.slotAt e.1
      let word (i : Nat) : Quad × Tag := (BitVec.ofNat 128 (s.numAt (spad cid (off + 16 * i)) 16), .data)
      let pois := s.poisonedAt (spad cid off) 144
      let put (c : Ctx) : Ctx := match pois with
        | some l => c.recordFault ((List.range 8).map (r.pay + ·) ++ (if r.hdr = 0 then [] else [r.hdr])) ⟨.pois, BitVec.ofNat 64 (l - spad cid 0)⟩
        | none => (c.fill ((List.range 8).map (r.pay + ·)) ((List.range 8).map (fun i => word (i + 1)))).fill [r.hdr] [word 0]
      .next (((s.updCtx g (fun c => { put c with recvs := rest })).updCore cid (fun k => { k with inbox := k.inbox.erase e })).updClu (cid / 16)
        (fun u => { u with hang := 0 }))

/-! ## Phaser requests (R238, R239) -/

/-- PHREG at the cluster unit (R239): the answer and the state. -/
def phaserJoin (s : State) (g n : Nat) (lid w : Word) : Quad × State :=
  let cl := g / 64
  let p := s.phaser cl n
  let mode := fld w 1 0
  let op := fld w 5 2
  if (p.member g).isSome then (1, s)
  else if !p.members.isEmpty ∧ p.lid ≠ lid then (4, s)
  else if !p.members.isEmpty ∧ p.op ≠ op then (2, s)
  else if 8 ≤ ((s.cluAt cl).phasers.filter (fun e => (e.2.member g).isSome)).length then (3, s)
  else
    let next := bitAt w 6
    let ph := if next then p.phase + 1 else p.phase
    let q : Phaser := { (if p.members.isEmpty then { op := op, lid := lid } else p) with
      members := p.members ++ [{ g := g, mode := mode, counts := !next, mark := ph }] }
    (BitVec.ofNat 128 (ph.toNat * 2 ^ 32), s.putPhaser cl n q)

/-- Whether an earlier phaser request of the same core has not been taken by the cluster unit yet (R257). -/
def State.behindPhaser (s : State) (m : Msg) : Bool :=
  s.net.any (fun x => decide (x.id < m.id) && x.g / 4 == m.g / 4 && (match x.body with | .phaser .. => true | _ => false))

/-- PHASER_REQUEST (R238, R239): the cluster unit takes a request, those of one core in the order sent (R257). A signal that is held one ahead is
answered with bit 64 set. DESIGN CHOICE (log 78): the requests of a fenced core to its own cluster unit, tile tasks among them, and the answers cross
the fence; R58 fences the core from the mesh, and the spec does not say that they travel on it. -/
def execPhaserRequest (id : Nat) (s : State) : Out :=
  match s.msg id with
  | some m =>
    match m.body with
    | .phaser op n v =>
      let t := s.gone id
      let cl := m.g / 64
      let p := t.phaser cl n
      if s.behindPhaser m then .next s
      else if (t.ctxAt m.g).fire ≠ m.fire then .next t
      else match op with
        | 0 => let r := phaserJoin t m.g n m.lid v; .next (r.2.reply m.g m.fire id { data := r.1 })
        | 1 =>
          match p.member m.g with
          | none => .next (t.reply m.g m.fire id { data := 1 })
          | some _ => .next ((t.dropMember m.g n).reply m.g m.fire id { data := 0 })
        | _ =>
          match p.member m.g with
          | none => .next t
          | some x =>
            if x.counts && !x.flag then
              .next ((t.putPhaser cl n (p.contribute m.g v)).reply m.g m.fire id { data := p.phase.setWidth 128 })
            else .next ((t.putPhaser cl n { p with held := p.held ++ [(m.g, v)] }).reply m.g m.fire id { data := BitVec.ofNat 128 (2 ^ 64) })
    | _ => .next s
  | none => .next s

/-! ## Tile tasks (R245, R246) -/

/-- The keys of the tasks a task depends on, directly or through a chain. -/
def chainKeys (u : Cluster) : Nat → Task → List Nat
  | 0, _ => []
  | k + 1, t => t.deps.flatMap (fun d => match u.task t.lid d with | some x => x.key :: chainKeys u k x | none => [])

/-- The failure of a dependence. -/
def Cluster.depFailure (u : Cluster) (t : Task) : Option RFault :=
  t.deps.findSome? (fun d => (u.task t.lid d).bind (fun x => match x.st with | .failed f => some f | _ => none))

/-- Whether every dependence has completed without fault (R245). -/
def Cluster.ready (u : Cluster) (t : Task) : Bool :=
  t.st == .pending && t.deps.all (fun d => (u.task t.lid d).any (fun x => x.st == .done))

/-- Whether the engine of a core is free for a launch's task (R245). -/
def State.engineFree (s : State) (cid : Nat) (lid : Word) : Bool :=
  let k := s.coreAt cid
  k.open_ && k.lid == lid && !k.equeue.any (fun e => e.set == 1 && !e.fin)

/-- The ranges of one operand over all the steps: its tile, and its scales bank by bank. DESIGN CHOICE (log 69): one range from the first byte of
any step's tile to the last, so that the gaps between the steps' tiles are locked too. -/
def stepRanges (l : List (List LRange)) : List LRange :=
  hull (l.filterMap (·.head?)) ++
  (List.range 16).flatMap (fun b => hull (l.flatMap (fun rs => rs.drop 1 |>.filter (fun r => r.base / 0x8000 == b))))

/-- The operands of every step of a task, A and B, and its destination, with the formats sampled now. -/
def taskOps (s : State) (cl : Nat) (bs : List Byte) : List (Opnd × Opnd) × Opnd :=
  ((List.range (recSteps bs)).map (fun i => (taskOpnd s cl (stepTile bs 0 i) .mul, taskOpnd s cl (stepTile bs 1 i) .mul)),
   taskOpnd s cl (stepTile bs 2 0) .drain)

/-- The checks that a direct issue of a task's operations makes (R184, R196, R246). -/
def taskCheck (s : State) (cl : Nat) (lid : Word) (bs : List Byte) : Option RFault :=
  match taskReason s cl bs with
  | some (r, d) => some ⟨.ill, illVal d r⟩
  | none =>
    let (ab, d) := taskOps s cl bs
    let l := ab.flatMap (fun e => [e.1, e.2]) ++ [d]
    let placed : Option RFault := l.findSome? (fun o =>
      let cs := (List.range 16).filter (fun c => o.1.shr.testBit c) ++ (if o.1.spc == 0 then [o.1.idx] else [])
      (cs.find? (fun c => (s.coreAt (cl * 16 + c)).lid != lid)).map (fun c => ⟨.part, BitVec.ofNat 64 (cl * 16 + c)⟩))
    let chk : Ex Unit := do
      ab.forM (fun e => [e.1, e.2].forM (fun o => tileBound o.1 (cl * 16) o.2.1 o.2.2 (fun _ k => decide (k < min e.1.1.vk e.2.1.vk))))
      tileBound d.1 (cl * 16) d.2.1 d.2.2 (fun _ _ => true)
      rangesPerm s (tileWrites d.1 (cl * 16) d.2.1 d.2.2)
    match chk with
    | .error (.trap c v) => some ⟨c, v⟩
    | _ => placed

/-- The operations of a task (R243), on set 1 of its engine. -/
def taskQueue (s : State) (t : Task) (cid : Nat) : List EOp :=
  let (ab, d) := taskOps s (cid / 16) t.bytes
  let base : EOp := { id := 0, g := t.g, kind := .mzero (recInt t.bytes), set := 1, fire := t.fire, cid := cid, pid := t.pid, lid := t.lid, task := some t.key }
  let desc (o : Opnd) : Quad := setFld (recDesc t.bytes o.1.reg) 18 0 o.1.off
  base :: ab.map (fun e => { base with kind := .mma, descs := [desc e.1, desc e.2], dregs := [0, 1], bf := [e.1.2.1, e.2.2.1] }) ++
  [{ base with kind := .mdrn true, descs := [desc d], dregs := [2], bf := [d.2.1] }]

/-- TILE_TASK_DISPATCH (R245): the first ready task in enqueue order goes to the engine of A's home core, or to the lowest free one. -/
def execTileTaskDispatch (cl : Nat) (s : State) : Out :=
  let u := s.cluAt cl
  match u.tasks.find? u.ready with
  | none => .next s
  | some t =>
    let home := (stepTile t.bytes 0 0).home (cl * 16)
    match (home :: (List.range 16).map (cl * 16 + ·)).find? (fun c => s.engineFree c t.lid) with
    | none => .next s
    | some cid =>
      let (ab, d) := taskOps s cl t.bytes
      let ranges (o : Opnd) : List LRange := tileRanges o.1 (cl * 16) o.2.1 o.2.2
      let rs := stepRanges (ab.map (fun e => ranges e.1)) ++ stepRanges (ab.map (fun e => ranges e.2)) ++ stepRanges [ranges d]
      match taskCheck s cl t.lid t.bytes with
      | some f => .next (s.endTask cl t.key (fun t => { t with st := .failed f }))
      | none =>
        if !locksFree s (chainKeys u u.tasks.length t) rs || rs.any (fun r => s.anyQueued r.cid r.base r.len) then .next s
        else
          let q := taskQueue s t cid
          let ops := ((List.range q.length).zip q).map (fun e => { e.2 with id := s.nextId + e.1 })
          let v := ((s.enterLocks t.g t.key false cid rs).updCore cid (fun k => { k with equeue := k.equeue ++ ops })).updTask cl t.key
            (fun t => { t with st := .running cid })
          .next { v with nextId := s.nextId + q.length }

/-- TILE_TASK_COMPLETE (R245, R246): a task whose operations have all completed is done; a task that depends on a failed one fails
with it. The locks of a task whose firing has ended are released (R76). -/
def execTileTaskComplete (cl key : Nat) (s : State) : Out :=
  let u := s.cluAt cl
  match u.tasks.find? (fun t => t.key == key) with
  | none => .next s
  | some t =>
    match t.st, u.depFailure t with
    | .pending, some f => .next (s.endTask cl key (fun t => { t with st := .failed f }))
    | .running cid, _ =>
      let mine := (s.coreAt cid).equeue.filter (fun e => e.task == some key)
      if mine.all (·.fin) then
        let fl : Flags := mine.foldl (fun x e => x ||| e.flags) 0
        let v := ((s.updCore cid (fun k => { k with equeue := k.equeue.filter (fun e => e.task != some key) })).endTask cl key
          (fun t => { t with st := .done, flags := fl })).unionFlags t.g fl
        .next (if (s.ctxAt t.g).fire = t.fire then v else v.unlock key)
      else .next s
    | _, _ => .next s

/-! ## Hang detection and the flag union -/

/-- HANG (R250): every context whose wait has KIND 1 to 5 raises HANG at its waiting instruction. -/
def execHang (cl : Nat) (s : State) : Out :=
  let u := s.cluAt cl
  if u.monLimit = 0 ∨ u.hang < u.monLimit then .next s
  else
    let t := s.updClu cl (fun u => { u with monLimit := 0, hang := 0 })
    .next ((List.range 64).foldl (fun t i =>
      let g := cl * 64 + i
      match (s.ctxAt g).wait with
      | some w => if (s.ctxAt g).waits && decide (1 ≤ w.kind ∧ w.kind ≤ 5) then t.takeTrap g .hang (s.waitEntry g) false w.ilen else t
      | none => t) t)

/-- FLAG_UNION_UPDATE (R141): the oldest flag set on its way arrives at CFU. -/
def execFlagUnionUpdate (cl : Nat) (s : State) : Out :=
  match (s.cluAt cl).flagsIn with
  | [] => .next s
  | x :: rest =>
    .next (s.updClu cl (fun u => { u with
      flagsIn := rest, cfu := u.cfu ||| x.bits
      came := (s.cyc.toNat, (if u.came.1 = s.cyc.toNat then u.came.2 else 0) ||| x.bits) }))

/-- SCRATCHPAD_SCRUB (R178): corrects what is correctable, which no instruction can tell from an error-free word. -/
def execScratchpadScrub (_cid : Nat) (s : State) : Out := .next s

/-! ## Cluster reset (R251, R252) -/

/-- Whether something in flight ends with the reset of a cluster: accesses, phaser requests and messages within it; what has wholly
left it, and what is on its way to it from outside, goes on (R251, R252). -/
def Msg.inCluster (m : Msg) (cl : Nat) : Bool :=
  m.g / 64 == cl && (match m.body with
    | .acc a => decide (a.space < 2)
    | .atom a => decide (a.space < 2)
    | .spawnReply .. | .mappReply .. | .phaser .. => true
    | .packet p => p.to_ / 16 == cl
    | .spawn target .. => target / 16 == cl
    | _ => false)

/-- A context after a cluster reset: its firing is gone, without a message, and so are its queued stores. -/
def State.stopCtx (s : State) (g : Nat) : State :=
  (if (s.ctxAt g).busy then (s.dropEngine g).freeCtx g else s).updCtx g (fun c => { c with storeq := [] })

/-- The acknowledgement of a merged packet still to come to the constituents that are left. -/
def Msg.leftFor (m : Msg) (a : Atom) (e : Issuer) (rest : List Issuer) : Msg :=
  { m with
    g := e.g, fire := e.fire, lid := e.lid, body := .atom { a with va := e.va, also := rest }
    stage := match m.stage with | .answered r => .answered { r with fault := r.fault.map (fun f => { f with val := e.va }) } | x => x }

/-- The issuers that something in flight stands for (R270). -/
def Msg.issuers (m : Msg) : List Issuer :=
  match m.body with
  | .atom a => { g := m.g, fire := m.fire, lid := m.lid, va := a.va } :: a.also
  | _ => [{ g := m.g, fire := m.fire, lid := m.lid }]

/-- Whether something in flight may be on a link that leaves a cluster, on its way to or from an issuer: what the cluster's cores and routers have
injected, of whatever cluster it is. What the die unit sends for a group is past it, and the way of what goes to the command processor or to a port
is known only to begin in the cluster of its core (log 19). -/
def State.leaving (s : State) (m : Msg) (cl g : Nat) : Bool :=
  match m.body with
  | .group .. => false
  | .stg _ | .entry .. | .cancel .. | .faultCopy _ => m.g / 64 == cl && m.stage == .new
  | _ => (s.wayOf m g).any (linkLeaves cl)

/-- A request or an acknowledgement of what is posted is lost: no acknowledgement comes. -/
def Msg.losing (m : Msg) : Msg :=
  { m with stage := .lost, from_ := 0, body := match m.body with | .sp x => .sp { x with step := .lost } | b => b }

/-- Something in flight is cut at a link that leaves a cluster (R252): a store writes nothing, an atomic is not performed, a message is not
delivered, and no answer comes. What is posted stays outstanding for a firing that goes on, and a merged packet goes on for the issuers whose
acknowledgement is on another way. The reservation of a spatial operation that has taken effect settles. -/
def State.cut (s : State) (m : Msg) (cl : Nat) : State :=
  let waits (e : Issuer) : Bool := (s.ctxAt e.g).fire == e.fire && (match m.body with
    | .acc a => a.kind.stores
    | .atom a => a.nr
    | .sp x => x.posted
    | _ => false)
  let out (e : Issuer) : Bool := s.leaving m cl e.g
  let t := match m.body with
    | .sp { step := .settling v _, fld := n, .. } => s.updHome (fieldKey m.pid n) (fun h => { h with unsettled := h.unsettled.erase v })
    | _ => s
  let lose (t : State) (e : Issuer) : State := match m.body with
    | .atom a => t.sendAs e.g e.fire (.atom { a with va := e.va, also := [] }) .lost
    | _ => t
  match m.issuers.filter (fun e => !out e), m.issuers.filter (fun e => out e && waits e), m.body with
  | e :: rest, gone, .atom a => gone.foldl lose (t.updMsg m.id (fun x => x.leftFor a e rest))
  | _, e :: gone, .atom a => gone.foldl lose (t.updMsg m.id (fun x => (x.leftFor a e []).losing))
  | _, _ :: _, _ => t.updMsg m.id Msg.losing
  | _, [], _ => t.gone m.id

/-- A packet that was only partly injected into a link when the reset came is discarded by its receiver (R252): which of those that may be on
one is free (log 2). -/
def State.truncate (s : State) (cl : Nat) : State :=
  s.net.foldl (fun (t : State) m =>
    if m.issuers.any (fun e => s.leaving m cl e.g) then
      let t' : State := { t with draws := t.draws + 1 }
      if Config.freeBit t.draws then t'.cut m cl else t'
    else t) s

/-- CLUSTER_RESET (R251): once the command processor has requested it, the cluster's firings and work are discarded, its scratchpads
and units are cleared, and its cores refuse traffic until the reset is complete. -/
def execClusterReset (cl : Nat) (s : State) : Out :=
  let u := s.cluAt cl
  if !u.resetReq then .next s
  else
    let t := ((List.range 64).foldl (fun t i => t.stopCtx (cl * 64 + i)) s).truncate cl
    let inside (loc : Nat) : Bool := decide (spad (16 * cl) 0 ≤ loc ∧ loc < spad (16 * cl + 16) 0)
    let t := { t with
      mem := t.mem.filter (fun c => !inside c.1)
      tagged := t.tagged.filter (fun x => !inside (32 * x))
      tagPoison := t.tagPoison.filter (fun x => !inside (32 * x))
      poison := t.poison.filter (fun x => !inside x)
      net := t.net.filter (fun m => !m.inCluster cl) }
    let t := (List.range 16).foldl (fun (t : State) i => t.updCore (16 * cl + i) (fun k => {
      tagsEn := 0, lid := k.lid, path := k.path, fslots := k.fslots, hcache := k.hcache, serials := k.serials, fenced := k.fenced, resetting := true })) t
    .next (t.pruneDirs.updClu cl (fun u => { u with
      cfu := 0, flagsIn := [], phasers := [], tasks := [], monLimit := 0, hang := 0, returned := [], rsid := 0, resetReq := false, resetting := true })).cutStreams

/-- CLUSTER_RESET_COMPLETE (R251, R252): the cores leave the fence and are idle; the boundary takes traffic again. -/
def execClusterResetComplete (cl : Nat) (s : State) : Out :=
  if (s.cluAt cl).resetting then
    .next (((List.range 16).foldl (fun (t : State) i => t.updCore (16 * cl + i) (fun k => { k with fenced := false, resetting := false })) s).updClu cl
      (fun u => { u with resetting := false, beat := s.cyc.toNat, failed := false }))
  else .next s

end Sys2Proof.Machine
end

