-- ==== Sys2Proof/Machine/DevEvents.lean ====
section
/-! DEFINITION. DevEvents.lean: DEVICE requests under way: translation at the stations (R259 to R263, R269, R287, R371, R383), the
way out to a peer (R373 to R375, R379), the home slices (R264, R269, R270, R289, R290), the application die (R263), and the
acknowledgements (R265). -/

namespace Sys2Proof.Machine

/-! ## Routes -/

/-- An earlier request of the core on the same route, which is a pair of station and home slice (R257, R291), is still out. One of the same
context that its station holds for a moving page may turn out to be on that route. Nothing more orders the lanes of a vector store (log 66). -/
def State.behindRoute (s : State) (m : Msg) (phys : Nat) : Bool :=
  s.net.any (fun x => decide (x.id < m.id) && x.actsFor (m.g / 4) && x.unperformed && x.station == m.station &&
    (match x.stage with | .home p => sliceOf p == sliceOf phys | .held => x.g == m.g | _ => false))

/-- A line of a package's memory is locked for a prepared group (R402). -/
def State.lineLocked (s : State) (pkg phys n : Nat) : Bool :=
  s.ports.any (fun e => e.1 / 32 == pkg && e.2.entries.any (fun x =>
    e.2.prepared.any (fun p => p.1 == x.gid) && decide (phys / 64 * 64 < x.phys + x.bytes.length ∧ x.phys / 64 * 64 < phys + n)))

/-- The location of a physical address of a package. -/
def State.pkgLoc (s : State) (pkg phys : Nat) : Nat := if pkg = s.pkgNo then phys else peerLoc pkg phys

/-! ## Out of the package (R373 to R375, R379, R386) -/

/-- Whether something in flight is a store or .NR atomic that OF holds back (R379). -/
def Msg.ordered (m : Msg) : Bool :=
  match m.body with
  | .acc a => a.ord && a.kind.stores
  | .atom a => a.ord && a.nr
  | _ => false

/-- Adds a failure of the fabric to a request. -/
def Msg.failed (m : Msg) (c : Cause) : Msg :=
  match m.body with
  | .acc a =>
    let part := ((a.pieces.head?).map (·.part)).getD 0
    { m with stage := .answered { fault := some ⟨c, m.va⟩ }, body := .acc { a with faults := [(part, ⟨c, m.va⟩)] } }
  | _ => { m with stage := .answered { fault := some ⟨c, m.va⟩ } }

/-- Where a peer access goes, or was answered: the copy, the other copy if the page is mirrored, and the physical address. -/
def Msg.peerHome (m : Msg) : Option (Nat × Option Nat × Nat) :=
  match m.stage with | .peer pkg mir phys => some (pkg, mir, phys) | .answered _ => m.was | _ => none

/-- The copies of a page that are not marked lost (R386, R387). -/
def State.copiesUp (s : State) (pkg : Nat) (mir : Option Nat) : List Nat := (pkg :: mir.toList).filter (fun p => !s.peerTable.contains p)

/-- A packet leaves for a peer, when a path has room (R373); one to a lost page fails at the port at once (R386). A store goes to
every copy that is up, a load and an atomic to the first of them (R387, R388); the store of a mirrored page stays one. -/
def State.leave (s : State) (m : Msg) : State :=
  match m.stage, s.pathFor m.g with
  | .peer pkg mir phys, some p =>
    let up := s.copiesUp pkg mir
    let t := if (s.ctxAt m.g).fire = m.fire then s.updCtx m.g (·.took p) else s
    let m : Msg := { m with path := some p, sent := s.cyc.toNat, gen := m.id % 16, va := m.devAddr.getD m.va }
    let m : Msg := match m.body with
      | .acc a => { m with body := .acc { a with todo := (if a.kind.stores then up else up.take 1).map (fun q => (q, a.pieces)) } }
      | _ => m
    t.updMsg m.id (fun _ => if up.isEmpty then m.failed .fab
      else match m.body with
        | .stg _ => m
        | .acc a => if a.kind.stores || up.head? == some pkg then m else { m with stage := .peer (up.headD 0) none phys }
        | _ => if up.head? = some pkg then m else { m with stage := .peer (up.headD 0) none phys })
  | _, _ => s

/-! ## Translation -/

/-- What a station answers to a request. -/
inductive Way | fault (f : RFault) | hold | at_ (t : Target)
  deriving DecidableEq, Repr, Inhabited

/-- The leaf checks of an atomic, in the order of R269 and R383. -/
def atomWay (s : State) (m : Msg) (a : Atom) : Way × State :=
  match findLeaf s (m.g / 1024) m.pid a.va with
  | (none, t) => (.fault ⟨.xlat, a.va⟩, t)
  | (some (lvl, leaf), t) =>
    let kind := fld leaf 11 10
    if !leafOk t m.pid lvl leaf a.va then (.fault ⟨.xlat, a.va⟩, t)
    else if kind = 2 ∨ (kind = 1 ∧ a.scp ≠ .sys) then (.fault ⟨.perm, a.va⟩, t)
    else if !([lRD, lWR, lAT].all (bitAt leaf)) then (.fault ⟨.xlat, a.va⟩, t)
    else if kind = 1 ∧ !bitAt leaf lRAP then (.fault ⟨.rap, a.va⟩, t)
    else if bitAt leaf 7 then (.hold, t)
    else match translate t (m.g / 1024) m.pid a.va [] with
      | (some (_, w), u) => (.at_ w, u)
      | (none, u) => (.fault ⟨.xlat, a.va⟩, u)

/-- What a peer's page gives an access other than an atomic: a granule does not leave the package (R174), and the cell of a verdict is not
sampled there (R218). -/
def AccKind.atPeer (k : AccKind) (va : Word) (t : Target) : Way :=
  match k with | .storeGran | .loadPlane => .fault ⟨.perm, va⟩ | _ => .at_ t

/-- What the station of a request answers (R261, R262); a PEER operand is not read through an I/O leaf (R191, R263). -/
def stationWay (s : State) (m : Msg) : Way × State :=
  match m.body with
  | .acc a =>
    let va := m.devAddr.getD 0
    match translate s (m.g / 1024) m.pid va [if a.kind.stores then lWR else lRD] with
    | (none, t) => (.fault ⟨.xlat, va⟩, t)
    | (some (_, .moving), t) => (.hold, t)
    | (some (_, .peer p q r), t) => (a.kind.atPeer va (.peer p q r), t)
    | (some (_, .io p), t) => (if a.row.isSome then .fault ⟨.xlat, va⟩ else .at_ (.io p), t)
    | (some (_, w), t) => (.at_ w, t)
  | .atom a => atomWay s m a
  | _ => (.hold, s)

/-- Whether a request is an .NR atomic at SYS, whose instruction waits for the station's answer (R383). -/
def Msg.asksStation (m : Msg) : Bool := match m.body with | .atom a => a.nr && a.scp == .sys | _ => false

/-- The station answers an instruction that waits for it; a fenced core takes nothing (R58). -/
def State.stationReply (s : State) (m : Msg) (a : Answer) : State :=
  if (s.coreAt (m.g / 4)).fenced then s else s.reply m.g m.fire m.id a

/-- An earlier answer of the station of a request to its core has not come there yet, so that the station's answer to an instruction waits (R257). -/
def State.stationDue (s : State) (m : Msg) : Bool :=
  m.asksStation && !(s.coreAt (m.g / 4)).fenced && s.net.any (fun x => !x.unperformed && x.from_ == m.stationSource && x.actsFor (m.g / 4))

/-- An atomic fails before it is sent: an .NR one at SYS at the instruction, which the station still holds; for any other the station answers,
a returning one as its home would, an .NR one as a store is answered (R257). -/
def State.failAtom (s : State) (m : Msg) (a : Atom) (f : RFault) : State :=
  if a.nr && a.scp == .sys then (s.gone m.id).stationReply m { fault := some f }
  else s.updMsg m.id (fun m => m.answer s m.stationSource { fault := some f })

/-- The addresses that the leaf of a virtual address spans, as start and length (R260, R273). -/
def State.spanOf (s : State) (m : Msg) : Nat × Nat :=
  match m.devAddr with
  | none => (0, 0)
  | some va => match (findLeaf s (m.g / 1024) m.pid va).1 with
    | some (_, leaf) => leafRange leaf va
    | none => (0, 0)

/-- A request goes on as its station has answered (R261 to R263, R287, R383). A held one goes behind those that are already held, with the
span of the page that moves. -/
def State.passStation (s : State) (m : Msg) (w : Way) : State :=
  match w, m.body with
  | .hold, _ => if m.stage = .held then s else { s with net := s.net.filter (fun x => x.id != m.id) ++ [{ m with stage := .held, span := s.spanOf m }] }
  | .fault f, .acc a =>
    s.updMsg m.id (fun m => { m.answer s m.stationSource {} with body := .acc { a with faults := a.pieces.map (fun p => (p.part, { f with val := p.va })) } })
  | .fault f, .atom a => s.failAtom m a f
  | .fault _, _ => s
  | .at_ t, b =>
    let s : State := match b with
      | .atom a => if a.nr && a.scp == .sys then s.stationReply m {} else s
      | _ => s
    let span := s.spanOf m
    let m : Msg := { m with span := span }
    let s := s.updMsg m.id (fun x => { x with span := span })
    match t with
    | .moving => s
    | .home p => s.updMsg m.id (fun m => { m with stage := .home p })
    | .io p => s.updMsg m.id (fun m => { m with stage := .io p })
    | .peer p q r =>
      let m : Msg := { m with stage := .peer p q r }
      let t := s.updMsg m.id (fun _ => m)
      if m.ordered || s.follows m then t else t.leave m

/-- Two address ranges, each a start and a length, overlap. -/
def meet (x y : Nat × Nat) : Bool := decide (x.1 < y.1 + y.2 ∧ y.1 < x.1 + x.2)

/-- A request waits for the page, of whatever size, for which another is held at the same station (R260, R287). -/
def State.samePage (s : State) (m x : Msg) : Bool :=
  m.pid == x.pid && m.station == x.station &&
  (m.devAddr.map (fun a => fld a 55 16) == x.devAddr.map (fun a => fld a 55 16) || meet (s.spanOf m) x.span)

/-- TRANSLATION (R261): the station takes a request, those of one core in order (R257); a request to a page for which others are held
joins them. A packet that found no room on a path tries again (R373). -/
def execTranslation (id : Nat) (s : State) : Out :=
  match s.msg id with
  | some m =>
    match m.stage with
    | .new =>
      if m.devAddr.isNone || (s.coreAt (m.g / 4)).fenced || s.stationDue m ||
         s.net.any (fun x => decide (x.id < m.id) && x.g / 4 == m.g / 4 && x.stage == .new && x.station == m.station) then .next s
      else if s.net.any (fun x => x.stage == .held && s.samePage m x) then .next (s.passStation m .hold)
      else let (w, t) := stationWay s m; .next (t.passStation m w)
    | .peer .. => if m.path.isNone && !m.ordered && !s.follows m then .next (s.leave m) else .next s
    | _ => .next s
  | none => .next s

/-- HELD_REQUEST_RELEASE (R287): the oldest held request of a page goes on, once the station translates the page with MOV = 0. -/
def execHeldRequestRelease (id : Nat) (s : State) : Out :=
  match s.msg id with
  | some m =>
    if m.stage = .held ∧ s.stationDue m = false ∧ (s.net.find? (fun x => x.stage == .held && s.samePage m x)).map (·.id) = some id then
      let (w, t) := stationWay s m
      .next (t.passStation m w)
    else .next s
  | none => .next s

/-- OF_STORE_RELEASE (R379): a held OF store leaves once every earlier peer store and .NR atomic of its context is acknowledged or has
failed; those that no station has translated yet may be for a peer. The stores of a group order nothing here (R408). -/
def execOfStoreRelease (id : Nat) (s : State) : Out :=
  match s.msg id with
  | some m =>
    let earlier (x : Msg) : Bool := decide (x.id < m.id) && x.g == m.g && (x.toPeer || x.stage == .new || x.stage == .held) &&
      (match x.body with | .acc a => a.kind.stores && a.space == 2 | .atom a => a.nr && a.space == 2 | _ => false)
    if m.ordered && m.path.isNone && m.toPeer && !s.net.any earlier then .next (s.leave m) else .next s
  | none => .next s

/-! ## At the home slice -/

/-- The location of a piece, given the physical address of the first byte of its request's 64-byte block. -/
def pieceLoc (phys : Nat) (p : Piece) : Nat := phys / 64 * 64 + p.va.toNat % 64

/-- DEVICE_ACCESS_AT_HOME (R264, R265): the next piece of a load or store is performed at its home, in route order; a line locked for a
group makes it wait (R402). -/
def execDeviceAccessAtHome (id : Nat) (s : State) : Out :=
  match s.msg id with
  | some m =>
    match m.body, m.stage with
    | .acc a, .home phys =>
      if s.behindRoute m phys || s.follows m || a.pieces.any (fun p => s.lineLocked s.pkgNo (pieceLoc phys p) p.n) then .next s
      else .next (performPiece s m a (fun p => { loc := pieceLoc phys p, core := none }))
    | _, _ => .next s
  | none => .next s

/-- What an atomic does at a location of memory (R269, R290): a poisoned line is refused. -/
def State.atomMem (s : State) (a : Atom) (lid : Word) (loc : Nat) (eccBad : Bool) : State × Answer :=
  if (s.poisonedAt loc a.n).isSome then (s, { fault := some ⟨.pois, a.va⟩ }) else s.atomAt a lid loc eccBad

/-- DEVICE_ATOMIC_AT_HOME (R269): one read-modify-write by the home's atomic unit; its answer leaves for the context. `eccBad` is an uncorrectable error in the write-verify (R290). -/
def execDeviceAtomicAtHome (id : Nat) (eccBad : Bool) (s : State) : Out :=
  match s.msg id with
  | some m =>
    match m.body, m.stage with
    | .atom a, .home phys =>
      if s.behindRoute m phys || s.follows m || s.lineLocked s.pkgNo phys a.n then .next s
      else
        let (t, r) := s.atomMem a m.lid phys eccBad
        .next (t.updMsg id (fun m => m.answer s (4096 + sliceOf phys) r))
    | _, _ => .next s
  | none => .next s

/-- The operations that routers may merge (R270). -/
def amoMerges : AmoOp → Bool | .add | .min | .max | .minu | .maxu | .fadd => true | _ => false

/-- ROUTER_MERGE (R270): two .NR atomics that wait in one router queue become one packet. -/
def execRouterMerge (id1 id2 : Nat) (s : State) : Out :=
  match s.msg id1, s.msg id2 with
  | some m, some x =>
    match m.body, x.body, m.stage, x.stage with
    | .atom a, .atom b, .home p, .home q =>
      match a.kind, b.kind with
      | .amo op, .amo op2 =>
        let v := amoNew op (8 * a.n) (a.val.toNat % 2 ^ (8 * a.n)) (b.val.toNat % 2 ^ (8 * a.n))
        if id1 < id2 ∧ op = op2 ∧ amoMerges op ∧ a.nr ∧ b.nr ∧ a.scp = .dev ∧ b.scp = .dev ∧ a.dbl = b.dbl ∧ p = q ∧ m.pid = x.pid ∧
           !a.det ∧ !b.det ∧ !s.behindRoute m p ∧
           !s.net.any (fun y => y.id != id1 && decide (y.id < id2) && y.actsFor (x.g / 4) && y.unperformed && y.station == x.station &&
              (match y.stage with | .home r => sliceOf r == sliceOf q | _ => false)) then
          match v with
          | some v => .next ((s.gone id2).updMsg id1 (fun m => { m with
              body := .atom { a with val := BitVec.ofNat 64 v, also := a.also ++ { g := x.g, fire := x.fire, lid := x.lid, va := b.va } :: b.also } }))
          | none => .next s
        else .next s
      | _, _ => .next s
    | _, _, _, _ => .next s
  | _, _ => .next s

/-- The application die, as the place that an answer comes from (R257). -/
def ioSource : Nat := 16384

/-- What the outside gives to a piece; with the end of a value's head it gives the value (R159, R160). -/
def ioPiece (a : Acc) (p : Piece) (ok : Bool) (data : Nat) : Acc :=
  let n := match a.kind with | .loadFv max => p.fvSpan max (data % 256 ^ p.n) | _ => p.n
  if a.kind.stores then a
  else if ok then { a with got := a.got ++ [(p.part, data % 256 ^ n)] }
  else { a with faults := a.faults ++ [(p.part, ⟨.fab, p.va⟩)] }

/-- Whether an access to an I/O page waits for an earlier one of its context to that page (R263), of whatever size it is: one that is there, or one
that no station has translated yet and whose address lies in the page. -/
def State.behindIo (s : State) (m : Msg) (phys : Nat) : Bool :=
  s.behind m (fun x => match x.stage with
    | .io q => q / 2 ^ 16 == phys / 2 ^ 16 || meet x.span m.span
    | .new | .held => x.devAddr.any (fun a => meet (a.toNat, 1) m.span)
    | _ => false)

/-- IO_ACCESS (R263): the application die performs the next piece of an access to an I/O page, in order for one context and page. For a
load `data` is what it answers, and `ok` is false when a root port reports an error. -/
def execIoAccess (id : Nat) (ok : Bool) (data : Nat) (s : State) : Out :=
  match s.msg id with
  | some m =>
    match m.body, m.stage with
    | .acc a, .io phys =>
      if s.follows m || s.behindIo m phys then .next s
      else match a.pieces with
        | [] => .next s
        | p :: rest => .next (s.updMsg id (fun m => {
            (if rest.isEmpty then m.answer s ioSource {} else m) with body := .acc { ioPiece a p ok data with pieces := rest } }))
    | _, _ => .next s
  | none => .next s

/-- Records a refused DEVICE store or .NR atomic in the context that issued it (R265). -/
def State.refuseDev (s : State) (f : Option RFault) (e : Issuer) : State :=
  if (s.ctxAt e.g).fire = e.fire then s.updCtx e.g (·.refuseDev f) else s

/-- DEVICE_STORE_ACK (R265): the acknowledgement of a DEVICE store or .NR atomic; a merged packet acknowledges each constituent (R270),
which is refused with the address it used (R290), in reply order to every core (R257); the part for a fenced core stays (R58). -/
def execDeviceStoreAck (id : Nat) (s : State) : Out :=
  match s.msg id with
  | some m =>
    let posted : Bool := match m.body with
      | .acc a => a.kind.stores && a.space == 2
      | .atom a => a.nr && a.space == 2
      | _ => false
    match posted && !m.unperformed && m.path.isNone, m.body with
    | true, .atom a =>
      let all := m.issuers
      let shut (e : Issuer) : Bool := (s.coreAt (e.g / 4)).fenced
      let open_ := all.filter (fun e => !shut e)
      if open_.isEmpty || open_.any (fun e => s.replyDue m (e.g / 4)) then .next s
      else
        let t := open_.foldl (fun t e => t.refuseDev (m.refusal.map (fun f => { f with val := e.va })) e) s
        .next (match all.filter shut with | [] => t.gone id | e :: rest => t.updMsg id (fun x => x.leftFor a e rest))
    | true, _ => if s.behindReply m then .next s else .next ((s.gone id).refuseDev m.refusal { g := m.g, fire := m.fire })
    | false, _ => .next s
  | none => .next s

/-- DRAM_SCRUB (R288): it corrects what is correctable, with no visible effect; a line that is not correctable is met as a fault of the turn
(`Physical.line`). -/
def execDramScrub (_die : Nat) (s : State) : Out := .next s

end Sys2Proof.Machine
end

