-- ==== Sys2Proof/Machine/Groups.lean ====
section
/-! DEFINITION. Groups.lean: group-tagged stores and commit: GOPEN, STG, GCOMMIT, GABORT, GSTAT (R397, R398, R401, R405, R406), and the
destination ports with their prepared locks (R399, R402, R403). The coordinator is in GroupUnit.lean. -/

namespace Sys2Proof.Machine

/-! ## The instructions -/

/-- GRP with the gid as TVAL (R395). -/
def grpIf (bad : Bool) (gid : Word) : Ex Unit := check (!bad) .grp gid

/-- A group of the current context's firing. -/
def State.ownGroup (s : State) (x : Group) : Bool := x.g == s.cur && x.fire == s.me.fire

/-- Translates for an instruction that waits for its station, which is not a blocked wait: XLAT is raised precisely (R397, R398). From a fenced
core nothing reaches the station (R58). -/
def stationNow (s : State) (va : Word) (need : List Nat) : Ex (Word × Target × State) :=
  if s.myCore.fenced then .error (.stall s)
  else match translate s s.die s.me.pid.toNat va need with
  | (none, _) => .error (.trap .xlat va)
  | (some (_, .moving), t) => .error (.stall t)
  | (some (leaf, w), t) => .ok (leaf, w, t)

/-- GOPEN (R397): the record's store is mirrored, and its acknowledgement ends the wait; the answer carries the index. -/
def execGopen (o : Ops) (s : State) : Out := s.settle (do
  check88 s [dst o.d, src o.b o.epb 2]
  capTag s o.b
  let c := s.capAt o.b
  let a := c.cur
  capPerm s c a [pRD, pWR, pAT]
  capSpace c a [2]
  capBound c a 16
  check (a.toNat % 16 == 0) .align a
  let full (n : Nat) : Ex State := .ok (s.putQ o.d (BitVec.ofNat 128 (n * 2 ^ 64)))
  match s.me.phase with
  | .sent _ => .error (.wait 6 0 s)
  | .done r =>
    let i := r.data.toNat
    match r.fault with
    | some _ => .error (.post .fab a (s.updGroup i Group.freed))
    | none => .ok (s.putQ o.d (BitVec.ofNat 128 (gidOf s.pkgNo i (s.groups.get {} i).gen)))
  | _ => do
    let (leaf, w, t) ← stationNow s a [lWR]
    match w with
    | .peer pkg (some mir) phys => do
      check (bitAt leaf lRAP) .perm a
      let busy := t.groups.filter (fun e => e.2.st != .free)
      if 1024 ≤ busy.length then full 1
      else if 8 ≤ (busy.filter (fun e => t.ownGroup e.2 && e.2.st != .draining)).length then full 2
      else if busy.any (fun e => e.2.record.1 == pkg && e.2.record.2.2 == phys) then full 3
      else
        let i := ((List.range 1024).find? (fun i => (t.groups.get {} i).st == .free)).getD 0
        let gen := ((t.groups.get {} i).gen + 1) % 256
        let bs := leBytes 8 (gidOf t.pkgNo i gen) ++ leBytes 8 0
        let u := t.updGroup i (fun _ => { gen := gen, st := .opened, g := t.cur, fire := t.me.fire, lid := t.me.lid, record := (pkg, mir, phys), recVa := a })
        let v := u.send u.cur (.acc { kind := .store, space := 2, pieces := [{ part := 0, va := a, n := 16, bytes := bs }], weight := 1, key := i + 1 })
          (.peer pkg (some mir) phys)
        let v := match v.msg u.nextId with | some m => (v.leave m).updMsg m.id (fun m => { m with span := leafRange leaf a }) | none => v
        .error (.wait 6 0 (v.setPhase (.sent u.nextId)))
    | _ => .error (.trap .perm a))

/-- The fabric port that serves a physical address (R383, R395). -/
def portOf (phys : Nat) : Nat := 4 * (phys / 2 ^ 35 % 8) + phys / 256 % 32 % 4

/-- Counts a store for a destination; the destination stays mirrored while all its stores are. -/
def Group.addDest (x : Group) (mir : Option Nat) (d : Nat) : Group :=
  let fresh := (x.sent.find d).isNone
  { x with
    sent := x.sent.put d (x.sent.get 0 d + 1)
    mirrored := match mir, x.mirrored.find d with
      | none, _ => x.mirrored.drop d
      | some q, some l => x.mirrored.put d (if l.contains q then l else q :: l)
      | some q, none => if fresh then x.mirrored.put d [q] else x.mirrored }

/-- STG (R398): its pseudocode makes every check of R94 before that of the space. -/
def execStg (z : Sz) (o : Ops) (s : State) : Out := s.settle (do
  check88 s [srcC o.c, src o.a o.epa, src o.b o.epb 2]
  dataTag s o.a.toNat
  capTag s o.b
  numTag s o.c.toNat
  let c := s.capAt o.b
  let a := c.cur + o.imm
  let n := szBytes z
  let gid := s.lo o.c
  capPerm s c a [pWR]
  capBound c a n
  capSpace c a [2]
  check (a.toNat % n == 0) .align a
  match s.groupOf gid.toNat with
  | none => do grpIf true gid; .ok s
  | some (i, x) => do
    grpIf (!s.ownGroup x || x.st != .opened) gid
    let (leaf, w, t) ← stationNow s a [lWR]
    -- of a mirrored page, a copy already lost is no destination while the other is up (R404, R387)
    let to_ : Ex (List (Nat × Option Nat) × Nat) := match w with
      | .home p => .ok ([(t.pkgNo, none)], p)
      | .peer pkg none p => .ok ([(pkg, none)], p)
      | .peer pkg (some mir) p => .ok (match t.copiesUp pkg (some mir) with
        | [q] => [(q, none)]
        | _ => [(pkg, some mir), (mir, some pkg)], p)
      | _ => .error (.trap .perm a)
    let (pkgs, phys) ← to_
    let y := pkgs.foldl (fun y p => y.addDest p.2 (p.1 * 32 + portOf phys)) x
    grpIf (decide (64 < y.sent.length)) gid
    let bs := leBytes n (s.bits o.a).toNat
    .ok (pkgs.foldl (fun (t : State) p =>
      let id := t.nextId
      let u := (t.send t.cur (.stg { gid := gid.toNat, seq := x.seq, pkg := p.1, port := portOf phys, phys := phys, bytes := bs, mir := p.2 })
        (.peer p.1 none phys)).updMsg id (fun m => { m with va := a, span := leafRange leaf a })
      match u.msg id with
      | some m => u.leave m
      | none => u) (t.updGroup i (fun _ => { y with seq := x.seq + 1 }))))

/-- Writes the result of a finished GCOMMIT or GABORT. -/
def groupTake (o : Ops) (s : State) (i : Nat) (r : Word) : Ex State := .ok ((s.groupLeave i).put o.d r)

/-- What marks the phase of a context whose GCOMMIT or GABORT is in progress. -/
def groupMark : Nat := 2 ^ 43

/-- Whether the group is being committed or aborted by the instruction that the current context executes. -/
def State.inCommit (s : State) (i : Nat) : Bool := s.me.phase == .part groupMark i

/-- GCOMMIT, once the stores of the group are acknowledged or have ended: it waits for the other stores of the context, and reports a recorded
failure of the fabric (R401). -/
def commitSettle (s : State) (i : Nat) : Ex State :=
  if s.storesOut s.cur s.me.fire then .error (.wait 6 0 (s.updGroup i (fun x => { x with step := .settle })))
  else match s.me.fabricRef with
    | some f => .error (.report f.cause f.val ((s.updMe (fun c => { c with fabricRef := none })).updGroup i
        (fun x => { x with st := .opened, step := .gather })))
    | none => .error (.wait 6 0 (s.groupStart i))

/-- GCOMMIT (R401): one blocked wait, from the acknowledgements of the group's and the context's stores to those of the outcome; a fenced core and
its group unit do not hear each other (R58). -/
def execGcommit (o : Ops) (s : State) : Out := s.settle (do
  let gid ← arg1 o s
  if s.myCore.fenced then .error (.wait 6 0 s)
  else match s.groupOf gid.toNat with
  | none => do grpIf true gid; .ok s
  | some (i, x) => do
    grpIf (!s.ownGroup x || !(x.st == .opened || (x.st == .committing && s.inCommit i))) gid
    match x.step with
    | .finished r => groupTake o s i r
    | .lost => .error (.report .fab x.recVa s)
    | .gather =>
      let t := (s.updGroup i (fun x => { x with st := .committing })).setPhase (.part groupMark i)
      if s.stgOut gid.toNat ≠ 0 then .error (.wait 6 0 t) else commitSettle t i
    | .settle => commitSettle s i
    | _ => .error (.wait 6 0 s))

/-- GABORT (R405), in a fenced core as GCOMMIT (R58). -/
def execGabort (o : Ops) (s : State) : Out := s.settle (do
  let gid ← arg1 o s
  if s.myCore.fenced then .error (.wait 6 0 s)
  else match s.groupOf gid.toNat with
  | none => do grpIf true gid; .ok s
  | some (i, x) => do
    grpIf (!s.ownGroup x || !(x.st == .opened || (x.st == .committing && s.inCommit i))) gid
    match x.step with
    | .finished r => groupTake o s i r
    | .lost => .error (.report .fab x.recVa s)
    | .gather =>
      let t := (s.updGroup i (fun x => { x with st := .committing, gabort := true })).setPhase (.part groupMark i)
      .error (.wait 6 0 (if s.stgOut gid.toNat = 0 then t.groupStart i else t))
    | _ => .error (.wait 6 0 s))

/-- GSTAT (R406): never waits and never raises GRP. -/
def execGstat (o : Ops) (s : State) : Out := s.settle (do
  let gid ← arg1 o s
  match s.groupOf gid.toNat with
  | none => .ok (s.put o.d 0)
  | some (_, x) =>
    let st := match x.st with
      | .free => 0
      | .opened => 1
      | .committing => 2
      | .draining => if s.ownGroup x then 3 else 0
    if st = 0 then .ok (s.put o.d 0)
    else .ok (s.put o.d (BitVec.ofNat 64 (st + x.heard.toNat * 4 + x.sent.length % 256 * 2 ^ 8 + x.seq % 2 ^ 24 * 2 ^ 16 +
      s.stgOut gid.toNat % 2 ^ 16 * 2 ^ 40))))

/-! ## Destination ports (R399, R402, R403) -/

/-- Changes a port. -/
def State.updPort (s : State) (key : Nat) (f : Port → Port) : State := { s with ports := s.ports.put key (f (s.ports.get {} key)) }

/-- Whether one valid window grants a root-port device of a partition the accesses given over n bytes (R361, R362, R372). -/
def State.winGrants (s : State) (part phys n : Nat) (bits : List Nat) : Bool :=
  s.windows.any (fun w => bitAt w.2 0 && decide (fld w.2 41 16 * 2 ^ 16 ≤ phys ∧ phys + n ≤ fld w.2 67 42 * 2 ^ 16) &&
    (fld w.2 75 68 == part || fld w.2 75 68 == 0xFF) && bits.all (bitAt w.2))

/-- A port receives a store of a group (R399): it stages it, or discards it and dooms the group there; the answer says which. -/
def State.stage (s : State) (key : Nat) (x : Staged) (bad : Bool) : State × Bool :=
  let p := s.ports.get {} key
  let doom := bad || p.doomed.contains x.gid || decide (8192 ≤ p.entries.length)
  (s.updPort key (fun p => { p with
    recv := p.recv.put x.gid (p.recv.get 0 x.gid + 1)
    doomed := if doom then insertNat x.gid p.doomed else p.doomed
    entries := if doom then p.entries.filter (fun e => e.gid != x.gid) else p.entries ++ [x] }), doom)

/-- STG_RECEIVE (R399): `cut` tells that the packet arrives truncated, or that a peer's port refuses it or has no room. -/
def execStgReceive (id : Nat) (cut : Bool) (s : State) : Out :=
  match s.msg id with
  | some m =>
    match m.body, m.stage, m.path with
    | .stg x, .peer .., some _ =>
      let refused := x.pkg == s.pkgNo && !s.winGrants ((s.partOf.find m.pid).getD 0xFE) x.phys x.bytes.length [79]
      let (t, doom) := s.stage (x.pkg * 32 + x.port) { gid := x.gid, seq := x.seq, phys := x.phys, bytes := x.bytes, lid := m.lid, va := m.va } (cut || refused)
      .next (t.updMsg id (fun m => { m with stage := .answered { data := if doom then 1 else 0 }, was := m.peerHome }))
    | _, _, _ => .next s
  | none => .next s

/-- The staged stores of a group at a port, in ascending sequence. -/
def Port.of (p : Port) (gid : Nat) : List Staged :=
  ((p.entries.filter (fun e => e.gid == gid)).foldl (fun (t : Tab Staged) e => t.put e.seq e) []).map (·.2)

/-- A port is done with a group. -/
def Port.forget (p : Port) (gid : Nat) : Port :=
  { p with
    entries := p.entries.filter (fun e => e.gid != gid)
    recv := p.recv.drop gid
    doomed := p.doomed.filter (· != gid)
    prepared := p.prepared.filter (fun e => e.1 != gid) }

/-- A destination publishes a group (R402): the staged stores in ascending sequence, tag bits cleared; they are stores of the launch that has sent
them (R27). -/
def State.publishAt (s : State) (key gid : Nat) : State :=
  let t := ((s.ports.get {} key).of gid).foldl (fun (s : State) e =>
    let loc := s.pkgLoc (key / 32) e.phys
    ((s.unpoison loc e.bytes.length).store e.lid loc e.bytes).noteVa e.lid e.va loc e.bytes) s
  t.updPort key (·.forget gid)

/-- The answer of a destination to PREPARE (R401, R402): none when it must wait for the lock of another group on one of its lines. -/
def State.prepareAt (s : State) (key gid n : Nat) (record : Nat × Nat × Nat) : Option (State × Bool) :=
  let p := s.ports.get {} key
  if p.doomed.contains gid || p.recv.get 0 gid != n then
    some (s.updPort key (fun p => { p with entries := p.entries.filter (fun e => e.gid != gid) }), false)
  else if (p.of gid).any (fun e => s.lineLocked (key / 32) e.phys e.bytes.length) then none
  else some (s.updPort key (fun p => { p with prepared := p.prepared ++ [(gid, s.cyc.toNat, record)] }), true)

/-- PREPARE (R402): the answer goes to the coordinator. -/
def execPrepare (id : Nat) (s : State) : Out :=
  match s.msg id with
  | some m =>
    match m.body with
    | .group (.prepare n) gid pkg port =>
      match s.groupOf gid with
      | none => .next (s.gone id)
      | some (i, x) =>
        if s.peerTable.contains pkg then .next (s.gone id)
        else match s.prepareAt (pkg * 32 + port) gid n x.record with
          | none => .next s
          | some (t, ready) => .next (((t.gone id).updGroup i (fun x => { x with answers := x.answers.put (pkg * 32 + port) ready })).groupPoke i)
    | _ => .next s
  | none => .next s

/-- The coordinator hears a destination's acknowledgement of the outcome. -/
def State.groupAck (s : State) (gid key : Nat) : State :=
  match s.groupOf gid with
  | some (i, _) => (s.updGroup i (fun x => { x with acked := key :: x.acked.filter (· != key) })).groupPoke i
  | none => s

/-- A destination acknowledges the outcome: to the coordinator of this package, or of the peer package that the gid names. -/
def State.groupHeard (s : State) (gid key : Nat) : State :=
  let pkg := gid / 2 ^ 10 % 2 ^ 13
  if pkg = s.pkgNo then s.groupAck gid key
  else if key / 32 = s.pkgNo then { s with replies := s.replies ++ [(.group pkg gid (key % 32), .told)] }
  else s

/-- PUBLISH (R402). -/
def execPublish (id : Nat) (s : State) : Out :=
  match s.msg id with
  | some m =>
    match m.body with
    | .group .publish gid pkg port =>
      if s.peerTable.contains pkg then .next (s.gone id)
      else .next (((s.gone id).publishAt (pkg * 32 + port) gid).groupAck gid (pkg * 32 + port))
    | _ => .next s
  | none => .next s

/-- GROUP_ABORT_AT_PORT (R402): the entries are discarded and the locks released. -/
def execGroupAbortAtPort (id : Nat) (s : State) : Out :=
  match s.msg id with
  | some m =>
    match m.body with
    | .group .abort gid pkg port =>
      if s.peerTable.contains pkg then .next (s.gone id)
      else .next (((s.gone id).updPort (pkg * 32 + port) (·.forget gid)).groupAck gid (pkg * 32 + port))
    | _ => .next s
  | none => .next s

/-- 1 ms and 2 ms in clk (R401, R403). -/
def groupWait : Nat := 1200000

/-- PREPARE_ANSWER_TIMEOUT (R401): the coordinator tries ABORT. -/
def execPrepareAnswerTimeout (gid : Nat) (s : State) : Out :=
  match s.groupOf gid with
  | some (i, x) =>
    if x.step = .prepared ∧ x.since + groupWait ≤ s.cyc.toNat then
      .next (s.groupDecide i 2 (if x.answers.any (fun e => !e.2) then 1 else 2))
    else .next (s.groupPoke i)
  | none => .next s

/-- PUBLISH_ACK_TIMEOUT (R401): the destinations that have not acknowledged are counted, and the group drains. -/
def execPublishAckTimeout (gid : Nat) (s : State) : Out :=
  match s.groupOf gid with
  | some (i, x) => if x.step = .telling ∧ x.since + groupWait ≤ s.cyc.toNat then .next (s.groupFinish i) else .next s
  | none => .next s

/-- Whether the line of a decision record is locked at a copy that is up (R402). -/
def State.recordLocked (s : State) (record : Nat × Nat × Nat) : Bool :=
  [record.1, record.2.1].any (fun p => !s.peerTable.contains p && s.lineLocked p record.2.2 16)

/-- The decision record's CAS from 0 (R396): the value it then holds, written to every copy that is up; none when no copy can be
reached. With a gid, a record of another group counts as ABORT and is not written (R403). It is a store of the group's launch, where that is known
here (R27). -/
def State.recordCas (s : State) (record : Nat × Nat × Nat) (gid : Option Nat) (v : Nat) (lid : Word := BitVec.allOnes 64) : Option (Nat × State) :=
  let up := [record.1, record.2.1].filter (fun p => !s.peerTable.contains p)
  match up with
  | [] => none
  | p :: _ =>
    let loc := s.pkgLoc p record.2.2
    if gid.any (fun g => s.numAt loc 8 != g) then some (2, s)
    else
      let old := s.numAt (loc + 8) 8
      if old = 0 then
        some (v, up.foldl (fun (s : State) q => s.store lid (s.pkgLoc q record.2.2 + 8) (leBytes 8 v)) s)
      else some (old, s)

/-- PREPARED_LOCK_TIMEOUT (R403): a prepared destination that has heard nothing for 2 ms resolves the group from its record; `port` is
package × 32 + port. A port of a peer counts by the CYC of its own package (R6), which this package does not see. -/
def execPreparedLockTimeout (port gid : Nat) (s : State) : Out :=
  match (s.ports.get {} port).prepared.find? (fun e => e.1 == gid) with
  | none => .next s
  | some (_, at_, record) =>
    if (port / 32 = s.pkgNo ∧ s.cyc.toNat < at_ + 2 * groupWait) ∨ s.recordLocked record then .next s
    else match s.recordCas record (some gid) 2 (((s.groupOf gid).map (·.2.lid)).getD (BitVec.allOnes 64)) with
      | none => .next (s.updPort port (fun p => { p with prepared := p.prepared.map (fun e => if e.1 = gid then (gid, s.cyc.toNat, record) else e) }))
      | some (v, t) => .next ((if v = 1 then t.publishAt port gid else t.updPort port (·.forget gid)).groupHeard gid port)

/-- GROUP_DRAIN_END (R401): a draining group is freed once every destination has acknowledged or is lost. -/
def execGroupDrainEnd (gid : Nat) (s : State) : Out :=
  match s.groupOf gid with
  | some (i, x) => if x.st = .draining then .next (s.groupLeave i) else .next s
  | none => .next s

end Sys2Proof.Machine
end

