-- ==== Sys2Proof/Machine/Fabric.lean ====
section
/-! DEFINITION. Fabric.lean: FNCP and PCNT (R380, R382), reductions (R389 to R392), peer requests and their answers (R372, R375, R376,
R383), peer loss (R386) and mirrored pages (R387, R388). -/

namespace Sys2Proof.Machine

/-! ## FNCP and PCNT -/

/-- A DEVICE access of the current context that no station has translated yet, which may be for a peer; the engine's own packets count from
when they leave (R373, R385). -/
def Msg.mayLeave (m : Msg) (g fire : Nat) : Bool :=
  m.g == g && m.fire == fire && m.devAddr.isSome && (m.stage == .new || m.stage == .held) &&
  (match m.body with | .acc a => a.row.isNone | _ => true)

/-- FNCP (R380). -/
def execFncp (s : State) : Out := s.settle (
  if s.net.any (fun m => (m.g == s.cur && m.toPeer) || m.mayLeave s.cur s.me.fire) then .error (.wait 6 0 s)
  else do
    reportRefusals s false false true
    .ok s)

/-- Four 16-bit fields. -/
def fourHalves (f : Nat → Nat) : Nat := f 0 % 2 ^ 16 + f 1 % 2 ^ 16 * 2 ^ 16 + f 2 % 2 ^ 16 * 2 ^ 32 + f 3 % 2 ^ 16 * 2 ^ 48

/-- OF stores held at the egress (R379). -/
def State.ofHeld (s : State) (g : Nat) : Nat := (s.net.filter (fun m => m.g == g && m.ordered && m.path.isNone && m.toPeer)).length

/-- PCNT (R382). -/
def execPcnt (o : Ops) (s : State) : Out := s.settle (do
  check88 s [dst o.d]
  .ok (s.putQ o.d (BitVec.ofNat 128 (fourHalves (s.outOn s.cur) + s.ofHeld s.cur % 2 ^ 16 * 2 ^ 64))))

/-- PCNT.ISS (R382). -/
def execPcntIss (o : Ops) (s : State) : Out := s.settle (do
  check88 s [dst o.d]
  .ok (s.put o.d (BitVec.ofNat 64 (fourHalves (fun p => ((s.me.issued[p]?).getD 0).toNat)))))

/-! ## Reductions (R389 to R392) -/

/-- FRED (R389). -/
def execFred (o : Ops) (s : State) : Out := s.settle (do
  check88 s [srcC o.c, src o.a o.epa 2, src o.b o.epb 2]
  capTag s o.a
  capTag s o.b
  numTag s o.c.toNat
  let w := s.lo o.c
  let coll := fld w 11 0
  let nel := fld w 38 32
  let bad (b : Bool) (r : Nat) : Ex Unit := check (!b) .ill (BitVec.ofNat 64 (2 ^ 58 + r))
  bad (fld w 15 12 != 0 || bitAt w 39 || fld w 63 44 != 0 || decide (9 ≤ fld w 43 40)) 1
  bad (nel == 0 || decide (64 < nel)) 2
  let x := s.capAt o.a
  let y := s.capAt o.b
  let local_ (c : Cap) (perm : Nat) : Ex Unit := do
    capPerm s c c.cur [perm]
    capSpace c c.cur [0]
    capBound c c.cur (4 * nel)
  local_ x pRD
  local_ y pWR
  check (x.cur.toNat % 4 == 0) .align x.cur
  check (y.cur.toNat % 4 == 0) .align y.cur
  ownCheck s x.cur (4 * nel) false
  ownCheck s y.cur (4 * nel) true
  match (s.colls.find coll).bind (·.self) with
  | none => .error (.trap .part (BitVec.ofNat 64 coll))
  | some _ =>
    let slots := List.range 4
    match slots.find? (fun i => !(s.me.reds.get {} i).held) with
    | none => .ok (s.putQ o.c (BitVec.ofNat 128 (2 ^ 16)))
    | some i =>
      if s.myCore.freeLocks = 0 then .error (.wait 6 0 s)
      else
        let gen := ((s.me.reds.get {} i).gen + 1) % 256
        let bs := ownRead s x.cur (4 * nel)
        let r : RedSlot := {
          gen := gen, held := true, coll := coll, round := fld w 31 16, op := fld w 43 40, det := bitAt s.me.ctlw 0
          elems := (List.range nel).map (fun k => BitVec.ofNat 32 (leVal ((bs.drop (4 * k)).take 4)))
          dst := y.cur.toNat % 2 ^ 19, key := s.nextId }
        let t := s.enterLocks s.cur s.nextId true s.cid [{ cid := s.cid, base := y.cur.toNat % 2 ^ 19, len := 4 * nel, dst := true }]
        let u := t.updMe (fun c => { c with reds := c.reds.put i r })
        .ok (({ u with nextId := s.nextId + 1 } : State).putQ o.c (BitVec.ofNat 128 (i + gen * 2 ^ 8))))

/-- FREDW (R392). -/
def execFredw (o : Ops) (s : State) : Out := s.settle (do
  let v ← arg1 o s
  let i := fld v 1 0
  let r := s.me.reds.get {} i
  if !r.held ∨ r.gen ≠ fld v 15 8 then .ok (s.put o.d 2)
  else match r.ans, r.landed with
    | some (st, n, _), true =>
      .ok (((s.unlock r.key).updMe (fun c => { c with reds := c.reds.put i { gen := r.gen } })).put o.d
        (BitVec.ofNat 64 (st + (if st = 1 then n % 2 ^ 16 * 2 ^ 32 else 0))))
    | _, _ => .error (.wait 6 0 s))

/-- One step of a combination (R389, R390). -/
def redOp (op : Nat) (x y : BitVec 32) : BitVec 32 :=
  match op with
  | 0 => x + y
  | 1 => (f32Add 0 x y).1
  | 2 => if x.toInt ≤ y.toInt then x else y
  | 3 => if x.toInt ≤ y.toInt then y else x
  | 4 => if x.toNat ≤ y.toNat then x else y
  | 5 => if x.toNat ≤ y.toNat then y else x
  | 6 => x &&& y
  | 7 => x ||| y
  | _ => x ^^^ y

/-- Combines the values that reach a switch: by ascending downlink with DET = 1, in arrival order otherwise. -/
def switchFold (op : Nat) (det : Bool) (l : List (Nat × List (BitVec 32))) : List (BitVec 32) :=
  match (if det then l.foldl (fun (t : Tab (List (BitVec 32))) e => t.put e.1 e.2) [] else l) with
  | [] => []
  | x :: t => t.foldl (fun acc e => (acc.zip e.2).map (fun p => redOp op p.1 p.2)) x.2

/-- One level of the tree: the partial of each switch, in the order in which the last value reached it (log 22). -/
def switchLevel (op : Nat) (det : Bool) (l : List (Nat × List (BitVec 32))) : List (Nat × List (BitVec 32)) :=
  ((l.map (fun e => e.1 / 64)).reverse.eraseDups.reverse).map (fun k => (k, switchFold op det (l.filter (fun e => e.1 / 64 == k))))

/-- The result of a round from its contributions by package in arrival order (R370, R390): three levels, 64 links down. -/
def treeFold (op : Nat) (det : Bool) (l : List (Nat × List (BitVec 32))) : List (BitVec 32) :=
  switchFold op det (switchLevel op det (switchLevel op det l))

/-- The bitmap of an incomplete round, for a contributor of `nel` elements (R391). -/
def Round.bitmap (r : Round) (nel : Nat) : List Byte :=
  (List.range (4 * nel)).map (fun i => BitVec.ofNat 8 ((List.range 8).foldl (fun x b => if r.got.any (fun e => e.1 == 8 * i + b) then x + 2 ^ b else x) 0))

/-- Gives an answer to the reductions of this package's contexts that satisfy a test. -/
def State.answerReds (s : State) (p : RedSlot → Bool) (a : Nat × Nat × List Byte) : State :=
  { s with ctxs := s.ctxs.map (fun e => (e.1, { e.2 with reds := e.2.reds.map (fun r =>
      (r.1, if r.2.held && r.2.ans.isNone && p r.2 then { r.2 with ans := some a } else r.2)) })) }

/-- The contribution of this package that has not reached its switch: context, slot and the reduction; that of a fenced core does not leave it
(R58). -/
def State.nextRed (s : State) (coll round : Nat) : Option (Nat × Nat × RedSlot) :=
  s.ctxs.findSome? (fun e =>
    if (s.coreAt (e.1 / 4)).fenced then none
    else (e.2.reds.find? (fun r => r.2.held && !r.2.sent && r.2.coll == coll && r.2.round == round)).map (fun r => (e.1, r.1, r.2)))

/-- The reduction contexts of one level of the tree (R390, R391), from what is below it, each with the time at which it sent up, if it has: the
number of the switch, when its context was created, and when all its members had come. -/
def levelTimes (l : List (Nat × Option Nat)) : List (Nat × Option Nat × Option Nat) :=
  ((l.map (fun e => e.1 / 64)).eraseDups).map (fun k =>
    let below := (l.filter (fun e => e.1 / 64 == k)).map (·.2)
    let came := below.filterMap id
    (k, came.min?, if came.length = below.length then came.max? else none))

/-- Whether the 200 µs of some reduction context of a round are over before all its members have come (R391); each counts from its own creation.
The spec does not say whose clock a switch has: the model counts in the CYC of this package (log 56). -/
def Round.late (r : Round) (s : State) : Bool :=
  let arrived : Tab Nat := (r.got.map (·.1)).zip r.times
  let members := ((s.colls.find r.coll).map (·.members)).getD []
  let up (l : List (Nat × Option Nat × Option Nat)) : List (Nat × Option Nat) := l.map (fun e => (e.1, e.2.2))
  let a := levelTimes (((List.range members.length).zip members).map (fun e => (e.2, arrived.find e.1)))
  let b := levelTimes (up a)
  (a ++ b ++ levelTimes (up b)).any (fun e => e.2.2.isNone && e.2.1.any (fun t => decide (t + 240000 ≤ s.cyc.toNat)))

/-- A round ends as INCOMPLETE: its contributors so far are told (R391). -/
def State.endRound (s : State) (r : Round) : State :=
  let here (x : Round) : Bool := x.coll == r.coll && x.round == r.round
  ({ s with rounds := s.rounds.map (fun x => if here x then { x with ended := true } else x) } : State).answerReds
    (fun x => x.sent && x.coll == r.coll && x.round == r.round) (1, r.got.length, r.bitmap r.nel)

/-- REDUCTION_COMBINE (R390): a member's contribution reaches the switches; this package's own comes from the reduction that waits to be
sent, another's from the outside. One that comes after the round has ended, or after its 200 µs, is too late (R391). -/
def execReductionCombine (coll round member : Nat) (contrib : RedContrib) (s : State) : Out :=
  match s.colls.find coll with
  | none => .next s
  | some c =>
    let mine := c.self == some member
    let own := if mine then s.nextRed coll round else none
    if c.members.length ≤ member ∨ (mine ∧ own.isNone) then .next s
    else
      let k : RedContrib := match own with
        | some (_, _, r) => { op := r.op, nel := r.elems.length, det := r.det, elems := r.elems }
        | none => contrib
      let t := match own with
        | some (g, i, r) => s.updCtx g (fun c => { c with reds := c.reds.put i { r with sent := true } })
        | none => s
      let answer (t : State) (a : Nat × Nat × List Byte) : State := match own with
        | some (g, i, r) => t.updCtx g (fun c => { c with reds := c.reds.put i { r with sent := true, ans := some a } })
        | none => t
      let here (r : Round) : Bool := r.coll == coll && r.round == round
      match s.rounds.find? here with
      | some r =>
        if r.ended then .next (answer t (1, r.got.length, r.bitmap k.nel))
        else if r.late s then .next (answer (t.endRound r) (1, r.got.length, r.bitmap k.nel))
        else if r.op ≠ k.op ∨ r.nel ≠ k.nel ∨ r.det ≠ k.det then .next (answer t (4, 0, []))
        else if r.got.any (fun e => e.1 == member) then .next (answer t (3, 0, []))
        else
          let q : Round := { r with got := r.got ++ [(member, k.elems)], times := r.times ++ [s.cyc.toNat] }
          if q.got.length = c.members.length then
            let res := treeFold q.op q.det (q.got.map (fun e => (c.members.getD e.1 0, e.2)))
            .next (({ t with rounds := t.rounds.filter (fun x => !here x) } : State).answerReds (fun x => x.sent && x.coll == coll && x.round == round)
              (0, 0, res.flatMap (fun v => leBytes 4 v.toNat)))
          else .next { t with rounds := t.rounds.map (fun x => if here x then q else x) }
      | none =>
        let q : Round := { coll := coll, round := round, op := k.op, nel := k.nel, det := k.det, got := [(member, k.elems)], times := [s.cyc.toNat] }
        if c.members.length = 1 then
          .next (t.answerReds (fun x => x.sent && x.coll == coll && x.round == round) (0, 0, (treeFold q.op q.det [(0, k.elems)]).flatMap (fun v => leBytes 4 v.toNat)))
        else .next { t with rounds := t.rounds ++ [q] }

/-- REDUCTION_TIMEOUT (R391): 200 µs after one of its contexts was made, by the CYC of this package (log 56), a round in which members are missing
there ends as INCOMPLETE. -/
def execReductionTimeout (coll round : Nat) (s : State) : Out :=
  let here (r : Round) : Bool := r.coll == coll && r.round == round
  match s.rounds.find? here with
  | some r =>
    if r.ended || !r.late s then .next s else .next (s.endRound r)
  | none => .next s

/-- REDUCTION_ANSWER (R392): the answer reaches the destination, unless its core is fenced (R58). A reduction whose firing has ended is over (R76). -/
def execReductionAnswer (g slot : Nat) (s : State) : Out :=
  let r := (s.ctxAt g).reds.get {} slot
  if (s.coreAt (g / 4)).fenced then .next s
  else match r.held, r.ans, r.landed with
  | true, some (_, _, bs), false =>
    let loc := spad (g / 4) r.dst
    let t := if bs.isEmpty then s else (s.unpoison loc bs.length).store (s.ctxAt g).lid loc bs
    if r.orphan then .next ((t.unlock r.key).updCtx g (fun c => { c with reds := c.reds.put slot { gen := r.gen } }))
    else .next (t.updCtx g (fun c => { c with reds := c.reds.put slot { r with landed := true } }))
  | _, _, _ => .next s

/-- COLLECTIVE_SETUP (R389). -/
def execCollectiveSetup (coll : Nat) (members : List Nat) (self : Option Nat) (s : State) : Out :=
  .next { s with colls := s.colls.put coll { members := members, self := self } }

/-! ## Answers of peer accesses (R375, R376, R378) -/

/-- Records a fabric failure in the context, or, when its firing has ended, for the launch's completion record (R378). -/
def State.fabFail (s : State) (m : Msg) : State :=
  if (s.ctxAt m.g).fire = m.fire then s.updCtx m.g (fun c => { c with fabricRef := keepFirst c.fabricRef (some ⟨.fab, m.va⟩) })
  else { s with lateFab := s.lateFab ++ [(m.lid, m.va, m.g / 4 + m.g % 4 * 2 ^ 11)] }

/-- A store of a group has ended (R398, R399): a doomed answer or a packet that ended dooms the group, but for a lost copy of a mirrored
page (R404). `heard` tells that an acknowledgement carried DOOMED (R406). -/
def State.stgEnds (s : State) (m : Msg) (x : Stg) (doom heard : Bool) : State :=
  let t := s.gone m.id
  match s.groupOf x.gid with
  | some (i, _) => (t.updGroup i (fun y => { y with doomed := y.doomed || doom, heard := y.heard || heard })).groupPoke i
  | none => t

/-- A peer access ends with the answer it has (R375, R376, R378). -/
def State.peerEnds (s : State) (m : Msg) : State :=
  match m.body with
  | .acc a =>
    if a.kind.stores then
      if a.key ≠ 0 then (s.gone m.id).reply m.g m.fire m.id { fault := m.refusal, data := BitVec.ofNat 128 (a.key - 1) }
      else match m.refusal with
        | some _ => (s.gone m.id).fabFail m
        | none => s.gone m.id
    else s.loadArrives m { a with faults := a.faults.map (fun e => (e.1, { e.2 with val := m.va })) }
  | .atom a =>
    let r : Answer := match m.stage with | .answered r => r | _ => {}
    if a.nr then
      (if m.abnRefused then (s.gone m.id).refuseDev r.fault { g := m.g, fire := m.fire }
       else if r.fault.isSome then (s.gone m.id).fabFail m else s.gone m.id)
    else (s.gone m.id).reply m.g m.fire m.id r
  | .stg x =>
    match m.stage with
    | .answered r => s.stgEnds m x (r.data != 0 || r.fault.isSome) (r.data != 0)
    | _ => s.stgEnds m x true false
  | _ => s

/-- PEER_REPLY (R375, R376): the answer of a peer access arrives; one of another generation, or one that comes 600,000 clk after the packet
has left, is dropped. A fenced core takes none (R58); the acknowledgement of a group's store goes to its unit. -/
def execPeerReply (id gen : Nat) (s : State) : Out :=
  match s.msg id with
  | some m =>
    let fenced : Bool := match m.body with | .stg _ => false | _ => (s.coreAt (m.g / 4)).fenced
    if m.path.isSome && !m.unperformed && m.gen == gen && decide (s.cyc.toNat < m.sent + 600000) && !fenced then .next (s.peerEnds m)
    else .next s
  | none => .next s

/-- A load goes once more to the mirror (R388). -/
def State.toMirror (s : State) (m : Msg) (a : Acc) (q phys : Nat) : State :=
  s.updMsg m.id (fun m => { m with
    stage := .peer q none phys, was := none, gen := (m.gen + 1) % 16, sent := s.cyc.toNat
    body := .acc { a with todo := [(q, a.pieces)], got := [], faults := [], flags := 0, gtag := false } })

/-- FABRIC_TIMEOUT (R376, R387, R388): no answer for 600,000 clk. A load of a mirrored page is sent to the mirror; a store to one goes on
(MIRROR_RESEND) until every copy is written or its package is lost; any other access ends. -/
def execFabricTimeout (id : Nat) (s : State) : Out :=
  match s.msg id with
  | some m =>
    if m.path.isNone || decide (s.cyc.toNat < m.sent + 600000) then .next s
    else match m.body, m.peerHome with
      | .acc a, some (_, some q, phys) =>
        if a.kind.stores then .next (if m.unperformed then s else s.peerEnds m)
        else if s.peerTable.contains q then .next (s.peerEnds (m.failed .fab)) else .next (s.toMirror m a q phys)
      | _, _ => .next (s.peerEnds (m.failed .fab))
  | none => .next s

/-- MIRROR_RESEND (R387): a copy of a mirrored store that has timed out is sent again under a new generation. -/
def execMirrorResend (id : Nat) (s : State) : Out :=
  match s.msg id with
  | some m =>
    match m.body, m.stage with
    | .acc a, .peer _ (some _) _ =>
      if a.kind.stores && m.path.isSome && decide (m.sent + 600000 ≤ s.cyc.toNat) then
        .next (s.updMsg id (fun m => { m with gen := (m.gen + 1) % 16, sent := s.cyc.toNat }))
      else .next s
    | _, _ => .next s
  | none => .next s

/-! ## At a peer's home (R372, R377, R383, R387) -/

/-- The next piece of this package's access is performed, or the access refused, at its home in package `pkg`; of a mirrored page the other
copy is still written (R387). -/
def State.atPeer (s : State) (m : Msg) (a : Acc) (pkg phys : Nat) (granted : Bool) : State :=
  match a.todo.find? (fun e => e.1 == pkg) with
  | some (_, p :: rest) =>
    let va := m.va
    if !granted then
      let todo := a.todo.filter (fun e => e.1 != pkg)
      s.updMsg m.id (fun m => { m with
        stage := if todo.isEmpty then .answered {} else m.stage
        was := if todo.isEmpty then m.peerHome else none
        body := .acc { a with todo := todo, faults := a.faults ++ [(p.part, ⟨.fab, va⟩)] } })
    else if s.lineLocked pkg (pieceLoc phys p) p.n then s
    else
      let (b, t) := doPiece s m.lid a p { loc := peerLoc pkg (pieceLoc phys p), core := none }
      let todo := (a.todo.map (fun e => if e.1 = pkg then (pkg, rest) else e)).filter (fun e => !e.2.isEmpty)
      t.updMsg m.id (fun m => { m with
        stage := if todo.isEmpty then .answered {} else m.stage
        was := if todo.isEmpty then m.peerHome else none
        body := .acc { b with todo := todo, wrote := a.wrote || rest.isEmpty } })
  | _ => s

/-- An answer goes to an agent outside the compute dies (R362, R372). -/
def State.answer (s : State) (a : Asker) (r : Reply) : State := { s with replies := s.replies ++ [(a, r)] }

/-- A peer's request is admitted at this package's home when a window grants it (R372), and waits while a line of it is locked; a refused
one is not performed, is answered with a refusal, and is latched as one of a root-port device (R362). -/
def State.peerDo (s : State) (pkg part gen phys n : Nat) (need : List Nat) (act : State → State) : State :=
  if s.peerTable.contains pkg || !s.winGrants part phys n need then
    (s.latch 1 (BitVec.ofNat 64 phys)).answer (.peer pkg gen) (.fault .fab)
  else if s.lineLocked s.pkgNo phys n then s
  else act s

/-- A peer's load at this package's home (R372). -/
def State.peerRead (s : State) (pkg part gen phys n : Nat) : State :=
  s.peerDo pkg part gen phys n [78] (fun s =>
    s.answer (.peer pkg gen) (if (s.poisonedAt phys n).isSome then .fault .pois else .data (s.bytesAt phys n)))

/-- A peer's store at this package's home (R372). -/
def State.peerWrite (s : State) (pkg part gen phys : Nat) (bs : List Byte) : State :=
  s.peerDo pkg part gen phys bs.length [79] (fun s =>
    if (s.partPoison phys bs.length).isSome then s.answer (.peer pkg gen) (.fault .pois)
    else ((s.unpoison phys bs.length).store (BitVec.allOnes 64) phys bs).answer (.peer pkg gen) (.data []))

/-- The unit that has performed an atomic on a mirrored page writes the new value to the mirror, before it answers (R387). The mirror's package may
refuse it (R372: its windows are not this package's state, so whether it does is free), and a line poisoned there is not written (R289): the atomic
then fails, and the copy already written stands (log 17). -/
def State.mirrorWrite (s : State) (lid : Word) (q phys : Nat) (bs : List Byte) : State × Option Cause :=
  let t : State := { s with draws := s.draws + 1 }
  if Config.freeBit s.draws then (t, some .fab)
  else if (t.partPoison (peerLoc q phys) bs.length).isSome then (t, some .pois)
  else ((t.unpoison (peerLoc q phys) bs.length).store lid (peerLoc q phys) bs, none)

/-- What follows an atomic at its home on a mirrored page (R387): the mirror's write, unless the mirror is lost or nothing was written. -/
def State.mirrored (s : State) (lid : Word) (mir : Option Nat) (phys old : Nat) (a : Atom) (r : Answer) : State × Answer :=
  match mir.filter (fun q => !s.peerTable.contains q), r.fault, a.new old with
  | some q, none, .ok (some x) =>
    match s.mirrorWrite lid q phys (leBytes a.n x) with
    | (t, some c) => (t, { fault := some ⟨c, a.va⟩ })
    | (t, none) => (t, r)
  | _, _, _ => (s, r)

/-- A peer's atomic at this package's home (R372, R383); of a mirrored page the new value is written to the mirror before the answer, unless
its package is lost (R387); it waits while the line there is locked (R402). `eccBad` is an uncorrectable error in the write-verify (R290). -/
def State.peerAtom (s : State) (pkg part gen phys : Nat) (mir : Option Nat) (dbl eccBad : Bool) (k : AtomKind) (val : Word) : State :=
  let a : Atom := { kind := k, space := 2, va := BitVec.ofNat 64 phys, dbl := dbl, val := val, nr := false, scp := .sys }
  s.peerDo pkg part gen phys a.n [78, 79] (fun s =>
    if mir.any (fun q => !s.peerTable.contains q && s.lineLocked q phys a.n) then s else
    let old := s.numAt phys a.n
    let (t, r) := s.atomMem a (BitVec.allOnes 64) phys eccBad
    let (t, r) := t.mirrored (BitVec.allOnes 64) mir phys old a r
    t.answer (.peer pkg gen) (match r.fault with | some f => .fault f.cause | none => .data (leBytes a.n r.data.toNat)))

/-- PEER_INGRESS (R372): a request is admitted or refused at its home; of what a group of a peer asks of this package's ports, the answers go
back to it. -/
def execPeerIngress (req : PeerReq) (s : State) : Out :=
  match req with
  | .load pkg part gen phys n => .next (s.peerRead pkg part gen phys n)
  | .store pkg part gen phys bs => .next (s.peerWrite pkg part gen phys bs)
  | .atomic pkg part gen phys mir dbl ecc op v => .next (s.peerAtom pkg part gen phys mir dbl ecc (.amo op) v)
  | .cas pkg part gen phys mir dbl ecc e v => .next (s.peerAtom pkg part gen phys mir dbl ecc (.cas e) v)
  | .stg pkg part gen gid seq phys bs cut =>
    let refused := s.peerTable.contains pkg || !s.winGrants part phys bs.length [79]
    let t := if refused then s.latch 1 (BitVec.ofNat 64 phys) else s
    let (u, doom) := t.stage (s.pkgNo * 32 + portOf phys) { gid := gid, seq := seq, phys := phys, bytes := bs } (cut || refused)
    .next (u.answer (.peer pkg gen) (.stored doom))
  | .prepare pkg gid port n r q p =>
    if s.peerTable.contains pkg then .next s
    else match s.prepareAt (s.pkgNo * 32 + port % 32) gid n (r, q, p) with
      | some (t, ok) => .next (t.answer (.group pkg gid (port % 32)) (.ready ok))
      | none => .next s
  | .publish pkg gid port =>
    if s.peerTable.contains pkg then .next s
    else .next ((s.publishAt (s.pkgNo * 32 + port % 32) gid).answer (.group pkg gid (port % 32)) .told)
  | .abort pkg gid port =>
    if s.peerTable.contains pkg then .next s
    else .next ((s.updPort (s.pkgNo * 32 + port % 32) (·.forget gid)).answer (.group pkg gid (port % 32)) .told)
  | .ours id pkg granted =>
    match s.msg id with
    | some m =>
      match m.body, m.stage with
      | .acc a, .peer _ _ phys => if m.path.isSome then .next (s.atPeer m a pkg phys granted) else .next s
      | .atom _, .peer .. => if m.path.isSome && !granted then .next (s.updMsg id (fun m => m.failed .fab)) else .next s
      | _, _ => .next s
    | none => .next s
  | .elsewhere pkg phys bs =>
    if pkg = s.pkgNo ∨ s.lineLocked pkg phys bs.length then .next s
    else .next ((s.unpoison (peerLoc pkg phys) bs.length).store (BitVec.allOnes 64) (peerLoc pkg phys) bs)

/-- SYS_ATOMIC_AT_HOME (R383, R387, R396): the atomic unit of the home port performs an atomic, and writes the new value to the mirror
before it answers; the same for the CAS of a group's decision record. -/
def execSysAtomicAtHome (id : Nat) (eccBad : Bool) (s : State) : Out :=
  match s.msg id with
  | some m =>
    match m.body, m.stage with
    | .atom a, .peer pkg mir phys =>
      if m.path.isNone || (pkg :: mir.toList).any (fun q => !s.peerTable.contains q && s.lineLocked q phys a.n) then .next s
      else
        let loc := peerLoc pkg phys
        let old := s.numAt loc a.n
        let (t, r) := s.atomMem a m.lid loc eccBad
        let (u, r) := t.mirrored m.lid mir phys old a r
        let r : Answer := { r with fault := r.fault.map (fun f => { f with val := m.va }) }
        .next (u.updMsg id (fun m => { m with stage := .answered r, was := m.peerHome }))
    | .group (.cas v) gid _ _, _ =>
      match s.groupOf gid with
      | none => .next (s.gone id)
      | some (i, x) =>
        if s.recordLocked x.record then .next s
        else match s.recordCas x.record none v x.lid with
        | some (held, t) => .next ((t.gone id).groupDecided i held)
        | none => .next ((s.gone id).updGroup i (fun x => { x with step := .lost }))
    | _, _ => .next s
  | none => .next s

/-! ## Peer loss (R386) -/

/-- What the loss of a package does to something in flight. -/
def State.lose (s : State) (pkg : Nat) (m : Msg) : State :=
  if m.path.isNone then s
  else match m.body, m.stage with
    | .acc a, .answered _ =>
      -- the answer of a lost home does not come; a load goes on at the other copy, a store that is written there stands
      match m.was with
      | some (p, mir, phys) =>
        if a.kind.stores then (if (s.copiesUp p mir).isEmpty then s.peerEnds (m.failed .fab) else s)
        else if p ≠ pkg then s
        else match mir.filter (fun q => !s.peerTable.contains q) with
          | some q => s.toMirror m a q phys
          | none => s.peerEnds (m.failed .fab)
      | none => s
    | .atom _, .answered _ => if (m.was.map (·.1)) = some pkg then s.peerEnds (m.failed .fab) else s
    | .stg x, .answered _ =>
      if (m.was.map (·.1)) = some pkg then s.stgEnds m x (match x.mir with | some q => s.peerTable.contains q | none => true) false else s
    | .acc a, .peer p mir phys =>
      if !a.todo.any (fun e => e.1 == pkg) then s
      else if a.kind.stores then
        let todo := a.todo.filter (fun e => e.1 != pkg)
        if todo.isEmpty && !a.wrote then s.peerEnds (m.failed .fab)
        else s.updMsg m.id (fun m => { m with
          stage := if todo.isEmpty then .answered {} else m.stage
          was := if todo.isEmpty then m.peerHome else m.was
          body := .acc { a with todo := todo } })
      else match (if p = pkg then mir.filter (fun q => !s.peerTable.contains q) else none) with
        | some q => s.toMirror m a q phys
        | none => s.peerEnds (m.failed .fab)
    -- an atomic that has been sent to one copy is never sent to the other (R387)
    | .atom _, .peer p _ _ => if p = pkg then s.peerEnds (m.failed .fab) else s
    | .stg x, .peer p _ _ => if p = pkg then s.stgEnds m x (match x.mir with | some q => s.peerTable.contains q | none => true) false else s
    | _, _ => s

/-- PEER_LOSS (R386): the package is marked in the peer table; its outstanding accesses end, or go on at the other copy; a mirrored
destination of a group that is not being prepared yet is dropped (R404). -/
def execPeerLoss (pkg : Nat) (s : State) : Out :=
  if pkg = s.pkgNo ∨ s.peerTable.contains pkg then .next s
  else
    let t := s.net.foldl (fun t m => t.lose pkg m) { s with peerTable := insertNat pkg s.peerTable }
    let drop (x : Group) : Group :=
      if (x.st = .opened ∨ x.st = .committing) ∧ (x.step = .gather ∨ x.step = .settle) then
        { x with sent := x.sent.filter (fun d => !(d.1 / 32 == pkg && (match x.mirrored.find d.1 with
            | some l => !l.any s.peerTable.contains
            | none => false))) }
      else x
    .next { t with groups := t.groups.map (fun e => (e.1, drop e.2)) }

/-- PEER_READMIT (R386). -/
def execPeerReadmit (pkg : Nat) (s : State) : Out := .next { s with peerTable := s.peerTable.filter (· != pkg) }

end Sys2Proof.Machine
end

