-- ==== Sys2Proof/Machine/Copies.lean ====
section
/-! DEFINITION. Copies.lean: the copy engines (R275 to R280, R169) and streams (R281 to R285). -/

namespace Sys2Proof.Machine

/-- Misuse of a die instruction (R285). -/
def dieMisuse (bad : Bool) (reason : Nat) : Ex Unit := check (!bad) .ill (BitVec.ofNat 64 (2 ^ 60 + reason))

/-! ## What a request covers -/

/-- The home core of an address, for the context g. -/
def copyHome (g : Nat) (x : Nat × Word) : Nat := homeOf g x.1 x.2
/-- The bank format register of a side at scratchpad offset `off`, as sampled or as it stands. -/
def sideFmt (bf : Nat → List Word) (g : Nat) (x : Nat × Word) : Word := (bf (copyHome g x)).getD (x.2.toNat % 2 ^ 19 / 0x8000) 0
/-- The element format of a scratchpad side; raw for another side and for the codes that are not element formats (R162). -/
def sideElt (bf : Nat → List Word) (g : Nat) (x : Nat × Word) : EFmt := if 2 ≤ x.1 then .raw else efmt (fld (sideFmt bf g x) 4 0)

/-- Whether a CPY converts (R277): both sides in scratchpad banks of different element formats (log 23). -/
def converts (bf : Nat → List Word) (g : Nat) (d x : Nat × Word) : Bool :=
  let a := sideElt bf g d
  let b := sideElt bf g x
  a != .raw && b != .raw && a != b

/-- Bytes that n elements take: for BP8 in rows of k (R125, R126). -/
def eltBytes (e : EFmt) (n k : Nat) : Nat :=
  match e with
  | .bp8 => 8 * (n / max k 1) * ((k + 7) / 8)
  | _ => (n * e.bits + 7) / 8

/-- How many elements of its bank a destination side writes (R130, R169): those of whole blocks, as far as the bank goes. -/
def dstElems (e : EFmt) (off n : Nat) : Nat :=
  if e.isBlk then max n (min ((n + 23) / 24 * 24) (0x8000 * 8 / e.bits - off % 0x8000 * 8 / e.bits)) else n

/-- The fields of the control words (R277). -/
def ctlLen (w : Word) : Nat := fld w 31 0
def ctlK (w : Word) : Nat := fld w 47 32
def ctlRows (w : Word) : Nat := fld w 15 0
def ctlKx (w : Word) : Nat := fld w 31 16
def ctlMoff (w : Word) : Nat := fld w 63 32

/-- Metadata entries of a CPYX, and their bytes (R195). -/
def cpyxEntries (w : Word) (sh : Shape) (u8 : Bool) : Nat := metaCount sh u8 (ctlRows w) (ctlKx w)
def cpyxMeta (w : Word) (sh : Shape) (u8 : Bool) : Nat := (cpyxEntries w sh u8 * shapeKeep sh * shapeIw sh + 7) / 8

/-- The sides of a request: destination ranges and source ranges, as space, first address and length (R275, R277). -/
def copySides (bf : Nat → List Word) (g : Nat) (k : CopyKind) (w : Word) (d x : Nat × Word) :
    List (Nat × Word × Nat) × List (Nat × Word × Nat) :=
  match k with
  | .cpy =>
    if converts bf g d x then
      ([(d.1, d.2, eltBytes (sideElt bf g d) (dstElems (sideElt bf g d) d.2.toNat (ctlLen w)) (ctlK w))], [(x.1, x.2, eltBytes (sideElt bf g x) (ctlLen w) (ctlK w))])
    else ([(d.1, d.2, ctlLen w)], [(x.1, x.2, ctlLen w)])
  | .cpym =>
    ((maskCores (fld w 47 32)).map (fun c => (1, BitVec.ofNat 64 (c * 2 ^ 19 + d.2.toNat % 2 ^ 19), ctlLen w)), [(x.1, x.2, ctlLen w)])
  | .cpyx sh u8 =>
    let wd := (sideElt bf g d).bits / 8
    ([(d.1, d.2, ctlRows w * ctlKx w * wd)],
     [(x.1, x.2, ctlRows w * (ctlKx w * shapeKeep sh / shapeGroup sh) * wd),
      (x.1, x.2 + BitVec.ofNat 64 (ctlMoff w), cpyxMeta w sh u8)])

/-- A range as ranges of the scratchpads it lies in (R171); what lies past the end of its space is in none (R22). -/
def spadRanges (g : Nat) (write : Bool) (x : Nat × Word × Nat) : List LRange :=
  let top := if x.1 = 0 then 2 ^ 19 else 2 ^ 23
  if 2 ≤ x.1 ∨ x.2.2 = 0 ∨ top ≤ x.2.1.toNat then []
  else
    let a := if x.1 = 0 then g / 4 % 16 * 2 ^ 19 + x.2.1.toNat else x.2.1.toNat
    let last := a + min x.2.2 (top - x.2.1.toNat) - 1
    (List.range (last / 2 ^ 19 + 1 - a / 2 ^ 19)).map (fun i =>
      let c := a / 2 ^ 19 + i
      let lo := max a (c * 2 ^ 19)
      { cid := g / 64 * 16 + c % 16, base := lo % 2 ^ 19, len := min (last + 1) ((c + 1) * 2 ^ 19) - lo, dst := write })

/-- The scale ranges of a block-scaled side of a converting copy (R130, R171). -/
def scaleRange (bf : Nat → List Word) (g : Nat) (write : Bool) (x : Nat × Word) (n : Nat) : List LRange :=
  let e := sideElt bf g x
  if !e.isBlk ∨ n = 0 then []
  else
    let w := sideFmt bf g x
    let i := x.2.toNat % 0x8000 * 8 / e.bits
    [{ cid := copyHome g x, base := fld w 11 8 * 0x8000 + fld w 26 12 + i / 24, len := (i + n - 1) / 24 - i / 24 + 1, dst := write }]

/-- The first scale of a block-scaled side of a converting copy that lies past its bank (R130): its LOCAL address. -/
def scaleBad (bf : Nat → List Word) (g : Nat) (x : Nat × Word) (n : Nat) : Option Word :=
  (scaleRange bf g false x n).findSome? (fun r =>
    let xb := fld (sideFmt bf g x) 11 8 * 0x8000
    if xb + 0x8000 < r.base + r.len then some (BitVec.ofNat 64 (max r.base (xb + 0x8000))) else none)

/-- Whether two ranges overlap: scratchpad ranges by home byte, DEVICE ranges by address. -/
def sidesMeet (g : Nat) (x y : Nat × Word × Nat) : Bool :=
  if x.1 = 2 ∧ y.1 = 2 then decide (x.2.1.toNat < y.2.1.toNat + y.2.2 ∧ y.2.1.toNat < x.2.1.toNat + x.2.2)
  else (spadRanges g true x).any (fun a => (spadRanges g false y).any (fun b =>
    a.cid == b.cid && decide (a.base < b.base + b.len ∧ b.base < a.base + a.len)))

/-- Reason 2 of R285. -/
def copyShapeBad (bf : Nat → List Word) (g : Nat) (k : CopyKind) (w : Word) (d x : Nat × Word) : Bool :=
  let sides := copySides bf g k w d x
  let bank (y : Nat × Word × Nat) : Bool := y.2.2 != 0 && (y.2.1.toNat % 2 ^ 19 / 0x8000 != (y.2.1.toNat % 2 ^ 19 + y.2.2 - 1) / 0x8000)
  let de := sideElt bf g d
  let meet := sides.1.any (fun a => sides.2.any (sidesMeet g a))
  match k with
  | .cpy =>
    let bp := de == .bp8 || sideElt bf g x == .bp8
    meet || (converts bf g d x &&
      ((bp && (ctlK w == 0 || ctlLen w % ctlK w != 0)) || sides.1.any bank || sides.2.any bank ||
       (de.isBlk && (d.2.toNat % 0x8000 * 8 / de.bits) % 24 != 0)))
  | .cpym => meet
  | .cpyx sh u8 =>
    let unit := rowGroup u8
    let fit : Bool := de != .raw && de != .bp8 && (de.bits == 8 || de.bits == 16 || de.bits == 32)
    meet || ctlRows w % unit != 0 || ctlKx w % shapeGroup sh != 0 || !fit

/-! ## Issue (R275) -/

/-- The capability checks of one side: permission and space first, then every range. -/
def sideCaps (s : State) (c : Cap) (need : Nat) (spaces : List Nat) (rs : List (Nat × Word × Nat)) : Ex Unit := do
  capPerm s c c.cur [need]
  capSpace c c.cur spaces
  rs.forM (fun r => capBound c r.2.1 r.2.2)

/-- The ticket (R276). -/
def ticket (x : CopySlot) (i : Nat) : Quad :=
  BitVec.ofNat 128 (x.promise.toNat + i * 2 ^ 64 + x.eng * 2 ^ 68 + x.gen * 2 ^ 72)

/-- Requests that an engine of a die has not performed. -/
def State.copyQueue (s : State) (die eng : Nat) : List CopySlot :=
  s.ctxs.flatMap (fun e => if e.1 / 1024 = die then (e.2.copies.map (·.2)).filter (fun r => r.held && r.queued && !r.perf && r.eng == eng) else [])

/-- Steps 7 and 8 of R275 for request r in slot i: once there is room in its engine's queue it joins it, and the ticket is written; the
request of a fenced core does not leave it (R58). A CPYM with an empty mask completes at once (R277). The promise is the device's, hence
free, and no earlier than now (R276, log 2). -/
def copyEnqueue (o : Ops) (s : State) (i : Nat) (r : CopySlot) : Ex State :=
  let none_ := r.kind == .cpym && fld r.ctl 47 32 == 0
  if !none_ && (s.myCore.fenced || decide (64 ≤ (s.copyQueue s.die r.eng).length)) then .error (.wait 6 0 (s.setPhase (.part i 0)) 1)
  else
    let (p, s) := s.draw
    let r : CopySlot := { r with
      queued := true, order := s.nextId, promise := BitVec.ofNat 64 (min (s.cyc.toNat + p) (2 ^ 64 - 1))
      perf := none_, doneAt := if none_ then some s.cyc else none }
    let t := s.updMe (fun c => { c with event := c.event || none_, copies := c.copies.put i r })
    .ok (({ t with nextId := s.nextId + 1 } : State).putQ o.c (ticket r i))

/-- CPY, CPYM and CPYX (R275); the engine is the device's choice, hence free (log 2). A scale of a converting copy outside its bank (R130)
raises BOUND between steps 4 and 5, one of the source before one of the destination (log 57). DESIGN CHOICE (log 64): the ticket of a request for
which there is no slot is bit 80 alone. -/
def copyIssue (k : CopyKind) (o : Ops) (s : State) : Ex State :=
  match s.me.phase with
  | .part i _ => copyEnqueue o s i (s.me.copies.get {} i)
  | _ => do
  check88 s [srcC o.c, src o.a o.epa 2, src o.b o.epb 2]
  capTag s o.a
  capTag s o.b
  numTag s o.c.toNat
  let w := s.lo o.c
  let dc := s.capAt o.a
  let sc := s.capAt o.b
  let d : Nat × Word := (dc.spc, dc.cur)
  let x : Nat × Word := (sc.spc, sc.cur)
  let bf (cid : Nat) : List Word := (s.coreAt cid).bfmt.toList
  dieMisuse (match k with | .cpyx .. => false | _ => fld w 63 48 != 0) 1
  dieMisuse (copyShapeBad bf s.cur k w d x) 2
  match (List.range 16).find? (fun i => !(s.me.copies.get {} i).held) with
  | none => .ok (s.putQ o.c (BitVec.ofNat 128 (2 ^ 80)))
  | some i => do
    let sides := copySides bf s.cur k w d x
    sideCaps s sc pRD [0, 1, 2] sides.2
    sideCaps s dc pWR (match k with | .cpym => [1] | _ => [0, 1, 2]) sides.1
    let conv := match k with | .cpy => converts bf s.cur d x | _ => false
    match (if conv then (scaleBad bf s.cur x (ctlLen w)).orElse (fun _ => scaleBad bf s.cur d (ctlLen w)) else none) with
    | some a => .error (.trap .bound a)
    | none => .ok ()
    let rs := sides.1.flatMap (spadRanges s.cur true) ++ sides.2.flatMap (spadRanges s.cur false) ++
      (if conv then scaleRange bf s.cur true d (ctlLen w) ++ scaleRange bf s.cur false x (ctlLen w) else [])
    let at_ (cid off : Nat) : Word := if d.1 = 0 then BitVec.ofNat 64 off else cluAddr cid off
    match (if s.resGrant.contains s.me.lid then none else rs.findSome? (fun r => if r.dst then ((s.coreAt r.cid).resAt r.base r.len).map (at_ r.cid) else none)) with
    | some a => .error (.trap .perm a)
    | none => do
      match rs.findSome? (fun r => if r.dst then ((s.coreAt r.cid).poolAt r.base r.len).map (at_ r.cid) else none) with
      | some a => .error (.trap .perm a)
      | none => .ok ()
      match (match k with | .cpym => (maskCores (fld w 47 32)).find? (fun c => (s.coreAt (s.clu * 16 + c)).lid != s.me.lid) | _ => none) with
      | some c => .error (.trap .part (BitVec.ofNat 64 (s.clu * 16 + c)))
      | none =>
        let dev := sides.2.any (fun r => r.1 == 2)
        if s.loadsOut || s.gate || rs.any (fun r => (!r.dst && s.storesTo r.cid) || s.anyQueued r.cid r.base r.len) || (dev && s.devStores != 0) then
          .error (.stall s)
        else if !locksFree s [] rs then .error (.wait 6 0 s)
        else
          let (e, s) := s.draw
          let homes := (rs.map (·.cid)).eraseDups
          let r : CopySlot := {
            gen := ((s.me.copies.get {} i).gen + 1) % 256, held := true, queued := false, kind := k, key := s.nextId, lid := s.me.lid
            pid := s.me.pid.toNat, eng := e % 4, ctl := w, dst := d, src := x, bf := homes.map (fun c => (c, bf c)) }
          let t := (s.enterLocks s.cur s.nextId true s.cid rs).updMe (fun c => { c with copies := c.copies.put i r })
          copyEnqueue o { t with nextId := s.nextId + 1 } i r

/-- CPY (R277). -/
def execCpy (o : Ops) (s : State) : Out := s.settle (copyIssue .cpy o s)
/-- CPYM (R277). -/
def execCpym (o : Ops) (s : State) : Out := s.settle (copyIssue .cpym o s)
/-- CPYX (R277). -/
def execCpyx (sh : Shape) (u8 : Bool) (o : Ops) (s : State) : Out := s.settle (copyIssue (.cpyx sh u8) o s)

/-! ## Joining (R279, R280) -/

/-- The outstanding request that a ticket names. -/
def State.copyOf (s : State) (t : Quad) : Option (Nat × CopySlot) :=
  let i := fld t 67 64
  let r := s.me.copies.get {} i
  if r.held && r.gen == fld t 79 72 then some (i, r) else none

/-- The completion effects of a request (R279): locks, flags, slot, and the report of a failure. -/
def copyJoin (s : State) (i : Nat) (r : CopySlot) : Ex State :=
  let t := (s.unlock r.key).updMe (fun c => { c with copies := c.copies.put i { gen := r.gen }, fcs := c.fcs ||| (r.flags.setWidth 64 <<< 4) })
  match r.fault with
  | some f => .error (.report f.cause f.val t)
  | none => .ok t

/-- What marks the phase of a context that waits in CWAIT. -/
def cwaitMark : Nat := 2 ^ 40

/-- CWAIT (R279). -/
def execCwait (o : Ops) (s : State) : Out := s.settle (do
  let _ ← arg1 o s
  match s.copyOf (s.bits o.b) with
  | none => .ok (s.put o.d 0)
  | some (i, r) =>
    match r.doneAt with
    | some n => do
      let t ← copyJoin s i r
      .ok (t.put o.d n)
    | none =>
      if r.promise.toNat < s.cyc.toNat ∧ !r.reported then
        .error (.report .prom r.promise (s.updMe (fun c => { c with copies := c.copies.put i { r with reported := true } })))
      else .error (.wait 6 0 (s.setPhase (.part i (cwaitMark + r.gen)))))

/-- CPOLL (R280). -/
def execCpoll (o : Ops) (s : State) : Out := s.settle (do
  let _ ← arg1 o s
  match s.copyOf (s.bits o.b) with
  | none => .ok (s.put o.d 3)
  | some (i, r) =>
    match r.doneAt with
    | some _ => do
      let t ← copyJoin s i r
      .ok (t.put o.d 1)
    | none => .ok (s.put o.d (if r.promise.toNat < s.cyc.toNat then 2 else 0)))

/-- PROMISE_MISS (R279): CYC passes the promise during a CWAIT: PROM is raised, once for the request. -/
def execPromiseMiss (g : Nat) (s : State) : Out :=
  let c := s.ctxAt g
  match c.phase, c.wait with
  | .part i x, some w =>
    let r := c.copies.get {} i
    if x = cwaitMark + r.gen ∧ r.held ∧ r.doneAt.isNone ∧ !r.reported ∧ r.promise.toNat < s.cyc.toNat then
      .next ((s.updCtx g (fun c => { c with copies := c.copies.put i { r with reported := true } })).takeTrap g .prom r.promise true w.ilen)
    else .next s
  | _, _ => .next s

/-! ## Performing (R278, R169) -/

/-- Where one byte of a side is. -/
inductive Spot | at (loc : Nat) | hold | bad (f : RFault)
  deriving DecidableEq, Repr, Inhabited

/-- The location of one byte of a side, for reading or writing; a home that cannot be reached now, a moving page and a line locked for a
group hold the engine. A poisoned byte is a fault with its home's address; a byte of a pool is not written (R298). -/
def copySpot (s : State) (g pid : Nat) (space : Nat) (va : Word) (write : Bool) : Spot × State :=
  if space = 2 then
    match translate s (g / 1024) pid va [if write then lWR else lRD] with
    | (some (_, .home p), t) =>
      if t.lineLocked t.pkgNo p 1 then (.hold, t)
      else if !write && (t.poisonedAt p 1).isSome then (.bad ⟨.pois, BitVec.ofNat 64 p⟩, t) else (.at p, t)
    | (some (_, .moving), t) => (.hold, t)
    | (_, t) => (.bad ⟨.xlat, va⟩, t)
  else
    let cid := homeOf g space va
    let off := va.toNat % 2 ^ 19
    if !(s.coreAt cid).open_ then (.hold, s)
    else if write && ((s.coreAt cid).poolAt off 1).isSome then (.bad ⟨.perm, va⟩, s)
    else if !write && (s.poisonedAt (spad cid off) 1).isSome then (.bad ⟨.pois, va⟩, s)
    else (.at (spad cid off), s)

/-- Reads bytes of a side as far as nothing stops it: the bytes, and what stopped it. -/
def copyRead (g pid space : Nat) : Nat → Word → State → List Byte × Option (Option RFault) × State
  | 0, _, s => ([], none, s)
  | n + 1, va, s =>
    match copySpot s g pid space va false with
    | (.hold, t) => ([], some none, t)
    | (.bad f, t) => ([], some (some f), t)
    | (.at loc, t) =>
      let r := copyRead g pid space n (va + 1) t
      (Memory.read t.mem loc :: r.1, r.2.1, r.2.2)

/-- Writes bytes of a side, ascending: the fault that stops it. The range `lo`, `len` is the whole destination: a poisoned unit wholly in it
is cleared with its last byte, any other stops the copy (R179, R289). -/
def copyWrite (g pid : Nat) (lid : Word) (space : Nat) (lo : Word) (len : Nat) : List Byte → Word → State → Option (Option RFault) × State
  | [], _, s => (none, s)
  | b :: bs, va, s =>
    match copySpot s g pid space va true with
    | (.hold, t) => (some none, t)
    | (.bad f, t) => (some (some f), t)
    | (.at loc, t) =>
      let unit := if isSpad loc then 8 else 64
      let first := va.toNat - loc % unit
      let bad := t.poison.contains (poisonUnit loc)
      if bad && !(decide (lo.toNat ≤ first) && decide (first + unit ≤ lo.toNat + len)) then
        (some (some ⟨.pois, if space = 2 then BitVec.ofNat 64 loc else va⟩), t)
      else
        let u := if bad && loc % unit == unit - 1 then { t with poison := t.poison.filter (· != poisonUnit loc) } else t
        copyWrite g pid lid space lo len bs (va + 1) ((u.store lid loc [b]).noteVa lid va loc [b])

/-- Ends a request's performance. -/
def State.copyDone (s : State) (g i : Nat) (r : CopySlot) (f : Option RFault) : State :=
  s.updCtx g (fun c => { c with copies := c.copies.put i { r with perf := true, fault := f } })

/-- The next part of a raw copy: up to the next 64-byte boundary of either side. -/
def copyChunk (s : State) (g i : Nat) (r : CopySlot) : State :=
  let len := ctlLen r.ctl
  let sva := r.src.2 + BitVec.ofNat 64 r.pos
  let dva := r.dst.2 + BitVec.ofNat 64 r.pos
  let n := min (len - r.pos) (min (64 - sva.toNat % 64) (64 - dva.toNat % 64))
  if n = 0 then s.copyDone g i r none
  else
    let (bs, stop, t) := copyRead g r.pid r.src.1 n sva s
    match stop with
    | some none => t
    | _ =>
      match copyWrite g r.pid r.lid r.dst.1 r.dst.2 len bs dva t, stop with
      | (some none, _), _ => t
      | (some (some f), u), _ => u.copyDone g i r (some f)
      | (none, u), some (some f) => u.copyDone g i r (some f)
      | (none, u), _ =>
        if r.pos + n = len then u.copyDone g i r none
        else u.updCtx g (fun c => { c with copies := c.copies.put i { r with pos := r.pos + n } })

/-- CPYM: the whole source goes to every core of the mask (R277). -/
def copyMulti (s : State) (g i : Nat) (r : CopySlot) : State :=
  let cores := maskCores (fld r.ctl 47 32)
  if cores.isEmpty then s.copyDone g i r none
  else
    let (bs, stop, t) := copyRead g r.pid r.src.1 (ctlLen r.ctl) r.src.2 s
    match stop with
    | some none => t
    | _ =>
      let fault := match stop with | some f => f | none => none
      let res := cores.foldl (fun (x : Option (Option RFault) × State) c => match x with
        | (none, u) => let a := BitVec.ofNat 64 (c * 2 ^ 19 + r.dst.2.toNat % 2 ^ 19); copyWrite g r.pid r.lid 1 a (ctlLen r.ctl) bs a u
        | x => x) (none, t)
      match res with
      | (some none, _) => t
      | (some (some f), u) => u.copyDone g i r (some f)
      | (none, u) => u.copyDone g i r fault

/-- The sampled formats of a request. -/
def CopySlot.fmts (r : CopySlot) (cid : Nat) : List Word := (r.bf.find? (fun e => e.1 == cid)).map (·.2) |>.getD []

/-- The bits of element j of a converting side, as an element of a scratchpad bank (R125, R126). -/
def convBits (s : State) (e : EFmt) (home off n k j : Nat) : Nat :=
  match e with
  | .bp8 =>
    let rb := (k + 7) / 8
    let plane := n / max k 1 * rb
    (List.range 8).foldl (fun x p =>
      let b := (Memory.read s.mem (spad home (off + (7 - p) * plane + j / max k 1 * rb + j % max k 1 / 8))).toNat
      x + b / 2 ^ (j % max k 1 % 8) % 2 * 2 ^ p) 0
  | _ =>
    if e.bits = 4 then (Memory.read s.mem (spad home (off + j / 2))).toNat / 16 ^ (j % 2) % 16
    else s.numAt (spad home (off + j * (e.bits / 8))) (e.bits / 8)

/-- The offsets of the bytes of element j of a converting side. -/
def convBytes (e : EFmt) (off n k j : Nat) : List Nat :=
  match e with
  | .bp8 =>
    let rb := (k + 7) / 8
    (List.range 8).map (fun p => off + p * (n / max k 1 * rb) + j / max k 1 * rb + j % max k 1 / 8)
  | _ => if e.bits = 4 then [off + j / 2] else (List.range (e.bits / 8)).map (off + j * (e.bits / 8) + ·)

/-- The offset of the scale of element j of a block-scaled side (R130). -/
def convScale (w : Word) (e : EFmt) (off j : Nat) : Nat :=
  fld w 11 8 * 0x8000 + fld w 26 12 + (off % 0x8000 * 8 / e.bits + j) / 24

/-- The fault that reading source element j of a converting copy finds: poison, or an FP32 value of the ABN class (R134). -/
def convFault (s : State) (w : Word) (e : EFmt) (g : Nat) (x : Nat × Word) (n k j : Nat) : Option RFault :=
  let home := copyHome g x
  let off := x.2.toNat % 2 ^ 19
  let bytes := convBytes e off n k j ++ (if e.isBlk then [convScale w e off j] else [])
  match bytes.find? (fun b => (s.poisonedAt (spad home b) 1).isSome) with
  | some b => some ⟨.pois, asAddr x.2 off b⟩
  | none => if e = .flt fp32 ∧ isAbn (BitVec.ofNat 32 (convBits s e home off n k j)) then some ⟨.abn, asAddr x.2 off (off + 4 * j)⟩ else none

/-- The flags of a converting copy whose writing a fault has stopped (R137, R278): those of the conversions whose bytes stand. `parts` are the
flags of the elements, or of the blocks of `w` elements; `lim` is the offset of the first byte that does not stand, none for no limit. -/
def keptFlags (de : EFmt) (doff n k m w : Nat) (parts : List Flags) (lim : Option Nat) : Flags :=
  ((List.range parts.length).zip parts).foldl (fun x e =>
    let stands (l : Nat) : Bool := (convBytes de doff n k (min (m - 1) (w * (e.1 + 1) - 1))).all (fun b => decide (b < l))
    if lim.all stands then x ||| e.2 else x) 0

/-- A converting CPY (R169, R277, R278): the elements below the first that cannot be read are converted; one that meets ABN writes nothing
(R134). The flags of the conversions that stand are kept. -/
def copyConvert (s : State) (g i : Nat) (r : CopySlot) : State :=
  let n := ctlLen r.ctl
  let k := ctlK r.ctl
  let sw := sideFmt r.fmts g r.src
  let dw := sideFmt r.fmts g r.dst
  let se := efmt (fld sw 4 0)
  let de := efmt (fld dw 4 0)
  let sh := copyHome g r.src
  let dh := copyHome g r.dst
  let soff := r.src.2.toNat % 2 ^ 19
  let doff := r.dst.2.toNat % 2 ^ 19
  if !(s.coreAt sh).open_ || !(s.coreAt dh).open_ then s
  else
    let bad := (List.range n).findSome? (fun j => (convFault s sw se g r.src n k j).map (fun f => (j, f)))
    let m := match bad with | some (j, f) => (if f.cause = .abn then 0 else if de.isBlk then j / 24 * 24 else if de = .bp8 then 0 else j) | none => n
    let vals := (List.range m).map (fun j =>
      se.value (convBits s se sh soff n k j) (if se.isBlk then s.numAt (spad sh (convScale sw se soff j)) 1 else 127))
    let (els, scales, parts) : List Nat × List Nat × List Flags := match de with
      | .blk f =>
        let bs := (List.range ((m + 23) / 24)).map (fun b => quantBlock f false ((vals.drop (24 * b)).take 24))
        (bs.flatMap (·.2.1), bs.map (·.1), bs.map (·.2.2))
      | _ => let rs := vals.map (fun v => de.encode v 127); (rs.map (·.1), [], rs.map (·.2))
    let flags := keptFlags de doff n k m (if de.isBlk then 24 else 1) parts
    let rows : List (Nat × List Byte) := match de with
      | .bp8 =>
        let rb := (k + 7) / 8
        (List.range 8).flatMap (fun p => (List.range (m / max k 1)).map (fun row =>
          (doff + p * (n / max k 1 * rb) + row * rb, (List.range rb).map (fun b => BitVec.ofNat 8 ((List.range 8).foldl (fun x t =>
            if 8 * b + t < k then x + els.getD (row * k + 8 * b + t) 0 / 2 ^ (7 - p) % 2 * 2 ^ t else x) 0)))))
      | .blk _ =>
        let full := els ++ List.replicate (dstElems de doff m - els.length) 0
        [(doff, ((List.range full.length).zip full).foldl (fun bs x => setElem de bs x.1 x.2) (s.bytesAt (spad dh doff) ((full.length * de.bits + 7) / 8)))]
      | _ => [(doff, ((List.range m).zip els).foldl (fun bs x => setElem de bs x.1 x.2) (s.bytesAt (spad dh doff) ((m * de.bits + 7) / 8)))]
    let scs := (List.range scales.length).map (fun b => (convScale dw de doff (24 * b), [BitVec.ofNat 8 (scales.getD b 0)]))
    let len := eltBytes de (dstElems de doff n) k
    let put (lo len : Nat) (x : Option (Option RFault) × State) (w : Nat × List Byte) : Option (Option RFault) × State :=
      match x with
      | (none, u) => copyWrite g r.pid r.lid r.dst.1 (asAddr r.dst.2 doff lo) len w.2 (asAddr r.dst.2 doff w.1) u
      | x => x
    let low := decide (convScale dw de doff 0 < doff)
    let putRows (x : Option (Option RFault) × State) := rows.foldl (put doff len) x
    let putScales (x : Option (Option RFault) × State) := scs.foldl (put (convScale dw de doff 0) scales.length) x
    -- in ascending order of the destination's bytes, its scales among them
    let first := if low then putScales (none, s) else putRows (none, s)
    match first, (if low then putRows first else putScales first) with
    | (some none, _), _ => s
    | (some (some f), u), _ => u.copyDone g i { r with flags := if low then 0 else flags (some (doff + (f.val - r.dst.2).toNat)) } (some f)
    | _, (some none, _) => s
    | _, (some (some f), u) => u.copyDone g i { r with flags := flags (if low then some (doff + (f.val - r.dst.2).toNat) else none) } (some f)
    | _, (none, u) => u.copyDone g i { r with flags := flags none } (bad.map (·.2))

/-- CPYX (R277): every metadata entry is checked before a byte is written. -/
def copyExpand (s : State) (g i : Nat) (r : CopySlot) (sh : Shape) (u8 : Bool) : State :=
  let de := sideElt r.fmts g r.dst
  let wd := de.bits / 8
  let rows := ctlRows r.ctl
  let k := ctlKx r.ctl
  let kc := k * shapeKeep sh / shapeGroup sh
  let n := rows * kc * wd
  let (ms, stop, t) := copyRead g r.pid r.src.1 (cpyxMeta r.ctl sh u8) (r.src.2 + BitVec.ofNat 64 (ctlMoff r.ctl)) s
  match stop with
  | some none => t
  | some (some f) => t.copyDone g i r (some f)
  | none =>
    let es := metaEntries sh (leVal ms) (cpyxEntries r.ctl sh u8)
    match metaBad es with
    | some e => t.copyDone g i r (some ⟨.metad, BitVec.ofNat 64 e⟩)
    | none =>
      let (bs, stop, t) := copyRead g r.pid r.src.1 n r.src.2 t
      match stop with
      | some none => t
      | _ =>
        let gw := shapeGroup sh
        -- the destination elements whose source has been read
        let elem (row c : Nat) : Option (List Byte) :=
          match (es.getD (row / rowGroup u8 * (k / gw) + c / gw) []).findIdx? (· == c % gw) with
          | none => some (List.replicate wd 0)
          | some p =>
            let o := (row * kc + c / gw * shapeKeep sh + p) * wd
            if o + wd ≤ bs.length then some ((bs.drop o).take wd) else none
        let all := (List.range rows).flatMap (fun row => (List.range k).map (elem row))
        let out := (all.takeWhile Option.isSome).flatMap (fun x => x.getD [])
        match copyWrite g r.pid r.lid r.dst.1 r.dst.2 (rows * k * wd) out r.dst.2 t with
        | (some none, _) => t
        | (some (some f), u) => u.copyDone g i r (some f)
        | (none, u) => u.copyDone g i r (match stop with | some f => f | none => none)

/-- COPY_REQUEST_PERFORM (R278): an engine goes on with the oldest request of its queue. -/
def execCopyRequestPerform (g slot : Nat) (s : State) : Out :=
  let r := (s.ctxAt g).copies.get {} slot
  if !r.held || !r.queued || r.perf || (s.copyQueue (g / 1024) r.eng).any (fun x => decide (x.order < r.order)) then .next s
  else match r.kind with
    | .cpy => .next (if converts r.fmts g r.dst r.src then copyConvert s g slot r else copyChunk s g slot r)
    | .cpym => .next (copyMulti s g slot r)
    | .cpyx sh u8 => .next (copyExpand s g slot r sh u8)

/-- COPY_COMPLETE (R278, R60): the request is complete; the event bit of its context is set, and its flags reach CFU (R137). One whose
firing has ended leaves, and its locks are released (R76). A fenced core is not told (R58). -/
def execCopyComplete (g slot : Nat) (s : State) : Out :=
  let r := (s.ctxAt g).copies.get {} slot
  if (s.coreAt (g / 4)).fenced || !r.held || !r.perf || r.doneAt.isSome then .next s
  else
    let t := s.unionFlags g r.flags
    if r.orphan then .next ((t.unlock r.key).updCtx g (fun c => { c with copies := c.copies.put slot { gen := r.gen } }))
    else .next (t.updCtx g (fun c => { c with event := true, copies := c.copies.put slot { r with doneAt := some s.cyc } }))

/-! ## Streams (R281 to R284) -/

/-- Whether every link of a route is free. -/
def State.routeFree (s : State) (g target : Nat) : Bool := (strRoute (g / 4) target).all (fun l => !s.strLinks.any (fun e => e.1 == l))

/-- Reserves a route for the stream of a context; over a router that is fenced or in reset the stream is broken from the start (R284). -/
def State.openStream (s : State) (g target tag : Nat) : State :=
  ({ s with strLinks := (strRoute (g / 4) target).foldl (fun t l => t.put l s.nextId) s.strLinks, nextId := s.nextId + 1 } : State).updCtx g
    (fun c => { c with stream := some { target := target, tag := tag, key := s.nextId, broken := s.streamCut g { target := target, tag := tag, key := s.nextId } } })

/-- What marks the phase of a context that waits in SOPEN. -/
def sopenMark : Nat := 2 ^ 41

/-- SOPEN (R281). -/
def execSopen (o : Ops) (s : State) : Out := s.settle (do
  let w ← arg1 o s
  match s.me.phase with
  | .done _ => .ok (s.put o.d 0)
  | .part .. => .error (.wait 6 0 s)
  | _ => do
    let tag := fld w 14 11
    let target := fld w 10 0
    dieMisuse (tag == 0 || tag == 15 || fld w 63 15 != 0) 3
    if s.me.stream.isSome then .ok (s.put o.d 1)
    else do
      check ((s.coreAt target).open_ && (s.coreAt target).lid == s.me.lid) .part (BitVec.ofNat 64 target)
      if s.routeFree s.cur target then .ok ((s.openStream s.cur target tag).put o.d 0)
      else .error (.wait 6 0 (s.setPhase (.part target (sopenMark + tag)))))

/-- STREAM_ROUTE_RETRY (R281): a waiting SOPEN tries its route again. -/
def execStreamRouteRetry (g : Nat) (s : State) : Out :=
  match (s.ctxAt g).phase with
  | .part target x =>
    if sopenMark ≤ x ∧ s.routeFree g target then
      .next ((s.openStream g target (x - sopenMark)).updCtx g (fun c => { c with phase := .done {} }))
    else .next s
  | _ => .next s

/-- The stream that SSEND and SCLOSE use: a broken one is released, with PART (R284). -/
def liveStream (s : State) (x : Stream) : Ex Unit :=
  if x.broken then .error (.post .part (BitVec.ofNat 64 x.target) (s.dropStream s.cur)) else .ok ()

/-- SSEND (R282): the window is one message of the stream; what R81 keeps before a message to the target is performed first. -/
def execSsend (o : Ops) (s : State) : Out := s.settle (do
  let n := 2 ^ o.l.toNat
  check88 s [src o.b o.epb n]
  match s.me.stream with
  | none => do dieMisuse true 4; .ok s
  | some x => do
    liveStream s x
    if s.streamBusy s.cur then .error (.wait 6 0 s)
    else do
      orderMsg s x.target
      let p : Packet := {
        from_ := s.cur, fire := s.me.fire, to_ := x.target, tag := x.tag, msg := true, regs := (s.win o.b n).map (·.1), id := s.nextId }
      .ok ((s.send s.cur (.packet p)).updMe (fun c => { c with stream := some { x with count := x.count + 1 } })))

/-- SCLOSE (R283). -/
def execSclose (o : Ops) (s : State) : Out := s.settle (do
  check88 s [dst o.d]
  match s.me.stream with
  | none => .ok (s.put o.d (BitVec.allOnes 64))
  | some x => do
    liveStream s x
    if s.streamBusy s.cur then .error (.wait 6 0 s) else .ok ((s.dropStream s.cur).put o.d (BitVec.ofNat 64 x.count)))

/-- STREAM_BREAK (R284): a router on the route of a context's stream is fenced or in reset: the stream is broken, a saved one as well. It is
broken at the latest when that happens; this event finds it broken before. -/
def execStreamBreak (g : Nat) (s : State) : Out := .next (s.breakStream g)

end Sys2Proof.Machine
end

