-- ==== Sys2Proof/Machine/Claims.lean ====
section
/-! DEFINITION. Claims.lean: fields as a core sees them (R292 to R302), and the instructions of page 5 (R296, R305 to R320). What
owners, directories and field homes do is in ClaimEvents.lean. -/

namespace Sys2Proof.Machine

/-! ## Bound fields -/

/-- The slot in which a core has bound a field (R296). -/
def Core.fieldSlot (k : Core) (pid n : Nat) : Option FSlot := k.fslots.toList.find? (fun f => f.bound && f.pid == pid && f.num == n)

/-- A finite F32 value in units of 2^−149, exactly. -/
def f32Units (x : BitVec 32) : Int :=
  let m : Int := if fld x 30 23 = 0 then fld x 22 0 else (2 ^ 23 + fld x 22 0) * 2 ^ (fld x 30 23 - 1)
  if bitAt x 31 then -m else m

/-- The F32 orders of R294 and R295. -/
def f32Lt (x y : BitVec 32) : Bool := (f32Rel .lt x y).1
def f32Le (x y : BitVec 32) : Bool := (f32Rel .le x y).1
def f32Nan (x : BitVec 32) : Bool := (f32Val x).isNan
def f32Inf (x : BitVec 32) : Bool := fld x 30 0 == 0x7F800000
def f32Fin (x : BitVec 32) : Bool := fld x 30 23 != 255

/-- The largest F32 value below a finite one (R295). -/
def f32Below (x : BitVec 32) : BitVec 32 := if fld x 30 0 = 0 then 0x80000001 else if bitAt x 31 then x + 1 else x - 1

/-- One owning coordinate under POL (R295); none raises COORD. -/
def FSlot.place (f : FSlot) (a : Nat) (x : BitVec 32) : Option (BitVec 32) :=
  let x := if x = 0x80000000 then 0 else x
  let lo := f.lo.getD a 0
  let hi := f.hi.getD a 0
  if !f32Lt x lo && f32Lt x hi then some x
  else match fld f.word 19 18 with
    | 0 => some (if f32Lt x lo then lo else f32Below hi)
    | 1 =>
      if f32Inf x then none
      else
        let l := f32Units lo
        some (toF32 3 (Num.ofFrac false (l + (f32Units x - l) % (f32Units hi - l)) 1 (-149), 0)).1
    | _ => none

/-- The adjusted coordinates of a position (R295), or the value of TVAL with which COORD is raised. -/
def FSlot.adjust (f : FSlot) (x : List (BitVec 32)) : Except Nat (List (BitVec 32)) :=
  match (List.range f.crd).find? (fun i => f32Nan (x.getD i 0)) with
  | some i => .error (8 + i)
  | none => (List.range f.crd).mapM (fun i =>
      if i < f.dim then (match f.place i (x.getD i 0) with | some v => .ok v | none => .error i) else .ok (x.getD i 0))

/-- The parts of a tree node (R293). -/
def nodeAx (n : Quad) : Nat := fld n 1 0
def nodeLo (n : Quad) : Nat := fld n 31 16
def nodeHi (n : Quad) : Nat := fld n 47 32
def nodeSplit (n : Quad) : BitVec 32 := BitVec.ofNat 32 (fld n 95 64)
def nodeOwner (n : Quad) : Nat := fld n 26 16

/-- The walk of R294 from node n; a path has at most 32 nodes. -/
def ownerWalk (nodes : List Quad) (x : List (BitVec 32)) : Nat → Nat → Nat
  | 0, _ => 0
  | k + 1, n =>
    let q := nodes.getD n 0
    if nodeAx q = 3 then nodeOwner q
    else
      let v := x.getD (nodeAx q) 0
      let v := if v = 0x80000000 then 0 else v
      ownerWalk nodes x k (if f32Le (nodeSplit q) v then nodeHi q else nodeLo q)

/-- The owner of an adjusted position (R294). -/
def FSlot.owner (f : FSlot) (x : List (BitVec 32)) : Nat := ownerWalk f.nodes x 32 0

/-- The leaves below a node with their boxes: lower and upper bounds by axis (R316). -/
def leafBoxes (nodes : List Quad) : Nat → Nat → List (BitVec 32) → List (BitVec 32) → List (Nat × List (BitVec 32) × List (BitVec 32))
  | 0, _, _, _ => []
  | k + 1, n, lo, hi =>
    let q := nodes.getD n 0
    if nodeAx q = 3 then [(nodeOwner q, lo, hi)]
    else
      -- a split outside the box leaves one side empty
      let a := nodeAx q
      let v := nodeSplit q
      let low (x y : BitVec 32) : BitVec 32 := if f32Lt x y then x else y
      let high (x y : BitVec 32) : BitVec 32 := if f32Lt x y then y else x
      leafBoxes nodes k (nodeLo q) lo (hi.set a (low (hi.getD a 0) v)) ++ leafBoxes nodes k (nodeHi q) (lo.set a (high (lo.getD a 0) v)) hi

/-- The axes of a mask. -/
def axesOf (m : Nat) : List Nat := (List.range 8).filter (m.testBit ·)

/-- Whether a box on one axis meets the closed interval of radius ρ = √rsq × (1 + 2^−20) around c (R316), exactly: both sides are compared
by their squares, in units of 2^−149. An empty box meets nothing. -/
def meetsBall (lo hi c rsq : BitVec 32) : Bool :=
  let k : Int := (2 ^ 20 + 1) ^ 2
  -- d ≤ ρ, or d < ρ, for d = x / 2^149
  let within (d : Int) (strict : Bool) : Bool :=
    let l := d * d * 2 ^ 40
    let r := f32Units rsq * k * 2 ^ 149
    decide (d < 0) || (if strict then decide (l < r) else decide (l ≤ r))
  f32Lt lo hi && f32Fin c && within (f32Units lo - f32Units c) false && within (f32Units c - f32Units hi) true

/-- Whether a query's region touches a leaf's box (R316). -/
def Query.touches (q : Query) (dim : Nat) (lo hi : List (BitVec 32)) : Bool :=
  let own := (axesOf q.axes).filter (· < dim)
  let r (i : Nat) : BitVec 32 := q.region.getD i 0
  if q.radial then
    if f32Inf (r 8) && !bitAt (r 8) 31 then true
    else if f32Lt (r 8) 0 then false
    else own.all (fun a => meetsBall (lo.getD a 0) (hi.getD a 0) (r a) (r 8))
  else
    (axesOf q.axes).all (fun a => f32Lt (r a) (r (8 + a))) &&
    own.all (fun a => f32Lt (r a) (hi.getD a 0) && f32Lt (lo.getD a 0) (r (8 + a)))

/-- The owners a query visits, each once (R316). -/
def FSlot.visited (f : FSlot) (q : Query) : List Nat :=
  (((leafBoxes f.nodes 32 0 f.lo f.hi).filter (fun b => q.touches f.dim b.2.1 b.2.2)).map (·.1)).eraseDups

/-- Whether a copy's coordinates lie in the region (R314, R315). -/
def Query.matches_ (q : Query) (x : List (BitVec 32)) : Bool :=
  let r (i : Nat) : BitVec 32 := q.region.getD i 0
  if q.radial then
    let sum := (axesOf q.axes).foldl (fun sum a =>
      let d := (f32Sub 0 (x.getD a 0) (r a)).1
      (f32Add 0 sum (f32Mul 0 d d).1).1) 0
    f32Le sum (r 8)
  else (axesOf q.axes).all (fun a => f32Le (r a) (x.getD a 0) && f32Lt (x.getD a 0) (r (8 + a)))

/-! ## Checks (R302, R322) -/

/-- Misuse of R322. -/
def spIll (bad : Bool) (reason : Nat) : Ex Unit := check (!bad) .ill (BitVec.ofNat 64 (2 ^ 59 + reason))

/-- The field that a capability's cursor names, bound on the issuing core, or reason 1. -/
def fieldOf (s : State) (c : Cap) : Ex FSlot :=
  match s.myCore.fieldSlot s.me.pid.toNat (fld c.cur 63 56) with
  | some f => .ok f
  | none => .error (.trap .ill (BitVec.ofNat 64 (2 ^ 59 + 1)))

/-- The checks of R94 on a FIELD capability (R302). -/
def fieldCap (s : State) (c : Cap) (a : Word) (n : Nat) (need : Nat) : Ex Unit := do
  capPerm s c a [need]
  capSpace c a [3]
  capBound c a n

/-- The address of a field instruction. -/
def fieldBase (c : Cap) : Word := BitVec.ofNat 64 (fld c.cur 63 56 * 2 ^ 56)

/-- The eight lanes of a position window. -/
def State.position (s : State) (n : RegNo) : List (BitVec 32) := (List.range 8).map (fun i => s.me.lane n.toNat i)

/-- The adjusted position, or COORD (R295). -/
def positionOf (s : State) (f : FSlot) (n : RegNo) : Ex (List (BitVec 32)) :=
  match f.adjust (s.position n) with
  | .ok x => .ok x
  | .error v => .error (.trap .coord (BitVec.ofNat 64 v))

/-! ## Sending requests (R301, R313) -/

/-- A request by handle: to the owner that the core's cache names, or to the directory (R301). -/
def handleReq (s : State) (f : FSlot) (h : Word) (op : SpOp) (posted : Bool) : SpReq :=
  let read := match op with | .read .. => true | _ => false
  let r : SpReq := {
    op := op, fld := f.num, desc := f.desc, home := f.home, handle := h, posted := posted
    held := read && s.net.any (fun m => m.isPosted s.cur s.me.fire && (match m.body with | .sp x => x.handle == h | _ => false)) }
  match s.myCore.hcache.find h.toNat with
  | some o => { r with owner := o }
  | none => { r with step := .dir }

/-- A posted operation leaves, or waits while sixteen are outstanding; that wait is not a blocked wait (R313). -/
def postSpatial (s : State) (r : SpReq) : Ex State :=
  if 16 ≤ (s.net.filter (fun m => m.isPosted s.cur s.me.fire)).length then .error (.stall s)
  else .ok (s.send s.cur (.sp r))

/-- The checks of a handle instruction that moves or deletes: the capability with WR over the handle (R302). -/
def handleWr (s : State) (o : Ops) : Ex (Cap × FSlot) := do
  let c := s.capAt o.b
  let f ← fieldOf s c
  fieldCap s c c.cur 1 pWR
  .ok (c, f)

/-- The status of a handle instruction that waits, or HNDL (R306, R309). -/
def handleStatus (o : Ops) (s : State) (a : Answer) : Ex State :=
  match a.fault with
  | some f => .error (.trap f.cause f.val)
  | none => .ok (s.putQ o.d a.data)

/-- SNEW (R305). -/
def execSnew (o : Ops) (s : State) : Out := s.settle (rpc s 6 0 (do
  check88 s [dst o.d, src o.a o.epa 2, src o.b o.epb 2]
  numWin s o.a 2
  capTag s o.b
  let c := s.capAt o.b
  let f ← fieldOf s c
  fieldCap s c (fieldBase c) (2 ^ 56) pWR
  let x ← positionOf s f o.a
  .ok (s.send s.cur (.sp { op := .create x, fld := f.num, desc := f.desc, home := f.home, owner := f.owner x })))
  (fun a => .ok (s.putQ o.d a.data)))

/-- SDEL (R309). -/
def execSdel (o : Ops) (s : State) : Out := s.settle (rpc s 6 0 (do
  check88 s [dst o.d, src o.b o.epb 2]
  capTag s o.b
  let (c, f) ← handleWr s o
  .ok (s.send s.cur (.sp (handleReq s f c.cur .del false)))) (handleStatus o s))

/-- SPUT (R306). -/
def execSput (o : Ops) (s : State) : Out := s.settle (rpc s 6 0 (do
  check88 s [dst o.d, src o.a o.epa 2, src o.b o.epb 2]
  numWin s o.a 2
  capTag s o.b
  let (c, f) ← handleWr s o
  let x ← positionOf s f o.a
  .ok (s.send s.cur (.sp (handleReq s f c.cur (.put x) false)))) (handleStatus o s))

/-- SPUT.NR (R306, R313). -/
def execSputNr (o : Ops) (s : State) : Out := s.settle (do
  check88 s [src o.a o.epa 2, src o.b o.epb 2]
  numWin s o.a 2
  capTag s o.b
  let (c, f) ← handleWr s o
  let x ← positionOf s f o.a
  postSpatial s (handleReq s f c.cur (.put x) true))

/-- The offset checks of SLD and SST (R310, R311). -/
def recordSpan (f : FSlot) (c : Cap) (off : Word) (n : Nat) : Ex Unit := do
  check (off.toNat % 4 == 0) .align off
  check (decide (0 ≤ off.toInt) && decide (off.toNat + n ≤ f.size)) .bound c.cur

/-- SLD (R310): its destinations become EMPTY and the read is on its way. -/
def execSld (o : Ops) (s : State) : Out := s.settle (do
  let len := 2 ^ o.l.toNat
  check88 s [dst o.d len, src o.b o.epb 2]
  capTag s o.b
  let c := s.capAt o.b
  let f ← fieldOf s c
  fieldCap s c c.cur 1 pRD
  recordSpan f c o.imm (16 * len)
  let dest := (List.range len).map (fun i => s.me.ix (o.d.toNat + i))
  let t := s.updMe (fun k => { (k.markEmpty dest) with
    loads := k.loads ++ [{ key := s.nextId, dest := dest, left := 1, how := .record len }] })
  .ok (t.send t.cur (.sp (handleReq s f c.cur (.read o.imm.toNat (16 * len) s.nextId) false))))

/-- SST (R311). -/
def execSst (o : Ops) (s : State) : Out := s.settle (do
  let len := 2 ^ o.l.toNat
  check88 s [src o.a o.epa len, src o.b o.epb 2]
  dataTags s ((List.range len).map (o.a.toNat + ·))
  capTag s o.b
  let c := s.capAt o.b
  let f ← fieldOf s c
  spIll (decide (o.imm.toInt < 8 + 4 * (f.crd : Int))) 4
  fieldCap s c c.cur 1 pWR
  recordSpan f c o.imm (16 * len)
  postSpatial s (handleReq s f c.cur (.write o.imm.toNat ((s.win o.a len).flatMap (fun e => leBytes 16 e.1.toNat))) true))

/-- SHWAIT (R313). -/
def execShwait (o : Ops) (s : State) : Out := s.settle (do
  check88 s [dst o.d, src o.b o.epb]
  numTag s o.b.toNat
  let h := s.lo o.b
  let mine (x : Word) : Bool := h == 0 || x == h
  if s.net.any (fun m => m.isPosted s.cur s.me.fire && (match m.body with | .sp x => mine x.handle | _ => false)) then .error (.wait 6 0 s)
  else
    let t := s.updMe (fun c => { c with spFail := none })
    match s.me.spFail with
    | some (st, x) =>
      if !mine x then .ok (s.putQ o.d 0)
      else if st = 16 then .error (.report .hndl x t)
      else .ok (t.putQ o.d (x ++ BitVec.ofNat 64 st))
    | none => .ok (s.putQ o.d 0))

/-! ## Queries (R314 to R318) -/

/-- The start of a query: the checks, then the query take of R303. DESIGN CHOICE (log 62): a ring that touches a resident bank, which the results
could not be written to (R164), raises PERM as one that touches a pool bank does. -/
def queryStart (radial : Bool) (o : Ops) (s : State) : Ex State := rpc s 6 0 (do
  check88 s [srcC o.c, src o.a o.epa 4, src o.b o.epb 2]
  numWin s o.a 4
  capTag s o.b
  numTag s o.c.toNat
  let c := s.capAt o.b
  let f ← fieldOf s c
  let w := s.lo o.c
  let ring := fld w 18 0
  let nent := fld w 28 19
  let axes := fld w 36 29
  let qi := fld w 37 37
  spIll (fld w 63 38 != 0 || nent == 0 || ring % 32 != 0 || axes == 0 || decide (2 ^ f.crd ≤ axes)) 2
  spIll (s.me.queries.find qi).isSome 3
  fieldCap s c (fieldBase c) (2 ^ 56) pRD
  check (decide (ring + nent * f.size ≤ 0x80000)) .bound (BitVec.ofNat 64 ring)
  let pools := s.myCore.fslots.toList.filter (·.bound) |>.flatMap (·.banks)
  check (pools.all (fun b => !(decide (ring < (b + 1) * 0x8000) && decide (b * 0x8000 < ring + nent * f.size)))) .perm (BitVec.ofNat 64 ring)
  check (s.myCore.resAt ring (nent * f.size)).isNone .perm (BitVec.ofNat 64 ring)
  let region := s.lanes o.a
  let nan (i : Nat) : Bool := f32Nan (region.getD i 0)
  match (axesOf axes).find? (fun a => nan a || (!radial && nan (8 + a))) with
  | some a => .error (.trap .coord (BitVec.ofNat 64 (8 + a)))
  | none => do
    check (!(radial && nan 8)) .coord 8
    if s.net.any (fun m => m.isPosted s.cur s.me.fire) then .error (.wait 6 0 s)
    let q : Query := {
      fld := f.num, desc := f.desc, home := f.home, stamp := 0, slot := 0, region := region, radial := radial, axes := axes
      ring := ring, nent := nent, size := f.size, owners := [] }
    let q := { q with owners := f.visited q }
    .ok (s.send s.cur (.sp { op := .take qi q, fld := f.num, desc := f.desc, home := f.home })))
  (fun a => .ok (s.putQ o.c a.data))

/-- SQBOX (R314). -/
def execSqbox (o : Ops) (s : State) : Out := s.settle (queryStart false o s)
/-- SQRAD (R314, R315). -/
def execSqrad (o : Ops) (s : State) : Out := s.settle (queryStart true o s)

/-- The open query that a ticket names, with its index, or reason 3. -/
def ticketQuery (s : State) (b : RegNo) : Ex (Nat × Query) :=
  let i := fld (s.bits b) 64 64
  match s.me.queries.find i with
  | some q => .ok (i, q)
  | none => .error (.trap .ill (BitVec.ofNat 64 (2 ^ 59 + 3)))

/-- SQTAKE (R317): the destination becomes EMPTY, and the entry that the previous one returned is freed. -/
def execSqtake (o : Ops) (s : State) : Out := s.settle (do
  check88 s [dst o.d, src o.b o.epb]
  numTag s o.b.toNat
  let (i, q) ← ticketQuery s o.b
  if s.me.take.isSome then .error (.wait 6 0 s)
  else
    let k := s.me.ix o.d.toNat
    .ok (s.updMe (fun c => { (c.markEmpty [k]) with take := some (k, i), queries := c.queries.put i { q with taken := none } })))

/-- SQEND (R318): the owners are told to stop, and the query is closed once each has acknowledged. -/
def execSqend (o : Ops) (s : State) : Out := s.settle (do
  check88 s [dst o.d, src o.b o.epb]
  numTag s o.b.toNat
  let (i, q) ← ticketQuery s o.b
  let t := s.stopQuery s.cur i
  if t.stopping s.cur i then .error (.wait 6 0 t)
  else .ok ((t.closeQuery s.cur i).putQ o.d (BitVec.ofNat 128 q.delivered)))

/-! ## Owner-side instructions (R320) -/

/-- The checks common to SOWN, SCOUNT and SSCAN. -/
def ownerSide (s : State) (o : Ops) : Ex FSlot := do
  capTag s o.b
  let c := s.capAt o.b
  let f ← fieldOf s c
  fieldCap s c (fieldBase c) (2 ^ 56) pRD
  .ok f

/-- SOWN (R320). -/
def execSown (o : Ops) (s : State) : Out := s.settle (do
  check88 s [dst o.d, src o.a o.epa 2, src o.b o.epb 2]
  numWin s o.a 2
  let f ← ownerSide s o
  let x ← positionOf s f o.a
  .ok (s.putQ o.d (BitVec.ofNat 128 (f.owner x))))

/-- The LIVE copies of a field on a core, by ascending slot (R320). -/
def Core.liveCopies (k : Core) (f : FSlot) : List (Nat × PoolSlot) :=
  k.pool.filter (fun e => e.2.st == .live && f.banks.contains (e.1 / 0x8000))

/-- The position of a slot in its pool, counting in ascending address (R298). -/
def FSlot.slotIndex (f : FSlot) (off : Nat) : Nat :=
  (f.banks.filter (· < off / 0x8000)).length * (0x8000 / f.size) + off % 0x8000 / f.size

/-- The coordinates of the copy in a slot. -/
def State.coords (s : State) (f : FSlot) (cid off : Nat) : List (BitVec 32) :=
  (List.range f.crd).map (fun i => BitVec.ofNat 32 (s.numAt (spad cid (off + 8 + 4 * i)) 4))

/-- floor(x) of a finite F32 value. -/
def f32Floor (x : BitVec 32) : Int := f32Units x / 2 ^ 149

/-- SCOUNT (R320). -/
def execScount (o : Ops) (s : State) : Out := s.settle (do
  check88 s [dst o.d 4, src o.a o.epa, src o.b o.epb 2]
  numTag s o.a.toNat
  let f ← ownerSide s o
  let base := (s.lo o.a).toInt
  let ks := (s.myCore.liveCopies f).map (fun e => f32Floor ((s.coords f s.cid e.1).getD 0 0) - base)
  .ok (s.putLanes o.d ((List.range 16).map (fun (i : Nat) => BitVec.ofNat 32 ((ks.filter (fun k => k == Int.ofNat i)).length)))))

/-- SSCAN (R320). -/
def execSscan (o : Ops) (s : State) : Out := s.settle (do
  check88 s [dst o.d 2, src o.a o.epa, src o.b o.epb 2]
  numTag s o.a.toNat
  let f ← ownerSide s o
  match (s.myCore.liveCopies f).find? (fun e => decide ((s.lo o.a).toNat ≤ f.slotIndex e.1)) with
  | some e => .ok (s.putL o.d [(e.2.handle.setWidth 128, .data), (BitVec.ofNat 128 (f.slotIndex e.1 + 1 + e.1 * 2 ^ 64), .data)])
  | none => .ok (s.putL o.d [(0, .data), (BitVec.ofNat 128 (2 ^ 127), .data)]))

/-! ## Binding (R296) -/

/-- The paths of a tree from a node are no longer than the fuel (R293). -/
def depthOk (nodes : List Quad) : Nat → Nat → Bool
  | 0, _ => false
  | k + 1, n =>
    let q := nodes.getD n 0
    nodeAx q == 3 || (depthOk nodes k (nodeLo q) && depthOk nodes k (nodeHi q))

/-- Whether a node is well formed by itself (R293). -/
def nodeOk (dim count : Nat) (q : Quad) : Bool :=
  fld q 15 2 == 0 && fld q 63 48 == 0 && fld q 127 96 == 0 &&
  (if nodeAx q = 3 then fld q 31 27 == 0 && fld q 47 32 != 0 && fld q 95 64 == 0
   else decide (nodeAx q < dim) && decide (nodeLo q < count) && decide (nodeHi q < count) && f32Fin (nodeSplit q))

/-- Whether a descriptor is well formed (R292, R293): its 64-byte head and its nodes. -/
def descriptorOk (bs : List Byte) (nodes : List Quad) : Bool :=
  let cfg := BitVec.ofNat 64 (recNat bs 8 8)
  let d := fld cfg 1 0
  let c := fld cfg 5 2
  let bnd (at_ i : Nat) : BitVec 32 := BitVec.ofNat 32 (recNat bs (at_ + 4 * i) 4)
  let dir := recNat bs 40 8
  let k := recNat bs 48 8
  let kids := (nodes.filter (fun q => nodeAx q != 3)).flatMap (fun q => [nodeLo q, nodeHi q])
  fld cfg 63 28 == 0 && fld cfg 9 8 != 3 && decide (1 ≤ d ∧ d ≤ c ∧ c ≤ 8 ∧ 8 + 4 * c ≤ 32 * 2 ^ fld cfg 7 6) &&
  (List.range 3).all (fun i => if i < d then f32Fin (bnd 16 i) && f32Fin (bnd 28 i) && f32Lt (bnd 16 i) (bnd 28 i)
    else bnd 16 i == 0 && bnd 28 i == 0) &&
  dir % 4096 == 0 && decide (dir < 2 ^ 56) && decide (10 ≤ k ∧ k ≤ 24) && recNat bs 56 8 == 0 && !nodes.isEmpty &&
  nodes.all (nodeOk d nodes.length) &&
  (List.range nodes.length).all (fun n => (kids.filter (· == n)).length == (if n = 0 then 0 else 1)) && depthOk nodes 32 0

/-- The slot that a descriptor gives, for a core (R296, R297). -/
def slotOf (bs : List Byte) (nodes : List Quad) (cid pid home : Nat) (desc : Word) : FSlot :=
  let cfg := BitVec.ofNat 64 (recNat bs 8 8)
  let mine := nodes.filter (fun q => nodeAx q == 3 && nodeOwner q == cid)
  let d := fld cfg 1 0
  let bnd (at_ : Nat) : List (BitVec 32) := (List.range d).map (fun i => BitVec.ofNat 32 (recNat bs (at_ + 4 * i) 4))
  { word := BitVec.ofNat 64 (1 + (!mine.isEmpty).toNat * 2 + fld cfg 17 10 * 2 ^ 2 + d * 2 ^ 10 + fld cfg 5 2 * 2 ^ 12 +
      fld cfg 7 6 * 2 ^ 16 + fld cfg 9 8 * 2 ^ 18)
    desc := desc, pid := pid, home := home, lo := bnd 16, hi := bnd 28, dir := recNat bs 40 8, dirk := recNat bs 48 8, nodes := nodes
    banks := (List.range 16).filter (fun b => mine.any (fun q => bitAt q (32 + b))) }

/-- A core without the cached handles of a field (R296). -/
def Core.forget (k : Core) (n : Nat) : Core := { k with hcache := k.hcache.filter (fun e => e.1 / 2 ^ 56 != n) }

/-- A slot of a core. -/
def Core.fslot (k : Core) (i : Nat) : FSlot := k.fslots.toList.getD i {}
/-- Replaces a slot of a core. -/
def Core.setFslot (k : Core) (i : Nat) (f : FSlot) : Core :=
  { k with fslots := Vector.ofFn (fun (j : Fin 4) => if j.val = i then f else k.fslots[j]) }

/-- Whether some core, or a saved launch, has a field bound. -/
def State.fieldBound (s : State) (pid n : Nat) : Bool :=
  s.cores.any (fun e => (e.2.fieldSlot pid n).isSome) ||
  s.launches.any (fun l => l.saved.any (fun c => c.cores.any (fun e => (e.2.fieldSlot pid n).isSome)))

/-- BIND once the descriptor is read: the statuses 2 to 5, or the binding (R296). At the first binding of a field its directory is empty,
as software zeroes it then (R292). -/
def bindField (o : Ops) (s : State) (i home : Nat) (desc : Word) (bs : List Byte) : State :=
  let nodes := (List.range ((bs.length - 64) / 16)).map (fun n => recDesc (bs.drop 64) n)
  let pid := s.me.pid.toNat
  let f := slotOf bs nodes s.cid pid home desc
  let k := s.myCore
  let others := k.fslots.toList.filter (·.bound)
  let done (st : Nat) (t : State) : State := t.putQ o.d (BitVec.ofNat 128 st)
  if (k.fslot i).bound then done 1 s
  else if !descriptorOk bs nodes then done 2 s
  else if others.any (fun x => x.num == f.num) then done 3 s
  else if f.banks.any (fun b => fld ((k.bfmt.toList.getD b 0)) 4 0 != 0x0E || others.any (fun x => x.banks.contains b)) then done 4 s
  else if nodes.any (fun q => nodeAx q == 3 && (s.coreAt (nodeOwner q)).lid != s.me.lid) then done 5 s
  else
    let t := if s.fieldBound pid f.num then s else { s with homes := s.homes.drop (fieldKey pid f.num) }
    done 0 (t.updMyCore (fun k => (k.forget f.num).setFslot i f))

/-- The memory location that a DEVICE address has now. -/
def State.locOf (s : State) (va : Word) : Option Nat :=
  match (translate s s.die s.me.pid.toNat va [lRD]).1 with
  | some (_, .home phys) => some phys
  | some (_, .peer pkg _ phys) => some (peerLoc pkg phys)
  | some (leaf, .moving) => some (leafPhys leaf va)
  | _ => none

/-- SFLD.BIND (R296): the head is read first, then the whole descriptor. -/
def execSfldBind (o : Ops) (s : State) : Out := s.settle (do
  let c := s.capAt o.a
  let i := fld (s.lo o.b) 1 0
  let read (n : Nat) (s : State) : Ex State :=
    .ok ((s.issueLoad .load 2 ((List.range (n / 16)).map (fun k => { part := 16 * k, va := c.cur + BitVec.ofNat 64 (16 * k), n := 16 }))
      [] (.answer n)).setPhase (.sent s.nextId))
  match s.me.phase with
  | .done a =>
    match a.fault with
    | some f => .error (.trap f.cause f.val)
    | none =>
      let n := fld (BitVec.ofNat 64 (recNat a.bytes 8 8)) 27 18
      if a.bytes.length = 64 ∧ n ≠ 0 then do
        capBound c c.cur (64 + 16 * n)
        let t ← read (64 + 16 * n) s
        .error (.wait 6 0 t)
      else match s.locOf c.cur with
        | some home =>
          -- a store queued before the binding is performed before it: pool bytes take none (R298)
          if s.anyQueued s.cid 0 (2 ^ 19) then .error (.wait 6 0 s) else .ok (bindField o s i home c.cur a.bytes)
        | none => .error (.trap .xlat c.cur)
  | .sent _ => .error (.wait 6 0 s)
  | _ => do
    check88 s [dst o.d, src o.a o.epa 2, src o.b o.epb]
    capTag s o.a
    numTag s o.b.toNat
    spIll (fld (s.lo o.b) 63 2 != 0) 2
    if (s.myCore.fslot i).bound then .ok (s.putQ o.d 1)
    else do
      capPerm s c c.cur [pRD]
      capSpace c c.cur [2]
      capBound c c.cur 64
      check (c.cur.toNat % 64 == 0) .align c.cur
      if s.devStores ≠ 0 then .error (.wait 6 0 s)
      else do
        let t ← read 64 s
        .error (.wait 6 0 t))

/-- Whether a context of a core has an open query, or a posted operation, on a field (R296). -/
def State.fieldBusy (s : State) (cid n : Nat) : Bool :=
  (List.range 4).any (fun i => (s.ctxAt (4 * cid + i)).queries.any (fun e => e.2.fld == n)) ||
  s.net.any (fun m => m.g / 4 == cid && (match m.body with | .sp x => x.posted && x.fld == n | _ => false))

/-- SFLD.DROP (R296). -/
def execSfldDrop (o : Ops) (s : State) : Out := s.settle (do
  check88 s [dst o.d, src o.b o.epb]
  numTag s o.b.toNat
  spIll (fld (s.lo o.b) 63 2 != 0) 2
  let i := fld (s.lo o.b) 1 0
  let f := s.myCore.fslot i
  if !f.bound then .ok (s.putQ o.d 1)
  else if s.myCore.pool.any (fun e => f.banks.contains (e.1 / 0x8000)) || s.fieldBusy s.cid f.num then .ok (s.putQ o.d 6)
  else .ok ((s.updMyCore (fun k => (k.forget f.num).setFslot i {})).putQ o.d 0))

end Sys2Proof.Machine
end

