-- ==== Sys2Proof/Machine/ClaimEvents.lean ====
section
/-! DEFINITION. ClaimEvents.lean: the spatial units, the handle directories and the field homes at work (R298 to R319): requests at their
owners, reservations, hauls, tombstones, and queries. -/

namespace Sys2Proof.Machine

/-! ## Owners -/

/-- The spatial request in flight under a number, with its message. -/
def State.spAt (s : State) (id : Nat) : Option (Msg × SpReq) :=
  match s.msg id with
  | some m => (match m.body with | .sp x => some (m, x) | _ => none)
  | none => none

/-- Changes a spatial request in flight. -/
def State.spUpd (s : State) (id : Nat) (x : SpReq) : State := s.updMsg id (fun m => { m with body := .sp x })

/-- The binding under which a core serves a request: none when it is fenced, in reset, or binds the field to no, or another, descriptor
(R296, R306). -/
def State.serving (s : State) (m : Msg) (x : SpReq) (cid : Nat) : Option FSlot :=
  let k := s.coreAt cid
  if k.open_ then (k.fieldSlot m.pid x.fld).bind (fun f => if f.desc = x.desc then some f else none) else none

/-- Whether the field's pool on a core is part of a saved launch: requests wait at the core's edge until it is restored (R298). -/
def State.away (s : State) (m : Msg) (x : SpReq) (cid : Nat) : Bool :=
  s.launches.any (fun l => l.saved.any (fun c => c.cores.any (fun e => e.1 == cid && (e.2.fieldSlot m.pid x.fld).isSome)))

/-- The LIVE copy of a handle on a core, with its slot. -/
def Core.liveCopy (k : Core) (f : FSlot) (h : Word) : Option (Nat × PoolSlot) :=
  k.pool.find? (fun e => e.2.st == .live && e.2.handle == h && f.banks.contains (e.1 / 0x8000))

/-- The latest tombstone of a handle on a core. -/
def Core.tombstone (k : Core) (f : FSlot) (h : Word) : Option PoolSlot :=
  (k.pool.filter (fun e => e.2.st == .tomb && e.2.handle == h && f.banks.contains (e.1 / 0x8000))).foldl
    (fun b e => match b with | some t => if t.died ≤ e.2.died then some e.2 else b | none => some e.2) none

/-- The lowest free slot of a pool (R298). -/
def Core.freeOffset (k : Core) (f : FSlot) : Option Nat :=
  f.banks.findSome? (fun b => (List.range (0x8000 / f.size)).findSome? (fun i =>
    if (k.pool.find (b * 0x8000 + i * f.size)).isNone then some (b * 0x8000 + i * f.size) else none))

/-- Changes a pool slot of a core. -/
def State.updPool (s : State) (cid off : Nat) (f : PoolSlot → PoolSlot) : State :=
  match (s.coreAt cid).pool.find off with
  | some p => s.updCore cid (fun k => { k with pool := k.pool.put off (f p) })
  | none => s

/-- A pool write (R298): it clears tag bits; a poisoned word that it covers only in part keeps its poison and its bytes (R179). To a resident bank
it writes nothing (R164; log 29). -/
def State.poolWrite (s : State) (cid off : Nat) (bs : List Byte) : State :=
  if ((s.coreAt cid).resAt off bs.length).isSome then s else
  let t := s.unpoison (spad cid off) bs.length
  (bs.zip (List.range bs.length)).foldl (fun (t : State) e =>
    if t.poison.contains (poisonUnit (spad cid (off + e.2))) then t else t.store (t.coreAt cid).lid (spad cid (off + e.2)) [e.1]) t

/-- The coordinates as bytes. -/
def coordBytes (x : List (BitVec 32)) : List Byte := x.flatMap (fun v => leBytes 4 v.toNat)

/-- A handle cache with room for one more entry: of 256, one is given up, which one is free (R301, log 2). -/
def roomFor (c : Tab Nat) (h pick : Nat) : Tab Nat :=
  if c.length < 256 ∨ (c.find h).isSome then c else List.eraseIdx c (pick % c.length)

/-- The core's cache maps a handle to an owner; at 256 entries one is given up (R301). -/
def State.cacheOwner (s : State) (cid : Nat) (h : Word) (owner : Nat) : State :=
  { s with draws := s.draws + 1 }.updCore cid (fun k => { k with hcache := (roomFor k.hcache h.toNat (Config.freeNat s.draws)).put h.toNat owner })

/-- What the field's home holds. -/
def State.homeOfField (s : State) (m : Msg) (x : SpReq) : Home := s.homes.get {} (fieldKey m.pid x.fld)

/-- The directory entry of a handle: its owner, unless it is marked deleted (R301). -/
def Home.named (h : Home) (n : Word) : Option Nat := (h.dir.find? (fun e => e.1 == n && !e.2.2)).map (·.2.1)

/-! ## Ends of requests -/

/-- A request is at its end: its answer leaves for the core that asked (R257). -/
def State.spReply (s : State) (m : Msg) (x : SpReq) (st : Nat) (a : Answer) : State :=
  s.updMsg m.id (fun y => { y.answer s x.source a with body := .sp { x with step := .ended st } })

/-- A request ends with a status; 16 stands for HNDL (R305, R306, R309, R310, R313). -/
def State.spEnd (s : State) (m : Msg) (x : SpReq) (st : Nat) : State :=
  s.spReply m x st (match x.op with
    | .read .. => { fault := some ⟨if st = 16 then .hndl else .fab, x.handle⟩ }
    | .create _ => { data := BitVec.ofNat 128 ((if st = 0 then x.handle.toNat else 0) + st * 2 ^ 64) }
    | _ => if st = 16 then { fault := some ⟨.hndl, x.handle⟩ } else { data := BitVec.ofNat 128 st })

/-- No earlier request of the same firing by the same handle is still to take effect (R312). -/
def State.spFirst (s : State) (m : Msg) (x : SpReq) : Bool :=
  !s.net.any (fun y => decide (y.id < m.id) && y.g == m.g && y.fire == m.fire && (match y.body with
    | .sp z => z.handle == x.handle && (match z.op, z.step with
        | .create _, _ | .take .., _ | .visit .., _ | .stop _, _ => false
        | _, .settling .. | _, .ended _ | _, .lost => false
        | _, _ => true)
    | _ => false))

/-- Whether a posted operation of the same firing on the same handle, issued before a read, is still to be acknowledged (R310). -/
def State.postedBefore (s : State) (m : Msg) (x : SpReq) : Bool :=
  s.net.any (fun y => decide (y.id < m.id) && y.isPosted m.g m.fire && (match y.body with | .sp z => z.handle == x.handle | _ => false))

/-- Whether a request that its owner has not performed need not be on its way any longer: one that waits there for a haul, for a locked range or for
held writes, and a read that its own core has held back. -/
def State.maybeThere (s : State) (m : Msg) (x : SpReq) : Bool :=
  x.held || !s.spFirst m x || (match (s.serving m x x.owner).bind (fun f => ((s.coreAt x.owner).liveCopy f x.handle).map (fun e => (f, e))) with
    | some (f, off, p) => p.queue.contains m.id || !s.unlocked x.owner off f.size ||
      (match x.op with | .read .. => p.busy.isNone && !p.queue.isEmpty | _ => false)
    | none => false)

/-- Whether an earlier request of the same core by the same handle is still on its way to the same place (R257). By different handles there is no
order (R312: "Instructions to different handles are not ordered with each other"). -/
def State.spBehind (s : State) (m : Msg) (x : SpReq) : Bool :=
  let first (z : SpReq) : Bool := z.via.isNone && !z.named && !z.held && (match z.op with | .create _ | .take .. | .visit .. | .stop _ => false | _ => true)
  first x && s.net.any (fun y => decide (y.id < m.id) && y.g / 4 == m.g / 4 && (match y.body with
    | .sp z => first z && z.handle == x.handle && z.step == x.step && (x.step == .dir || z.owner == x.owner) && !s.maybeThere y z
    | _ => false))

/-- Whether a request by handle may act at its owner now (R58, R257, R298, R312). -/
def State.atOwner (s : State) (m : Msg) (x : SpReq) : Bool :=
  x.step == .owner && !s.away m x x.owner && s.spFirst m x && !s.spBehind m x && (decide (0 < x.hops) || x.named || (s.coreAt (m.g / 4)).open_)

/-- Runs a spatial event on a request in flight. -/
def onSpatial (id : Nat) (s : State) (f : Msg → SpReq → State) : Out :=
  .next (match s.spAt id with | some (m, x) => f m x | none => s)

/-- Whether the operation goes by handle. -/
def SpOp.byHandle : SpOp → Bool | .put _ | .del | .read .. | .write .. => true | _ => false

/-! ## Dereferences (R301) -/

/-- HANDLE_FORWARD (R301): an owner without a LIVE copy sends the request on: to the owner that its tombstone names, or to the directory;
the request fails when the directory has named this owner. -/
def execHandleForward (id : Nat) (s : State) : Out := onSpatial id s (fun m x =>
  if !x.op.byHandle || !s.atOwner m x then s
  else match s.serving m x x.owner with
    | none => s
    | some f =>
      let k := s.coreAt x.owner
      if (k.liveCopy f x.handle).isSome then s
      else match (k.tombstone f x.handle).bind (·.fwd), decide (x.hops < 4) with
        | some o, true => (s.cacheOwner (m.g / 4) x.handle o).spUpd id { x with owner := o, hops := x.hops + 1, via := some x.owner, named := false }
        | _, _ =>
          if x.named && (s.homeOfField m x).named x.handle == some x.owner then s.spEnd m x 16
          else s.spUpd id { x with step := .dir, via := some x.owner })

/-- DIRECTORY_RESOLVE (R301); the request of a fenced core does not leave it (R58). -/
def execDirectoryResolve (id : Nat) (s : State) : Out := onSpatial id s (fun m x =>
  if x.step != .dir || !s.spFirst m x || s.spBehind m x || (x.via.isNone && !(s.coreAt (m.g / 4)).open_) then s
  else match (s.homeOfField m x).named x.handle with
    | some o => s.spUpd id { x with step := .owner, owner := o, hops := 0, via := none, named := true }
    | none => s.spEnd m { x with owner := noCore } 16)

/-! ## The field home (R303) -/

/-- QUERY_TAKE (R303, R314): the stamp and the active-query slot are taken in one step, and the reply leaves; a request whose context
no longer waits takes nothing, and that of a fenced core does not leave it (R58). A line locked for a group makes the step wait (R402). -/
def execQueryTake (id : Nat) (s : State) : Out := onSpatial id s (fun m x =>
  match x.op, x.step with
  | .take qi q, .owner =>
    if !(s.coreAt (m.g / 4)).open_ || s.lineLocked s.pkgNo x.home 8 then s
    else if (s.ctxAt m.g).fire ≠ m.fire ∨ (s.ctxAt m.g).phase ≠ .sent id then s.gone id
    else
      let h := s.homeOfField m x
      match (List.range 64).find? (fun i => (h.queries.find i).isNone) with
      | none => s.spReply m x 1 { data := BitVec.ofNat 128 (qi * 2 ^ 64 + 2 ^ 65) }
      | some slot =>
        let v := s.numAt x.home 8
        let t := (s.store m.lid x.home (leBytes 8 (v + 1))).updHome (fieldKey m.pid x.fld) (fun h => { h with queries := h.queries.put slot v })
        t.spReply m { x with op := .take qi { q with stamp := v, slot := slot } } 0 { data := BitVec.ofNat 128 (v + qi * 2 ^ 64) }
  | _, _ => s)

/-- SWEEP_RESERVATION (R303): the home answers with SWEEP and counts one unsettled reservation; a line locked for a group makes it wait (R402). -/
def execSweepReservation (id : Nat) (s : State) : Out := onSpatial id s (fun m x =>
  if s.lineLocked s.pkgNo x.home 8 then s else
  let v := s.numAt x.home 8
  let t := s.updHome (fieldKey m.pid x.fld) (fun h => { h with unsettled := h.unsettled ++ [v] })
  match x.step with
  | .placed to_ slot => t.spUpd id { x with step := .stamped to_ slot v }
  | .marked => t.spUpd id { x with step := .stamped x.owner 0 v }
  | _ => s)

/-- RESERVATION_SETTLE (R303): the operation has taken effect, and its reply leaves. -/
def execReservationSettle (id : Nat) (s : State) : Out := onSpatial id s (fun m x =>
  match x.step with
  | .settling v st => (s.updHome (fieldKey m.pid x.fld) (fun h => { h with unsettled := h.unsettled.erase v })).spEnd m x st
  | _ => s)

/-! ## Creation (R305) -/

/-- Whether a creation of the same core in the same field is past its allocation: serials are given one at a time (R300, R305). -/
def State.creating (s : State) (m : Msg) (x : SpReq) : Bool :=
  s.net.any (fun y => y.g / 4 == m.g / 4 && y.pid == m.pid && (match y.body with
    | .sp z => z.fld == x.fld && (match z.op, z.step with | .create _, .placed .. | .create _, .stamped .. => true | _, _ => false)
    | _ => false))

/-- The handle with a serial (R300). -/
def handleOf (n cid serial : Nat) : Word := BitVec.ofNat 64 (n * 2 ^ 56 + cid % 2 ^ 11 * 2 ^ 45 + serial)

/-- RECORD_CREATE_AT_OWNER (R305): the owner allocates a slot and writes the record; with its reservation the copy becomes LIVE and the
directory entry is written. -/
def execRecordCreateAtOwner (id : Nat) (s : State) : Out := onSpatial id s (fun m x =>
  let key := fieldKey m.pid x.fld
  match x.op, x.step with
  | .create pos, .owner =>
    if s.away m x x.owner || !(s.coreAt (m.g / 4)).open_ || s.creating m x then s
    else match s.serving m x x.owner with
      | none => s.spEnd m x 3
      | some f =>
        let serial := (s.coreAt (m.g / 4)).serials.get 0 key + 1
        if 2 ^ 45 - 1 < serial then s.spEnd m x 4
        else match (s.coreAt x.owner).freeOffset f with
          | none => s.spEnd m x 2
          | some off =>
            if !s.unlocked x.owner off f.size then s
            else
              let h := handleOf x.fld (m.g / 4) serial
              let t := s.poolWrite x.owner off (leBytes 8 h.toNat ++ coordBytes pos ++ List.replicate (f.size - 8 - 4 * pos.length) 0)
              (t.updCore x.owner (fun k => { k with pool := k.pool.put off { st := .inbound, handle := h } })).spUpd id
                { x with handle := h, step := .placed x.owner off }
  | .create _, .stamped o off v =>
    if s.away m x o then s
    else match s.serving m x o, (s.coreAt o).pool.find off with
      | some f, some p =>
        if p.st = .inbound ∧ p.handle = x.handle then
          -- an entry whose record has no copy left does not count
          if 2 ^ f.dirk ≤ ((s.homeOfField m x).dir.filter (fun e => s.hasCopy m.pid x.fld e.1)).length then
            (if s.unlocked o off f.size then (s.freeSlotAt f o off).spUpd id { x with step := .settling v 4 } else s)
          else
            let t := s.updPool o off (fun p => { p with st := .live, born := v })
            let t := t.updHome key (fun h => { h with dir := h.dir ++ [(x.handle, o, false)] })
            let t := t.updCore (m.g / 4) (fun k => { k with serials := k.serials.put key (k.serials.get 0 key + 1) })
            (t.cacheOwner (m.g / 4) x.handle o).spUpd id { x with step := .settling v 0 }
        else s.spUpd id { x with step := .settling v 3 }
      | _, _ => s.spUpd id { x with step := .settling v 3 }
  | _, _ => s)

/-! ## Writes by handle and hauls (R306, R307, R309, R311) -/

/-- Whether a request may be performed on a copy: no haul or deletion is under way, and it is its turn (R307). -/
def PoolSlot.serves (p : PoolSlot) (id : Nat) : Bool := p.busy.isNone && (p.queue.isEmpty || p.queue.head? == some id)

/-- The copy without a request in its queue. -/
def PoolSlot.leave (p : PoolSlot) (id : Nat) : PoolSlot := { p with queue := p.queue.filter (· != id) }

/-- SPATIAL_WRITE_AT_OWNER (R307): an SST, an SPUT within the claim, or an SDEL is performed at the LIVE copy, or held during a haul. -/
def execSpatialWriteAtOwner (id : Nat) (s : State) : Out := onSpatial id s (fun m x =>
  let key := fieldKey m.pid x.fld
  match x.op, x.step with
  | .del, .stamped o _ v =>
    match (s.serving m x o).bind (fun f => (s.coreAt o).liveCopy f x.handle) with
    | some (off, p) =>
      if p.busy = some id then
        let t := s.updPool o off (fun p => { p with st := .tomb, died := v, fwd := none, busy := none, queue := [] })
        (t.updHome key (fun h => { h with dir := h.dir.map (fun e => if e.1 = x.handle then (e.1, e.2.1, true) else e) })).spUpd id
          { x with step := .settling v 0 }
      else s.spUpd id { x with step := .settling v 3 }
    | none => if s.away m x o then s else s.spUpd id { x with step := .settling v 3 }
  | .del, .marked =>
    if s.away m x x.owner then s
    else match (s.serving m x x.owner).bind (fun f => (s.coreAt x.owner).liveCopy f x.handle) with
      | some _ => s
      | none => s.spEnd m x 3
  | _, _ =>
    let writes := match x.op with | .put _ | .del | .write .. => true | _ => false
    if !writes || !s.atOwner m x then s
    else match s.serving m x x.owner with
      | none => s.spEnd m x 3
      | some f =>
        match (s.coreAt x.owner).liveCopy f x.handle with
        | none => s
        | some (off, p) =>
          if !p.serves id then
            if p.queue.contains id then s else s.updPool x.owner off (fun p => { p with queue := p.queue ++ [id] })
          else
            let t := (s.updPool x.owner off (·.leave id)).cacheOwner (m.g / 4) x.handle x.owner
            match x.op with
            | .write at_ bs => if s.unlocked x.owner (off + at_) bs.length then (t.poolWrite x.owner (off + at_) bs).spEnd m x 0 else s
            | .del => (t.updPool x.owner off (fun p => { p with busy := some id })).spUpd id { x with step := .marked }
            | .put pos =>
              if f.owner pos = x.owner ∧ s.unlocked x.owner (off + 8) (4 * pos.length) then
                (t.poolWrite x.owner (off + 8) (coordBytes pos)).spEnd m x 0
              else s
            | _ => s)

/-- HAUL_SEND (R306): the copy is marked hauling and sent to the owner of the new position. -/
def execHaulSend (id : Nat) (s : State) : Out := onSpatial id s (fun m x =>
  match x.op with
  | .put pos =>
    if !s.atOwner m x then s
    else match s.serving m x x.owner with
      | none => s
      | some f =>
        match (s.coreAt x.owner).liveCopy f x.handle with
        | none => s
        | some (off, p) =>
          if !p.serves id || f.owner pos == x.owner then s
          else ((s.updPool x.owner off (fun p => { p.leave id with busy := some id })).cacheOwner (m.g / 4) x.handle x.owner).spUpd id
            { x with step := .moving (f.owner pos) }
  | _ => s)

/-- The copy that a request hauls, still marked by it. -/
def State.hauled (s : State) (m : Msg) (x : SpReq) : Option (FSlot × Nat × PoolSlot) :=
  (s.serving m x x.owner).bind (fun f => ((s.coreAt x.owner).liveCopy f x.handle).bind (fun e =>
    if e.2.busy = some m.id then some (f, e.1, e.2) else none))

/-- The slot that a haul has reserved at the new owner, if it is still there. -/
def State.reserved (s : State) (m : Msg) (x : SpReq) (to_ off : Nat) : Option FSlot :=
  (s.serving m x to_).bind (fun f => ((s.coreAt to_).pool.find off).bind (fun p =>
    if p.st = .inbound ∧ p.handle = x.handle then some f else none))

/-- HAUL_INSTALL (R306, R304, R307): the new owner reserves an INBOUND slot; with the reservation the new copy becomes LIVE and the old one a
tombstone that forwards, the directory names the new owner, and the held writes go to the new copy. -/
def execHaulInstall (id : Nat) (s : State) : Out := onSpatial id s (fun m x =>
  let key := fieldKey m.pid x.fld
  match x.op, x.step with
  | .put pos, .moving to_ =>
    if s.away m x to_ || s.away m x x.owner then s
    else match s.hauled m x, s.serving m x to_ with
      | some (_, off, _), some g =>
        match (s.coreAt to_).freeOffset g with
        | none => s
        | some n =>
          if !s.unlocked to_ n g.size then s
          else
            let old := s.bytesAt (spad x.owner off) g.size
            let bs := old.take 8 ++ coordBytes pos ++ old.drop (8 + 4 * pos.length)
            let t := s.poolWrite to_ n bs
            -- a poisoned word travels as one
            let t := (if ((s.coreAt to_).resAt n g.size).isSome then [] else List.range (g.size / 8)).foldl (fun (t : State) i =>
              if s.poison.contains (spad x.owner (off + 8 * i)) then t.setPoison (spad to_ (n + 8 * i)) else t) t
            (t.updCore to_ (fun k => { k with pool := k.pool.put n { st := .inbound, handle := x.handle } })).spUpd id { x with step := .placed to_ n }
      | _, _ => s
  | .put _, .stamped to_ n v =>
    match s.hauled m x, s.reserved m x to_ n with
    | some (_, off, p), some _ =>
      let t := s.updPool x.owner off (fun p => { p with st := .tomb, died := v, fwd := some to_, busy := none, queue := [] })
      let t := t.updPool to_ n (fun c => { c with st := .live, born := v, queue := p.queue })
      let t := t.updHome key (fun h => { h with dir := h.dir.map (fun e => if e.1 = x.handle then (e.1, to_, e.2.2) else e) })
      -- the writes held for the old copy are now at the new one
      let t := p.queue.foldl (fun (t : State) i => t.updMsg i (fun y => match y.body with
        | .sp z => { y with body := .sp { z with owner := to_ } }
        | _ => y)) t
      t.spUpd id { x with step := .settling v 1 }
    | _, _ => s
  | _, _ => s)

/-- HAUL_FAIL (R306, R324): the new owner is full or cannot be reached, or lost its slot to a reset: the copy is unmarked and stays as it
was. A record whose old owner was reset is lost. -/
def execHaulFail (id : Nat) (s : State) : Out := onSpatial id s (fun m x =>
  let unmark (s : State) : State := match s.hauled m x with
    | some (_, off, _) => s.updPool x.owner off (fun p => { p with busy := none })
    | none => s
  match x.op, x.step with
  | .put _, .moving to_ =>
    if s.away m x to_ || s.away m x x.owner then s
    else if (s.hauled m x).isNone then s.spEnd m x 3
    else match s.serving m x to_ with
      | none => (unmark s).spEnd m x 3
      | some g => if ((s.coreAt to_).freeOffset g).isNone then (unmark s).spEnd m x 2 else s
  | .put _, .placed to_ n =>
    if s.away m x to_ || s.away m x x.owner then s
    else match s.hauled m x, s.reserved m x to_ n with
      | some _, some _ => s
      | none, some g => if s.unlocked to_ n g.size then (s.freeSlotAt g to_ n).spEnd m x 3 else s
      | _, none => (unmark s).spEnd m x 3
  | .put _, .stamped to_ n v =>
    if s.away m x to_ || s.away m x x.owner then s
    else match s.hauled m x, s.reserved m x to_ n with
      | some _, some _ => s
      | none, some g => if s.unlocked to_ n g.size then (s.freeSlotAt g to_ n).spUpd id { x with step := .settling v 3 } else s
      | _, none => (unmark s).spUpd id { x with step := .settling v 3 }
  | _, _ => s)

/-- RECORD_READ_AT_OWNER (R310): once the context's earlier posted operations on the handle are acknowledged, the LIVE copy's bytes are
copied in one step; a hauling copy still serves reads (R307). -/
def execRecordReadAtOwner (id : Nat) (s : State) : Out := onSpatial id s (fun m x =>
  match x.op with
  | .read at_ n _ =>
    if !s.atOwner m x || s.postedBefore m x then s
    else match s.serving m x x.owner with
      | none => s.spEnd m x 3
      | some f =>
        match (s.coreAt x.owner).liveCopy f x.handle with
        | none => s
        | some (off, p) =>
          if p.busy.isNone && !p.queue.isEmpty then s
          else
            let t := s.cacheOwner (m.g / 4) x.handle x.owner
            if (s.poisonedAt (spad x.owner off) f.size).isSome then t.spReply m x 0 { fault := some ⟨.pois, x.handle⟩ }
            else t.spReply m x 0 { bytes := s.bytesAt (spad x.owner (off + at_)) n }
  | _ => s)

/-- SPATIAL_POSTED_ACK (R257, R313): the first unreported failure of the firing is kept. A fenced core takes no acknowledgement (R58). -/
def execSpatialPostedAck (id : Nat) (s : State) : Out := onSpatial id s (fun m x =>
  if !x.posted || s.behindReply m then s else
  match x.step with
  | .ended st =>
    let t := s.gone id
    if (s.ctxAt m.g).fire = m.fire ∧ 2 ≤ st then
      t.updCtx m.g (fun c => { c with spFail := match c.spFail with | some f => some f | none => some (st, x.handle) })
    else t
  | _ => s)

/-- TOMBSTONE_RECLAIM (R308): a tombstone that no active query pins is freed; the entry of a deleted handle without copies leaves the
directory (R292). -/
def execTombstoneReclaim (cid slot : Nat) (s : State) : Out :=
  let k := s.coreAt cid
  .next (match k.pool.find slot, k.fslots.toList.find? (fun f => f.bound && f.banks.contains (slot / 0x8000)) with
  | some p, some f => s.reclaim f cid slot p
  | _, _ => s)

/-! ## Queries (R316, R317) -/

/-- QUERY_VISIT_START (R303, R316): once every reservation up to the stamp has settled, the visits leave, unless the core is fenced (R58). -/
def execQueryVisitStart (g q : Nat) (s : State) : Out :=
  .next (match (s.ctxAt g).queries.find q with
  | some x =>
    let h := s.homes.get {} (fieldKey (s.ctxAt g).pid.toNat x.fld)
    if x.started || x.acks.isSome || !(s.coreAt (g / 4)).open_ || !h.unsettled.all (fun v => decide (x.stamp < v)) then s
    else
      let t := s.updCtx g (fun c => { c with queries := c.queries.put q { x with started := true, pending := x.owners } })
      x.owners.foldl (fun t o => t.send g (.sp { op := .visit q x.stamp, fld := x.fld, desc := x.desc, home := x.home, owner := o })) t
  | none => s)

/-- Whether an entry of the result ring can be filled now: it is neither filled nor the one last taken, its bytes are not locked, no store to them
waits in a store queue, so that an earlier store of the program does not drain over the result (R177, R327), and the core is not fenced (R58). -/
def State.ringFree (s : State) (g : Nat) (x : Query) : Bool :=
  !x.filled.any (fun e => e.1 == x.next) && x.taken != some x.next && s.unlocked (g / 4) (x.ring + x.next * x.size) x.size &&
  !s.anyQueued (g / 4) (x.ring + x.next * x.size) x.size && !(s.coreAt (g / 4)).fenced

/-- The next result enters the next ring entry, if that is free: the bytes are written before the event can tell of them (R316, R327). -/
def State.ringDeliver (s : State) (g q : Nat) : State :=
  match (s.ctxAt g).queries.find q with
  | some x =>
    match x.edge with
    | (h, bs) :: rest =>
      if s.ringFree g x then
        (s.edgeWrite (g / 4) (x.ring + x.next * x.size) bs).updCtx g (fun c => { c with queries := c.queries.put q { x with
          edge := rest
          filled := x.filled ++ [(x.next, h)]
          next := (x.next + 1) % x.nent
          delivered := x.delivered + 1 } })
      else s
    | [] => s
  | none => s

/-- QUERY_OWNER_SCAN (R316, R304, R318): the owner scans its pool in one step, in slot order, and sends its results and its done message; a
poisoned copy, and an owner that cannot be reached, are withheld. A copy whose held writes are still to be applied is not scanned
before them (R307). An owner that is told to stop acknowledges, and scans no more. Nothing leaves a fenced core, and nothing enters it (R58). -/
def execQueryOwnerScan (id : Nat) (s : State) : Out := onSpatial id s (fun m x =>
  if (s.coreAt (m.g / 4)).fenced then s else
  match x.op with
  | .visit q stamp =>
    match (s.ctxAt m.g).queries.find q with
    | none => s.gone id
    | some y =>
      if s.away m x x.owner then s
      else
        let close (t : State) (z : Query) : State :=
          (t.gone id).updCtx m.g (fun c => { c with queries := c.queries.put q { z with pending := z.pending.filter (· != x.owner) } })
        match s.serving m x x.owner with
        | none => close s { y with withheld := y.withheld + 1 }
        | some f =>
          let mine := (s.coreAt x.owner).pool.filter (fun e => f.banks.contains (e.1 / 0x8000))
          if mine.any (fun e => e.2.busy.isNone && !e.2.queue.isEmpty) then s
          else
            let seen := mine.filter (fun e => match e.2.st with
              | .inbound => false
              | .live => decide (e.2.born ≤ stamp) && y.matches_ (s.coords f x.owner e.1)
              | .tomb => decide (e.2.born ≤ stamp ∧ stamp < e.2.died) && y.matches_ (s.coords f x.owner e.1))
            let bad (e : Nat × PoolSlot) : Bool := (s.poisonedAt (spad x.owner e.1) f.size).isSome
            let good := seen.filter (fun e => !bad e)
            let z : Query := { y with
              withheld := y.withheld + (seen.filter bad).length
              edge := y.edge ++ good.map (fun e => (e.2.handle, s.bytesAt (spad x.owner e.1) f.size)) }
            good.foldl (fun t _ => t.ringDeliver m.g q) (close s z)
  | .stop q =>
    if s.away m x x.owner then s
    else
      let mine (y : Msg) : Bool := y.isVisit m.g q && (match y.body with | .sp z => z.owner == x.owner | _ => false)
      ({ s with net := s.net.filter (fun y => !mine y) } : State).updCtx m.g (fun c => match c.queries.find q with
        | some y => { c with queries := c.queries.put q { y with acks := y.acks.map (·.filter (· != x.owner)) } }
        | none => c)
  | _ => s)

/-- QUERY_RESULT_DELIVERY (R316): a result that waits at the edge enters a freed ring entry. -/
def execQueryResultDelivery (g q : Nat) (s : State) : Out := .next (s.ringDeliver g q)

/-- QUERY_EVENT_DELIVERY (R317): a pending SQTAKE receives the next result, or the end once every visited owner has sent done. -/
def execQueryEventDelivery (g : Nat) (s : State) : Out :=
  .next (match (s.ctxAt g).take with
  | some (k, q) =>
    match (s.ctxAt g).queries.find q with
    | some x =>
      match x.filled with
      | (n, h) :: rest =>
        s.updCtx g (fun c => { (c.setRegAt k { bits := BitVec.ofNat 128 (h.toNat + (x.ring + n * x.size) * 2 ^ 64) }) with
          take := none
          queries := c.queries.put q { x with filled := rest, taken := some n } })
      | [] =>
        if x.started && x.pending.isEmpty && x.edge.isEmpty then
          s.updCtx g (fun c => { (c.setRegAt k { bits := x.endEvent }) with take := none })
        else s
    | none => s
  | none => s)

end Sys2Proof.Machine
end

