-- ==== Sys2Proof/Machine/Launches.lean ====
section
/-! DEFINITION. Launches.lean: domain control blocks (R330, R333), launch images (R331, R332), placement on clusters (R343, R344), and
the start of firings (R53 to R55). -/

namespace Sys2Proof.Machine

/-! ## Domain control blocks (R330, R333) -/

/-- A field of a DCB: n bytes at an offset. -/
def State.dcbAt (s : State) (a off n : Nat) : Nat := s.numAt (a + off) n
/-- KIND, PART and PARENT. -/
def State.dcbKind (s : State) (a : Nat) : Nat := s.dcbAt a 0 8 % 4
def State.dcbPart (s : State) (a : Nat) : Nat := s.dcbAt a 0 8 / 2 ^ 10 % 2 ^ 8
def State.dcbParent (s : State) (a : Nat) : Nat := s.dcbAt a 8 8
/-- The launch DCB with its job, partition and root. -/
def State.dcbChain (s : State) (a : Nat) : List Nat :=
  let j := s.dcbParent a
  let p := s.dcbParent j
  [a, j, p, s.dcbParent p]

/-- An inheritable field: from the nearest node whose override bit i is set (R330). -/
def State.inherited (s : State) (i off n : Nat) : List Nat → Nat
  | [] => 0
  | a :: t => if (s.dcbAt a 0 8).testBit (2 + i) || t.isEmpty then s.dcbAt a off n else State.inherited s i off n t

/-- PID or SAVE in force: only Plug writes them, so a node does not override them with bytes that Feather has stored, before or after the rest of
its DCB (R333, log 63). -/
def State.plugInherited (s : State) (i off n : Nat) : List Nat → Nat
  | [] => 0
  | a :: t =>
    if ((s.dcbAt a 0 8).testBit (2 + i) && (List.range n).all (fun j => !s.plug.byFeather.contains (a + off + j))) || t.isEmpty
    then s.dcbAt a off n else State.plugInherited s i off n t

/-- Whether the partition and root of a chain are the DCBs that Plug has written (R333). -/
def State.ofPlug (s : State) (c : List Nat) : Bool :=
  s.plug.parts.any (fun p => c == [p.2.dcb, s.plug.root])

/-- Whether a DCB may be named by a queue entry (R333). -/
def State.dcbOk (s : State) (a : Nat) : Bool :=
  let c := s.dcbChain a
  c.all (· % 64 == 0) && c.map s.dcbKind == [3, 2, 1, 0] && s.ofPlug (c.drop 2) &&
  (c.take 3).all (fun n => s.dcbPart n == s.dcbPart a) && s.dcbAt a 0 8 / 2 ^ 18 == 0 &&
  (List.range 48).all (fun i => s.dcbAt a (80 + i) 1 == 0)

/-- What the command processor takes from a launch DCB (R333: when the entry is accepted and again at every dispatch). -/
def State.readDcb (s : State) (l : Launch) : Launch :=
  let c := s.dcbChain l.dcb
  { l with
    part := s.dcbPart l.dcb
    tier := s.inherited 0 24 1 c % 4
    fdom := s.inherited 1 25 1 c % 4
    pid := s.plugInherited 5 32 2 c % 2 ^ 12
    rsid := s.inherited 2 26 2 c
    save := s.plugInherited 6 48 8 c }

/-- RESMASK and RLD of a launch (R330, R344). -/
def State.resMask (s : State) (l : Launch) : Nat := s.inherited 3 28 2 (s.dcbChain l.dcb)
def State.resLoad (s : State) (l : Launch) : Bool := s.inherited 4 30 1 (s.dcbChain l.dcb) % 2 == 1
/-- PLC: mode ANY, and the clusters needed (R330). -/
def State.anyMode (s : State) (l : Launch) : Bool := s.dcbAt l.dcb 31 1 % 2 == 1
def State.nclu (s : State) (l : Launch) : Nat := s.dcbAt l.dcb 31 1 / 2
/-- CLMAX and CTB in force for a node of a chain, given with the nodes above it (R330). -/
def State.clmax (s : State) (c : List Nat) : Nat := s.inherited 7 16 8 c % 2 ^ 16
def State.ctb (s : State) (c : List Nat) : Nat := s.inherited 7 16 8 c / 2 ^ 16

/-- A launch by its identifier. -/
def State.launch (s : State) (lid : Word) : Option Launch := s.launches.find? (fun l => l.lid == lid)
/-- Changes a launch. -/
def State.updLaunch (s : State) (lid : Word) (f : Launch → Launch) : State :=
  { s with launches := s.launches.map (fun l => if l.lid = lid then f l else l) }

/-- Whether a launch holds its clusters. -/
def Launch.holds (l : Launch) : Bool := match l.st with | .placing | .running | .saving | .stopping => true | _ => false

/-- Clusters held by the launches that satisfy a test. -/
def State.held (s : State) (p : Launch → Bool) : Nat := ((s.launches.filter (fun l => l.holds && p l)).map (fun l => l.clusters.length)).sum

/-- Whether a cluster can be given to a launch: no launch holds it, and it is neither retired nor failed nor fenced nor in reset (R343,
R348, R368). -/
def State.cluFree (s : State) (cl : Nat) : Bool :=
  let u := s.cluAt cl
  !u.retired && !u.failed && !u.resetReq && !u.resetting &&
  (List.range 16).all (fun i => !(s.coreAt (cl * 16 + i)).fenced) &&
  !s.launches.any (fun l => l.holds && l.clusters.contains cl)

/-- Whether a saved launch holds state on a cluster (R344). -/
def State.savedOn (s : State) (cl : Nat) : Bool := s.launches.any (fun l => l.saved.any (·.cl == cl))

/-- Whether a launch may be placed on a cluster (R343, R344, R351): it is free and of the partition, a resident set is not shared with
another partition, and the cluster takes no other set while a saved launch holds state on it. -/
def State.cluUsable (s : State) (l : Launch) (cl : Nat) : Bool :=
  let u := s.cluAt cl
  s.cluFree cl && (match s.plug.parts.find l.part with | some p => p.clusters.contains cl | none => false) &&
  (u.rsid.toNat == 0 || u.lastPart == l.part) && (l.rsid == 0 || l.rsid == u.rsid.toNat || !s.savedOn cl)

/-- The use of a cluster's resident set by a launch that carries it (R343). -/
def Cluster.used (u : Cluster) (l : Launch) (now : Nat) : Cluster :=
  if l.rsid ≠ 0 ∧ l.rsid = u.rsid.toNat then { u with lastUse := now } else u

/-! ## Images (R331, R332) -/

/-- The physical address that a process identifier's tables give to an address, for a local page (R261). -/
def State.physOf (s : State) (pid : Nat) (va : Nat) : Option Nat :=
  match (s.levelZero.find pid).bind (walk s (BitVec.ofNat 64 va) 4 0) with
  | some (lvl, leaf) =>
    if leafOk s pid lvl leaf (BitVec.ofNat 64 va) ∧ fld leaf 11 10 = 0 then some (leafPhys leaf (BitVec.ofNat 64 va)) else none
  | none => none

/-- Cuts n bytes at an address into parts that lie in one 64 KiB page each; the fuel counts pages. -/
def pageParts : Nat → Nat → Nat → List (Nat × Nat)
  | 0, _, _ => []
  | k + 1, va, n =>
    if n = 0 then []
    else
      let m := min n (0x10000 - va % 0x10000)
      (va, m) :: pageParts k (va + m) (n - m)

/-- Reads DEVICE bytes of a process identifier. -/
def State.readVa (s : State) (pid va n : Nat) : Option (List Byte) :=
  ((pageParts (n / 0x10000 + 2) va n).mapM (fun p => (s.physOf pid p.1).map (fun a => s.bytesAt a p.2))).map List.flatten

/-- A store of the command processor for a launch that is being placed. One to a line locked for a group leaves a mark, an addition of nothing that
is owed, and then the placement waits (R402). -/
def State.cpStore (s : State) (lid : Word) (loc : Nat) (bs : List Byte) : State :=
  let t := s.store lid loc bs
  if s.lineLocked s.pkgNo loc bs.length then { t with owed := t.owed ++ [(loc, 0)] } else t

/-- Whether DEVICE bytes of a process identifier lie in a line locked for a group (R402). -/
def State.vaLocked (s : State) (pid va n : Nat) : Bool :=
  (pageParts (n / 0x10000 + 2) va n).any (fun p => (s.physOf pid p.1).any (fun a => s.lineLocked s.pkgNo a p.2))

/-- Writes DEVICE bytes of a process identifier for a launch. -/
def State.writeVa (s : State) (lid : Word) (pid va : Nat) (bs : List Byte) : Option State :=
  (pageParts (bs.length / 0x10000 + 2) va bs.length).foldlM (fun (t : State) p =>
    (t.physOf pid p.1).map (fun a => (t.unpoison a p.2).cpStore lid a ((bs.drop (p.1 - va)).take p.2))) s

/-- The records of an image: type, and the whole record; none when a head is malformed or no END comes in time (R331). -/
def imageRecords (s : State) (pid img : Nat) : Nat → Nat → Option (List (Nat × List Byte))
  | 0, _ => none
  | k + 1, off =>
    if 2 ^ 24 < off + 4 then none
    else match s.readVa pid (img + off) 4 with
      | none => none
      | some h =>
        let ty := recNat h 0 1
        let len := recNat h 1 3
        if len % 4 ≠ 0 ∨ len < 4 then none
        else if ty = 0 then (if len = 4 then some [] else none)
        else match s.readVa pid (img + off) len with
          | none => none
          | some bs => (imageRecords s pid img k (off + len)).map ((ty, bs) :: ·)

/-- How far an image is read: to the end of its END record, or of the record, or head, at which it fails. -/
def imageEnd (s : State) (pid img : Nat) : Nat → Nat → Nat
  | 0, off => off
  | k + 1, off =>
    if 2 ^ 24 < off + 4 then off
    else match s.readVa pid (img + off) 4 with
      | none => off + 4
      | some h =>
        let len := recNat h 1 3
        if len % 4 ≠ 0 ∨ len < 4 ∨ recNat h 0 1 = 0 then off + 4
        else if (s.readVa pid (img + off) len).isNone then off + len
        else imageEnd s pid img k (off + len)

/-- Rounds up to a multiple of 4. -/
def up4 (n : Nat) : Nat := (n + 3) / 4 * 4

/-- The clusters of a PLACE record, as the list gives them, and its core entries (core, BASE, LIMIT, AT); none when it is malformed. -/
def placeOf (bs : List Byte) : Option (List Nat × List (Nat × Nat × Nat × Bool)) :=
  let n := recNat bs 4 2
  let m := recNat bs 6 2
  let at0 := 8 + up4 (2 * n)
  let cl := (List.range n).map (fun i => recNat bs (8 + 2 * i) 2)
  let es := (List.range m).map (fun i => at0 + 12 * i)
  if bs.length = at0 + 12 * m ∧ cl.all (· < 128) ∧ (bs.drop (8 + 2 * n)).take (at0 - 8 - 2 * n) = List.replicate (at0 - 8 - 2 * n) 0 ∧
     es.all (fun e => recNat bs e 2 < 2048 && recNat bs (e + 2) 1 < 2 && recNat bs (e + 3) 1 == 0 &&
       decide (recNat bs (e + 4) 4 < recNat bs (e + 8) 4) && decide (recNat bs (e + 8) 4 ≤ 0x80000))
  then some (cl, es.map (fun e => (recNat bs e 2, recNat bs (e + 4) 4, recNat bs (e + 8) 4, recNat bs (e + 2) 1 == 1)))
  else none

/-- The control registers a CTL record may name (R332). -/
def ctlRegs : List Nat := [0x01, 0x02, 0x05, 0x06, 0x07, 0x0B, 0x0F]

/-- Whether a record other than PLACE is well formed (R331, R332); `core` gives the placed core that a CID names. -/
def recordOk (core : Nat → Option Nat) (r : Nat × List Byte) : Bool :=
  let bs := r.2
  let n := recNat bs 12 4
  let placed := (core (recNat bs 4 2)).isSome
  let padded (n : Nat) : Bool := bs.length == 16 + up4 n && (bs.drop (16 + n)).all (· == 0)
  match r.1 with
  | 2 => bs.length == 88 && placed && decide (recNat bs 6 1 < 32) && recNat bs 7 1 == 0
  | 3 => bs.length == 16 && placed && decide (recNat bs 6 1 < 16) && recNat bs 7 1 == 0 && !bitAt (BitVec.ofNat 64 (recNat bs 8 8)) 31
  | 4 => bs.length == 16 && ctlRegs.contains (recNat bs 4 2) && recNat bs 6 2 == 0
  | 5 => bs.length == 40 && [24, 26, 28, 30].contains (recNat bs 4 1) && recNat bs 5 3 == 0
  | 6 => bs.length == 28 && recNat bs 4 8 % 0x10000 == 0 && recNat bs 12 8 % 0x10000 == 0
  | 7 => padded n && n % 2 == 0 && decide (recNat bs 4 8 + n ≤ 2 ^ 56)
  | 8 => padded n && placed && recNat bs 6 2 == 0 && decide (recNat bs 8 4 + n ≤ 0x80000)
  | 9 => padded n && decide (recNat bs 4 8 + n ≤ 2 ^ 56)
  | _ => false

/-! ## Page maps (R332 step 2) -/

/-- The windows of a partition, as first page and end. -/
def State.partWindows (s : State) (part : Nat) : List (Nat × Nat) :=
  (s.windows.filter (fun w => bitAt w.2 0 && fld w.2 75 68 == part)).map (fun w => (fld w.2 41 16, fld w.2 67 42))

/-- Allocates an aligned span of n pages inside the windows of a partition; which one is free (log 2, 26). -/
def State.newPages (s : State) (part n : Nat) : Option (Nat × State) :=
  let (d, t) := s.draw
  let spans := (s.partWindows part).map (fun w => let b := (w.1 + n - 1) / n; (b, (w.2 / n) - b))
  let found := spans.findSome? (fun b =>
    if b.2 = 0 then none
    else (List.range (s.pages.length + 1)).findSome? (fun i =>
      let p := (b.1 + (d + i) % b.2) * n
      if s.pages.any (fun e => decide (p ≤ e.1 ∧ e.1 < p + n)) then none else some p))
  found.map (fun p => (p, { t with pages := t.pages ++ (List.range n).map (fun i => (p + i, BitVec.ofNat 64 part)) }))

/-- Writes a leaf into the tables of a process identifier at its level, making the tables on the way (R260). -/
def State.putLeaf (lid : Word) (part va lvl : Nat) (leaf : Word) : Nat → Nat → Nat → State → Option State
  | 0, _, _, _ => none
  | k + 1, l, t, s =>
    let at_ := t + 8 * (va / 2 ^ (46 - 10 * l) % 1024)
    if l = lvl then some (s.cpStore lid at_ (leBytes 8 leaf.toNat))
    else
      let e := BitVec.ofNat 64 (s.numAt at_ 8)
      if ptrOk e then State.putLeaf lid part va lvl leaf k (l + 1) (fld e 55 13 * 2 ^ 13) s
      else if bitAt e 0 then none
      else match s.newPages part 1 with
        | none => none
        | some (p, u) =>
          let u := u.cpStore lid (p * 0x10000) (List.replicate 8192 0)
          State.putLeaf lid part va lvl leaf k (l + 1) (p * 0x10000) (u.cpStore lid at_ (leBytes 8 (p * 0x10000 + 1)))

/-- The template of a MAP record, with V set and PPN clear. -/
def mapTemplate (bs : List Byte) : Word := setFld (setFld (BitVec.ofNat 64 (recNat bs 20 8)) 63 38 0) 0 0 1

/-- The first and the number of the spans of the template's size that the range of a MAP record touches. -/
def mapSpans (bs : List Byte) : Nat × Nat :=
  let va := recNat bs 4 8 / 0x10000
  let n := recNat bs 12 8 / 0x10000
  let span := leafSpan (mapTemplate bs)
  (va / span, if n = 0 then 0 else (va + n - 1) / span + 1 - va / span)

/-- The page that the placement of package pkg gave to a page of a process identifier (R332). -/
def State.peerPage (s : State) (pkg pid vpn : Nat) : Option Nat := (s.peerPages.find? (fun e => e.1 == (pkg, pid, vpn))).map (·.2)

/-- Whether the pages of a launch's peer templates are known: placement waits for those that the other packages have still to allocate (R332,
R409; log 26). -/
def State.peersKnown (s : State) (l : Launch) : Bool :=
  ((imageRecords s l.pid (s.dcbAt l.dcb 40 8) (2 ^ 22) 0).getD []).all (fun r =>
    let tmpl := mapTemplate r.2
    r.1 != 6 || fld tmpl 11 10 != 1 ||
    (List.range (mapSpans r.2).2).all (fun i => (s.peerPage (fld tmpl 24 12) l.pid (((mapSpans r.2).1 + i) * leafSpan tmpl)).isSome))

/-- Applies a MAP record: every span of the template's size that the range touches gets its pages, and every entry its leaf. The pages of
a peer template are those of its package's placement; those of an I/O template come from outside (log 26). -/
def State.applyMap (s : State) (l : Launch) (bs : List Byte) : Option State :=
  match s.levelZero.find l.pid with
  | none => none
  | some t0 =>
    let va := recNat bs 4 8
    let n := recNat bs 12 8 / 0x10000
    let tmpl := mapTemplate bs
    let span := leafSpan tmpl
    let first := (mapSpans bs).1
    (List.range (mapSpans bs).2).foldlM (fun (t : State) i =>
      let alloc : Option (Nat × State) :=
        match fld tmpl 11 10 with
        | 0 => t.newPages l.part span
        | 1 => (t.peerPage (fld tmpl 24 12) l.pid ((first + i) * span)).map (fun p => (p, t))
        | k => let (d, u) := t.draw; some (d % 2 ^ 22 / span * span + (if k = 2 then 2 ^ 25 else 0), u)
      alloc.bind (fun a =>
        let leaf := setFld tmpl 63 38 a.1
        -- a 1 GiB leaf stands once at level 2; the others once for each page of the range
        if span = 2 ^ 14 then State.putLeaf l.lid l.part ((first + i) * span * 0x10000) 2 leaf 4 0 t0 a.2
        else (List.range span).foldlM (fun (u : State) j =>
          let p := (first + i) * span + j
          if va / 0x10000 ≤ p ∧ p < va / 0x10000 + n then State.putLeaf l.lid l.part (p * 0x10000) 3 leaf 4 0 t0 u else some u) a.2)) s

/-! ## Clusters before a launch (R343, R344) -/

/-- Zeroes a bank of a core, with its tag and poison bits. -/
def State.zeroBank (s : State) (cid b : Nat) : State :=
  let lo := spad cid (b * 0x8000)
  let inside (x : Nat) : Bool := decide (lo ≤ x ∧ x < lo + 0x8000)
  { s with
    mem := s.mem.filter (fun c => !inside c.1)
    tagged := s.tagged.filter (fun x => !inside (32 * x))
    tagPoison := s.tagPoison.filter (fun x => !inside (32 * x))
    poison := s.poison.filter (fun x => !inside x) }

/-- The banks of a core with RES set. -/
def Core.resBanks (k : Core) : List Nat := (List.range 16).filter (fun b => bitAt (k.bfmt.toList.getD b 0) 31)

/-- A core as placement leaves it before the image's records: its lists empty, its registers at reset, resident banks kept (R343); the arrival
serial counts on, from the last cluster reset (R234). DESIGN CHOICE (log 76): both accumulator sets are FP32 and zero then, as after reset (R186),
both when a launch leaves its clusters and when the next is placed; the spec names no clearing there. -/
def Core.fresh (k : Core) (lid : Word) : Core :=
  { lid := lid, path := k.path, serials := k.serials, fenced := k.fenced, resetting := k.resetting, arrivals := k.arrivals
    bfmt := k.bfmt.map (fun w => if bitAt w 31 then w else 0) }

/-- A phaser whose members are those of a saved launch keeps its place (R240): they are numbered apart from the contexts. -/
def Phaser.shift (p : Phaser) (f : Nat → Nat) : Phaser :=
  { p with members := p.members.map (fun m => { m with g := f m.g }), held := p.held.map (fun e => (f e.1, e.2)) }
def Phaser.park (p : Phaser) : Phaser := p.shift (· % 2 ^ 20 + 2 ^ 20)
def Phaser.unpark (p : Phaser) : Phaser := p.shift (· % 2 ^ 20)
def Phaser.parked (p : Phaser) : Bool := p.members.any (fun m => decide (2 ^ 20 ≤ m.g))

/-- A cluster takes a resident set, or gives up the one that it carries (R344): the banks of the old one, and of the new one, are zeroed,
and RES marks those of the new one. -/
def State.takeSet (s : State) (cl rsid mask : Nat) : State :=
  let t := ((List.range 16).map (16 * cl + ·)).foldl (fun (t : State) cid =>
    let old := (t.coreAt cid).resBanks
    let new := (List.range 16).filter mask.testBit
    let t := (old ++ new).foldl (fun t b => t.zeroBank cid b) t
    t.updCore cid (fun k => { k with bfmt := Vector.ofFn (fun (i : Fin 16) =>
      if new.contains i.val then (2 ^ 31 : Word) else if old.contains i.val then 0 else k.bfmt[i]) })) s
  t.updClu cl (fun u => { u with rsid := BitVec.ofNat 32 rsid })

/-- Prepares a cluster for a launch (R344). A resident bank that its image does not name is RAW like any other (R225); a launch saved on the cluster
gets the formats that it left back when it resumes (R164, R351; `State.restoreCluster`). -/
def State.prepareCluster (s : State) (l : Launch) (cl : Nat) : State :=
  let u := s.cluAt cl
  let cores := (List.range 16).map (16 * cl + ·)
  let t := if l.rsid ≠ 0 ∧ l.rsid ≠ u.rsid.toNat then s.takeSet cl l.rsid (s.resMask l) else s
  let t := if u.lastPart = l.part then t
    else cores.foldl (fun (t : State) cid => ((List.range 16).filter (fun b => !((t.coreAt cid).resBanks.contains b))).foldl (fun t b => t.zeroBank cid b) t) t
  let t := cores.foldl (fun (t : State) cid => t.updCore cid (fun k =>
    { k.fresh 0 with bfmt := k.bfmt.map (· &&& (2 ^ 31 : Word)) })) t
  t.updClu cl (fun u => { u.used l s.cyc.toNat with
    lid := l.lid, lastPart := l.part, phasers := u.phasers.filter (·.2.parked), tasks := [], returned := [] })

/-! ## Placement (R331, R332, R343) -/

/-- The bytes of a SPAD record (R332, R343). Those that lie in a resident bank are written only for a launch that its DCB grants resident load, and
not while a saved launch holds state on the cluster, which finds the bank as it was left (R164, R351; log 62). -/
def State.imageWrite (s : State) (l : Launch) (cid off : Nat) (bs : List Byte) : State :=
  if ((s.coreAt cid).resAt off bs.length).isNone || (s.resLoad l && !s.savedOn (cid / 16)) then s.rawWrite cid off bs
  else ((List.range bs.length).zip bs).foldl (fun (t : State) e => t.edgeWrite cid (off + e.1) [e.2]) s

/-- Applies one record after the page maps. -/
def State.applyRecord (s : State) (l : Launch) (core : Nat → Option Nat) (r : Nat × List Byte) : Option State :=
  let bs := r.2
  let cid := (core (recNat bs 4 2)).getD 0
  let data := (bs.drop 16).take (recNat bs 12 4)
  match r.1 with
  | 2 =>
    let i := recNat bs 6 1
    (actorOf (s.coreAt cid) i (bs.drop 8)).map (fun a =>
      s.updCore cid (fun k => { k with actors := k.actors.put i a, rings := ringsAfter k i a s.turns }))
  | 3 =>
    let b := recNat bs 6 1
    some (s.updCore cid (fun k => { k with bfmt := Vector.ofFn (fun (i : Fin 16) =>
      if i.val = b then writeBfmt k.bfmt[i] (BitVec.ofNat 64 (recNat bs 8 8)) else k.bfmt[i]) }))
  | 7 | 9 => s.writeVa l.lid l.pid (recNat bs 4 8) data
  | 8 => some (s.imageWrite l cid (recNat bs 8 4) data)
  | _ => some s

/-- Applies the MAP records first, then the others in list order (R332). -/
def State.applyAll (s : State) (l : Launch) (core : Nat → Option Nat) (rs : List (Nat × List Byte)) : Option State :=
  ((rs.filter (fun r => r.1 == 6)).foldlM (fun (t : State) r => t.applyMap l r.2) s).bind (fun t =>
    rs.foldlM (fun (t : State) r => t.applyRecord l core r) t)

/-- Whether a line of a chain of DCBs is locked for a group (R402): what reads them waits. -/
def State.dcbLocked (s : State) (a : Nat) : Bool := (s.dcbChain a).any (fun x => s.lineLocked s.pkgNo x 128)

/-- Whether something that the placement of a launch reads lies in a line locked for a group (R402): its DCBs, its image, its argument block. -/
def State.placeLocked (s : State) (l : Launch) : Bool :=
  let img := s.dcbAt l.dcb 40 8
  s.dcbLocked l.dcb || s.vaLocked l.pid img (imageEnd s l.pid img (2 ^ 22) 0) || (l.args != 0 && s.vaLocked l.pid l.args.toNat 64)

/-- The launch arguments: eight words, zero without a block (R334). -/
def State.launchArgs (s : State) (l : Launch) : Option (List Word) :=
  if l.args = 0 then some (List.replicate 8 0)
  else (s.readVa l.pid l.args.toNat 64).map (fun bs => (List.range 8).map (fun i => BitVec.ofNat 64 (recNat bs (8 * i) 8)))

/-- The core that a CID of an image names, when it is placed: in mode ANY its cluster is relative (R332, R343). -/
def coreOf (any : Bool) (list clusters : List Nat) (cores : List (Nat × Nat × Nat × Bool)) (cid : Nat) : Option Nat :=
  if !cores.any (fun e => e.1 == cid) then none
  else if any then (list.findIdx? (· == cid / 16)).bind (fun i => (clusters[i]?).map (fun c => c * 16 + cid % 16))
  else if list.contains (cid / 16) then some cid else none

/-- Places a launch on its clusters: none when its image is refused (R331). -/
def State.place (s : State) (l : Launch) : Option State :=
  let img := s.dcbAt l.dcb 40 8
  let any := s.anyMode l
  (imageRecords s l.pid img (2 ^ 22) 0).bind (fun rs =>
    match rs with
    | (1, head) :: rest =>
      (placeOf head).bind (fun pl =>
        let core := coreOf any pl.1 l.clusters pl.2
        if pl.1.length ≠ l.clusters.length ∨ pl.1.length ≠ s.nclu l ∨ pl.2.any (fun e => (core e.1).isNone) ∨ !rest.all (recordOk core) then none
        else
          let t := l.clusters.foldl (fun t cl => t.prepareCluster l cl) s
          let t := pl.2.foldl (fun (t : State) e => t.updCore ((core e.1).getD 0) (fun k => { k with lid := l.lid })) t
          (t.applyAll l core rest).bind (fun t =>
            (t.launchArgs l).map (fun argw =>
              let ctl := (rest.filter (fun r => r.1 == 4)).foldl (fun (m : Tab Word) r => m.put (recNat r.2 4 2) (BitVec.ofNat 64 (recNat r.2 8 8))) []
              let caps := (rest.filter (fun r => r.1 == 5)).foldl (fun (m : Tab (Quad × Quad)) r =>
                m.put (recNat r.2 4 1) (BitVec.ofNat 128 (recNat r.2 8 16), BitVec.ofNat 128 (recNat r.2 24 16))) []
              let t := t.updLaunch l.lid (fun l => { l with
                st := .running
                cores := pl.2.map (fun e => ((core e.1).getD 0, e.2))
                ctl := ctl
                caps := caps
                argw := argw })
              { t with
                texts := t.texts ++ [{ lid := l.lid, pid := BitVec.ofNat 12 l.pid, root := t.levelZero.find l.pid, mem := t.mem, held := t.heldText }]
                peerPages := t.peerPages.filter (fun e => e.1.2.1 != l.pid)
                resGrant := if s.resLoad l then t.resGrant ++ [l.lid] else t.resGrant })))
    | _ => none)

/-! ## Firings (R53 to R55) -/

/-- A capability in LOCAL space as its two registers. -/
def localCap (base lim prm : Nat) : Quad × Quad :=
  let c : Cap := { cur := BitVec.ofNat 64 base, base := BitVec.ofNat 64 base, lim := BitVec.ofNat 64 lim, prm := BitVec.ofNat 8 prm, spc := 0 }
  (c.head, c.tail)

/-- Position in its ring of the block of an entry: the oldest token, or the first free slot. -/
def Core.blockAt (k : Core) (e : Nat × Fifo) : Nat :=
  let r := k.rings.get {} e.2.ring
  (if e.1 < 4 then r.head else r.head + r.occ) % e.2.cap

/-- Whether the block of an entry lies in one piece. -/
def Core.oneBlock (k : Core) (e : Nat × Fifo) : Bool := decide (k.blockAt e + e.2.rate ≤ e.2.cap)

/-- Whether a firing of the core holds a block in a ring. -/
def Core.holdsBlock (k : Core) (ring : Nat) : Bool := k.actors.any (fun x => x.2.ctx.isSome && x.2.used.any (fun f => f.2.ring == ring))

/-- Whether an actor of a core is ready, apart from a free context (R53). Where the block of an entry would not lie in one piece, as after a FLUSH
under a firing or an ACTDEF with another rate (R51), it waits for the firing that holds a block in that ring (log 18). -/
def Core.actorReady (k : Core) (a : Actor) : Bool :=
  a.en && a.ctx.isNone && a.used.all (fun e =>
    let r := k.rings.get {} e.2.ring
    (if e.1 < 4 then decide (e.2.rate ≤ r.occ) else decide (r.occ + e.2.rate ≤ e.2.cap)) && (k.oneBlock e || !k.holdsBlock e.2.ring))

/-- The candidate that starts (R54): the highest priority, then round-robin after the one that last fired there; 32 is the spawn FIFO. Before
any has fired at a priority the round begins at `first`, which the spec leaves open (log 8). -/
def Core.candidate (k : Core) (first : Nat) : Option (Nat × Nat) :=
  (List.range 8).reverse.findSome? (fun p =>
    let from_ := match k.lastFired.find p with | some last => last + 1 | none => first
    ((List.range 33).map (fun i => (from_ + i) % 33)).findSome? (fun i =>
      if i = 32 then (if !k.spawnFifo.isEmpty ∧ k.spri = p then some (p, 32) else none)
      else match k.actors.find i with
        | some a => if a.prio = p ∧ k.actorReady a then some (p, i) else none
        | none => none))

/-- The token block of an entry at a firing start (R55): the oldest tokens, or the free slots to be produced. -/
def Core.block (k : Core) (e : Nat × Fifo) : Nat × Quad × Quad :=
  let base := e.2.ring + k.blockAt e * e.2.size
  let c := localCap base (base + e.2.rate * e.2.size) (if e.1 < 4 then 1 else 3)
  (8 + 2 * e.1, c.1, c.2)

/-- The ring of an entry with its oldest token at its beginning, so that the block lies in one piece (R51; log 18): bytes, poison and tag bits move
together; tag bits that would not stand on a granule are lost. -/
def State.turnRing (s : State) (cid : Nat) (e : Nat × Fifo) : State :=
  if (s.coreAt cid).oneBlock e then s
  else
    let n := e.2.cap * e.2.size
    let base := spad cid e.2.ring
    let by_ := ((s.coreAt cid).rings.get {} e.2.ring).head % e.2.cap * e.2.size
    let out (x k : Nat) : Bool := decide (x + k ≤ base ∨ base + n ≤ x)
    let grans (l : List Nat) : List Nat :=
      (if n % 32 = 0 ∧ by_ % 32 = 0 then (List.range (n / 32)).filter (fun j => l.contains (base / 32 + (j + by_ / 32) % (n / 32))) else []).foldl
        (fun l j => insertNat (base / 32 + j) l) (l.filter (fun g => out (32 * g) 32))
    ({ s with
      mem := Memory.writeL s.mem base ((List.range n).map (fun j => Memory.read s.mem (base + (j + by_) % n)))
      poison := ((List.range n).filter (fun j => s.poison.contains (poisonUnit (base + (j + by_) % n)))).foldl
        (fun l j => insertNat (poisonUnit (base + j)) l) (s.poison.filter (fun u => out u 8 || decide (base + n < u + 8)))
      tagged := grans s.tagged
      tagPoison := grans s.tagPoison } : State).updCore cid (fun k =>
      { k with rings := k.rings.put e.2.ring { k.rings.get {} e.2.ring with head := 0 } })

/-- The rings of an actor as its firing finds them. -/
def State.turnRings (s : State) (cid : Nat) (a : Actor) : State := a.used.foldl (fun t e => t.turnRing cid e) s

/-- The context at the start of a firing (R55). The bytes of an INITCAP record are written as they are, whatever R92 says of the fields of a
capability (log 61). -/
def firingCtx (c : Ctx) (l : Launch) (g actor serial : Nat) (pc : PcAddr) (pkg : Nat) (blocks : List (Nat × Quad × Quad)) (args : List (Quad × Tag)) : Ctx :=
  let place := (l.cores.find? (fun e => e.1 == g / 4)).getD (0, 0, 0, false)
  let lim := place.2.2.1
  let scr := localCap place.2.1 lim (if place.2.2.2 then 11 else 3)
  let ctl (n : Nat) (d : Word) : Word := l.ctl.get d n
  let f : Ctx := {
    busy := true, fire := c.fire, floor := c.floor, copies := c.copies, reds := c.reds, storeq := c.storeq, lid := l.lid, pid := BitVec.ofNat 12 l.pid, actor := actor, pc := pc
    fcs := mix 0 (ctl 1 0) 0x1F7
    prc := (fun v : Word => mix 0 (setFld v 4 0 (min (fld v 4 0) 27)) 0x1FF1F) (ctl 2 7)
    hbi := mix 0 (ctl 5 1200000) 0xFFFFFFFF
    wto := mix 0 (ctl 6 0) 0xFFFFFFFFFF
    rsb := ctl 7 (BitVec.ofNat 64 (lim - 0x100 + lim * 2 ^ 32))
    tvec := mix 0 (ctl 0x0B 0) 0xFFFFFFFFFFFFC0
    ctlw := mix 0 (ctl 0x0F 0) 1 }
  let f := { f with sp := BitVec.ofNat 64 f.rsbBase, hb := f.interval }
  let f := ((f.wr 2 scr.1 .caph).wr 3 scr.2 .capt)
  let f := (((f.wr 4 (BitVec.ofNat 128 serial)).wr 5 (BitVec.ofNat 128 actor)).wr 6 (BitVec.ofNat 128 (g / 4 + g % 4 * 2 ^ 11 + pkg * 2 ^ 13))).wr 7
    (l.lid.setWidth 128)
  let f := blocks.foldl (fun f b => (f.wr b.1 b.2.1 .caph).wr (b.1 + 1) b.2.2 .capt) f
  -- the launch arguments go to an actor's firing, then the granted capabilities, then a spawn's arguments (R55, R332)
  let f := if actor < 32 then ((List.range 8).foldl (fun f i => f.wr (24 + i) ((l.argw.getD i 0).setWidth 128)) f) else f
  let f := l.caps.foldl (fun f e => (f.wr e.1 e.2.1 .caph).wr (e.1 + 1) e.2.2 .capt) f
  f.wrList 24 args

/-- FIRING_START (R54, R55): the lowest free context of the core starts the candidate, under the core's launch; none starts before every
package of its block has written its images (R409). -/
def execFiringStart (cid : Nat) (s : State) : Out :=
  let k := s.coreAt cid
  match (List.range 4).find? (fun i => !(s.ctxAt (4 * cid + i)).busy), k.candidate (Config.firstActor cid), s.launch k.lid with
  | some i, some (p, a), some l =>
    let g := 4 * cid + i
    if l.st ≠ .running ∨ k.resetting ∨ s.blocks.contains l.lid then .next s
    else if a = 32 then
      match k.spawnFifo with
      | r :: rest =>
        let t := s.updCore cid (fun k => { k with spawnFifo := rest, spawnSerial := k.spawnSerial + 1, lastFired := k.lastFired.put p 32 })
        .next (t.updCtx g (fun c => firingCtx c l g 32 k.spawnSerial r.pc s.pkgNo [] r.args))
      | [] => .next s
    else
      match k.actors.find a with
      | some x =>
        let u := s.turnRings cid x
        let t := u.updCore cid (fun k => { k with
          actors := k.actors.put a { x with serial := x.serial + 1, ctx := some i }
          lastFired := k.lastFired.put p a })
        .next (t.updCtx g (fun c => firingCtx c l g a x.serial x.entry s.pkgNo (x.used.map (u.coreAt cid).block) []))
      | none => .next s
  | _, _, _ => .next s

end Sys2Proof.Machine
end

