-- ==== Sys2Proof/Machine/Package.lean ====
section
/-! DEFINITION. Package.lean: the command processor (R329 to R354): launch queues, the sorter, tier reservations, cancellation, saving and
resuming, completion, faults, the ramp limiter, and the instructions LQPUT and CANCEL. -/

namespace Sys2Proof.Machine

/-! ## Queues (R334 to R336) -/

/-- A launch queue. -/
def State.queue (s : State) (q : Nat) : Queue := s.queues.get {} q
/-- Changes a launch queue. -/
def State.updQueue (s : State) (q : Nat) (f : Queue → Queue) : State := { s with queues := s.queues.put q (f (s.queue q)) }
/-- An MSI-X to the application cores for a queue, where QCFG.IRQ asks for it (R335). -/
def State.irq (s : State) (q : Nat) : State := if bitAt (s.queue q).cfg 2 then { s with msix := s.msix ++ [q] } else s
/-- The queue of a launch identifier (R336). -/
def lidQueue (lid : Word) : Nat := fld lid 7 0

/-- The launches of a queue. -/
def State.ofQueue (s : State) (q : Nat) : List Launch := s.launches.filter (fun l => lidQueue l.lid == q)

/-- The lowest entry slot that no launch of a queue holds (R336). -/
def State.freeEntry (s : State) (q : Nat) : Option Nat :=
  (List.range 64).find? (fun i => !(s.ofQueue q).any (fun l => fld l.lid 13 8 == i))

/-- An entry reaches a queue (R334 to R336, R353): its status, and the identifier of an accepted launch. `lq` is the issuing launch's
process identifier and partition for LQPUT. -/
def State.enqueue (s : State) (q : Nat) (bs : List Byte) (lq : Option (Nat × Nat)) : Nat × Word × State :=
  let k := s.queue q
  let dcb := recNat bs 0 8
  let closed := !bitAt k.cfg 0 || (match lq with | some (_, part) => !bitAt k.cfg 1 || fld k.cfg 15 8 != part | none => false)
  let full := decide (64 ≤ ((s.ofQueue q).filter (fun l => l.st == .pending)).length)
  match s.freeEntry q with
  | none => (if closed then 2 else 1, 0, s)
  | some slot =>
    let reach := match lq with | some (pid, _) => s.admits pid dcb | none => true
    if closed then (2, 0, s)
    else if full then (1, 0, s)
    else if 2 ^ 42 ≤ dcb ∨ !(bs.drop 32).all (· == 0) ∨ !reach ∨ !s.dcbOk dcb then (3, 0, s)
    else
      let lid := BitVec.ofNat 64 (q % 256 + slot * 2 ^ 8 + (k.serial + 1) * 2 ^ 14)
      let d := recNat bs 8 8
      let l : Launch := {
        lid := lid, dcb := dcb, deadline := if d = 0 then 2 ^ 64 - 1 else d, args := BitVec.ofNat 64 (recNat bs 16 8)
        tag := BitVec.ofNat 64 (recNat bs 24 8), arrival := s.arrivals }
      let t := s.updQueue q (fun k => { k with serial := k.serial + 1, lid := lid })
      (0, lid, { t with launches := t.launches ++ [s.readDcb l], arrivals := s.arrivals + 1 })

/-- Whether what the acceptance of an entry reads, its DCBs, lies in a line locked for a group (R402). -/
def State.entryLocked (s : State) (bs : List Byte) : Bool := s.dcbLocked (recNat bs 0 8)

/-- QDOOR (R335): a doorbell enqueues the entry at a physical address; QLAST takes the status. It waits for a locked line that it reads (R402). -/
def execQdoor (queue : Nat) (entry : Word) (s : State) : Out :=
  if s.plug.step < 6 ∨ 256 ≤ queue ∨ s.lineLocked s.pkgNo (fld entry 41 0) 64 ∨ s.entryLocked (s.bytesAt (fld entry 41 0) 64) then .next s
  else
    let (st, _, t) := s.enqueue queue (s.bytesAt (fld entry 41 0) 64) none
    .next (t.updQueue queue (fun k => { k with door := entry &&& 0x3FFFFFFFFFF, last := st }))

/-- QCH (R335, R345): of an application core, which Plug releases in the last step of boot (R357). -/
def execQch (queue : Nat) (head : Word) (s : State) : Out :=
  if s.plug.step < 6 ∨ 256 ≤ queue then .next s else .next (s.updQueue queue (fun k => { k with head := head.setWidth 32 }))

/-- CONTROL_PAGE_WRITE (R335): QCFG and QRING take writes of Feather alone; the read-only registers take none. BASE is 32-byte aligned: bits
[4:0] of what is written there are dropped (log 45). -/
def execControlPageWrite (queue off : Nat) (val : Word) (feather : Bool) (s : State) : Out :=
  if 256 ≤ queue ∨ !feather ∨ !s.plug.feather then .next s
  else if off = 0 then .next (s.updQueue queue (fun k => { k with cfg := mix k.cfg val 0xFF07 }))
  else if off = 8 then .next (s.updQueue queue (fun k => { k with ring := mix k.ring val 0xF003FFFFFFFFE0 }))
  else .next s

/-! ## Cluster-time (R339) -/

/-- Adds to a counter of a DCB; while its line is locked for a group, the addition waits (R402). -/
def State.bump (s : State) (a off n : Nat) : State :=
  if s.lineLocked s.pkgNo (a + off) 8 then { s with owed := s.owed ++ [(a + off, n)] }
  else s.store 0 (a + off) (leBytes 8 (s.numAt (a + off) 8 + n))

/-- The additions that have waited are made, in their order, where no lock stands any longer. -/
def State.payOwed (s : State) : State := s.owed.foldl (fun t e => t.bump e.1 0 e.2) { s with owed := [] }

/-- Accounts the cluster-time of a launch, in cluster·µs, to every node above it (R339). -/
def State.account (s : State) (lid : Word) : State :=
  match s.launch lid with
  | some l =>
    let us := (s.cyc.toNat - l.acct) / 1200
    if !l.holds ∨ us = 0 then s
    else ((s.dcbChain l.dcb).foldl (fun t a => t.bump a 56 (us * l.clusters.length)) s).updLaunch lid (fun l => { l with acct := l.acct + us * 1200 })
  | none => s

/-- The same for every launch that holds clusters. -/
def State.accountAll (s : State) : State := s.launches.foldl (fun t l => t.account l.lid) s

/-- CTB_EXHAUSTED (R339): the cluster-time of the running launches below a DCB is accounted to it; with USED at its CTB, no launch below
it is dispatched. -/
def execCtbExhausted (dcb : Nat) (s : State) : Out :=
  .next ((s.launches.filter (fun l => (s.dcbChain l.dcb).contains dcb)).foldl (fun t l => t.account l.lid) s)

/-! ## The sorter (R337 to R341) -/

/-- NCLUP of a launch's partition (R330). -/
def State.nclup (s : State) (part : Nat) : Nat := match s.plug.parts.find part with | some p => s.numAt (p.dcb + 72) 8 | none => 0

/-- The reservations K_1 to K_3 of a partition, by tier (R340). -/
def State.reservation (s : State) (part t : Nat) : Nat :=
  let n := s.nclup part
  let share (t : Nat) : Nat := let b := s.numAt (s.plug.root + 33 + t) 1; if b = 0 then 64 / 2 ^ t else b
  let k (t : Nat) : Nat := (share t * n + 255) / 256
  let k3 := min (k 3) n
  let k2 := min (k 2) (n - k3)
  match t with
  | 1 => min (k 1) (n - k3 - k2)
  | 2 => k2
  | 3 => k3
  | _ => 0

/-- Clusters that the launches of a tier of a partition hold. -/
def State.tierHeld (s : State) (part t : Nat) : Nat := s.held (fun l => l.part == part && l.tier == t)

/-- Clusters of a partition that no launch holds. -/
def State.idle (s : State) (part : Nat) : Nat := s.nclup part - s.held (fun l => l.part == part)

/-- Whether a tier of a partition claims its reservation: with a pending launch (R340), and tier 3 as long as it has work, placed or saved
(R341). -/
def State.waiting (s : State) (part t : Nat) : Bool :=
  s.launches.any (fun l => l.part == part && l.tier == t &&
    (match l.st with | .pending => true | .placing | .running | .saving | .saved => t == 3 | _ => false))

/-- What the other tiers that claim their reservations must keep of the idle clusters (R340, R341). -/
def State.keptFor (s : State) (part u : Nat) : Nat :=
  (([1, 2, 3].filter (fun t => t != u && s.waiting part t)).map (fun t => s.reservation part t - s.tierHeld part t)).sum

/-- Whether the budgets above a launch allow n more clusters (R337, R339); a DCB in a line locked for a group cannot be read now (R402). -/
def State.budgetOk (s : State) (l : Launch) (n : Nat) : Bool :=
  let c := s.dcbChain l.dcb
  (List.range 4).all (fun i =>
    let up := c.drop i
    match up with
    | [] => true
    | a :: _ =>
      !s.lineLocked s.pkgNo a 128 && decide (s.held (fun x => (s.dcbChain x.dcb).contains a) + n ≤ s.clmax up) && (s.ctb up == 0 || decide (s.dcbAt a 56 8 < s.ctb up)))

/-- Rotates a list: which cluster comes first among equals is free (log 2). -/
def rotate {α : Type} (n : Nat) (l : List α) : List α := l.drop (n % max 1 l.length) ++ l.take (n % max 1 l.length)

/-- Puts a value into a list that is sorted by a key. -/
def insertBy {α : Type} (key : α → Nat) (x : α) : List α → List α
  | [] => [x]
  | y :: t => if key x < key y then x :: y :: t else y :: insertBy key x t

/-- The clusters of mode ANY: first those with the launch's resident set, then those without one, then the one whose set was used least
recently (R343). -/
def State.chooseAny (s : State) (l : Launch) : Option (List Nat) :=
  let r := l.rsid
  let us := rotate (Config.freeNat s.draws) ((List.range 128).filter (s.cluUsable l))
  let rs (c : Nat) : Nat := (s.cluAt c).rsid.toNat
  let own := us.filter (fun c => r != 0 && rs c == r)
  let none_ := us.filter (fun c => rs c == 0)
  let other := (us.filter (fun c => rs c != 0 && (r == 0 || rs c != r))).foldr (insertBy (fun c => (s.cluAt c).lastUse)) []
  let all := own ++ none_ ++ other
  if s.nclu l ≤ all.length ∧ s.nclu l ≠ 0 then some (all.take (s.nclu l)) else none

/-- The clusters a FIXED image names, as far as its first record can be read. -/
def State.fixedList (s : State) (l : Launch) : List Nat :=
  match s.readVa l.pid (s.dcbAt l.dcb 40 8) 4 with
  | some h =>
    match s.readVa l.pid (s.dcbAt l.dcb 40 8) (recNat h 1 3) with
    | some bs => if recNat bs 0 1 = 1 then ((placeOf bs).map (·.1)).getD [] else []
    | none => []
  | none => []

/-- Whether a line that a dispatch decision about a launch reads is locked for a group (R402): of its DCBs, or of the PLACE record of a FIXED image.
Such a launch is passed over (log 83). -/
def State.decisionLocked (s : State) (l : Launch) : Bool :=
  let img := s.dcbAt l.dcb 40 8
  s.dcbLocked l.dcb || (!s.anyMode l &&
    s.vaLocked l.pid img (match s.readVa l.pid img 4 with | some h => max 4 (recNat h 1 3) | none => 4))

/-- Where a launch can be placed now (R337, R340, R343): none when it must wait, as every launch of a partition without clusters does. A launch whose image names no clusters, or a retired
one, is dispatched to be refused (R331, R368). -/
def State.placeable (s : State) (l : Launch) : Option (List Nat) :=
  let fits (cs : List Nat) : Option (List Nat) :=
    if s.budgetOk l cs.length ∧ cs.length + s.keptFor l.part l.tier ≤ s.idle l.part then some cs else none
  if s.decisionLocked l || s.nclup l.part == 0 then none
  else if s.anyMode l then (s.chooseAny l).bind fits
  else
    let cs := s.fixedList l
    if cs.isEmpty || cs.any (fun c => (s.cluAt c).retired) then some []
    else if cs.all (s.cluUsable l) then fits cs else none

/-- The order of R337: tier, deadline, queue, arrival. -/
def Launch.before (a b : Launch) : Bool :=
  let key (l : Launch) : List Nat := [l.tier, l.deadline, lidQueue l.lid, l.arrival]
  decide (key a < key b)

/-- The pending launches in order. -/
def State.sorted (s : State) : List Launch :=
  (s.launches.filter (fun l => l.st == .pending)).foldl (fun acc l => (acc.takeWhile (fun x => x.before l)) ++ [l] ++ acc.dropWhile (fun x => x.before l)) []

/-- A deadline that CYC has exceeded is missed, once for a launch (R338): the miss is counted in the queue and in the job and partition. -/
def State.miss (s : State) (l : Launch) : State :=
  if l.missed || decide (s.cyc.toNat ≤ l.deadline) then s
  else
    let q := lidQueue l.lid
    let t := (s.updLaunch l.lid (fun l => { l with missed := true })).updQueue q (fun k => { k with miss := k.miss + 1 })
    (((s.dcbChain l.dcb).drop 1).take 2).foldl (fun t a => t.bump a 64 1) (t.irq q)

/-- A launch is complete, with a status unless it has one already (R345, R347, R338); its record is still to be written. -/
def State.finish (s : State) (lid : Word) (st : Nat) : State :=
  match s.launch lid with
  | some l => (s.miss l).updLaunch lid (fun l =>
      { l with st := .done, status := if l.status = 0 then st else l.status, clusters := [], saved := [], ended := s.cyc.toNat })
  | none => s

/-- What a saved launch holds outside its saved state goes with it: stream links, active-query slots, open groups, phasers (R283, R318,
R407, R240), and its program text. -/
def State.dropSaved (s : State) (l : Launch) : State :=
  let t := l.saved.foldl (fun (t : State) c =>
    (c.ctxs.foldl (fun (t : State) e =>
      (e.2.queries.foldl (fun (t : State) q =>
        (t.updHome (fieldKey e.2.pid.toNat q.2.fld) (fun h => { h with queries := h.queries.drop q.2.slot })).reclaimField e.2.pid.toNat q.2.fld)
        (t.dropLinks e.2.stream)).abortGroupsOf e.1 e.2.fire) t).updClu c.cl
      (fun u => { u with phasers := u.phasers.filter (fun p => p.2.lid != l.lid) })) s
  t.dropText l.lid

/-- Stops a launch with a status: a pending or saved one is finished, a dispatched one is stopped at its instruction boundaries (R349). -/
def State.stopLaunch (s : State) (lid : Word) (st : Nat) : State :=
  match s.launch lid with
  | some l =>
    match l.st with
    | .pending => s.finish lid st
    | .saved => ((s.dropSaved l).finish lid st).pruneDirs
    | .placing | .running | .saving => s.updLaunch lid (fun l => { l with st := .stopping, status := st, asked := s.cyc.toNat })
    | _ => s
  | none => s

/-- Cancels a launch for a partition (R349, R354): the status, and the state. One that a dispatch decision of this clk has taken is removed
(R337). -/
def State.cancel (s : State) (lid : Word) (part : Nat) : Nat × State :=
  match s.launch lid with
  | some l =>
    if l.part ≠ part then (3, s)
    else match l.st with
      | .pending => (0, s.stopLaunch lid 2)
      | .placing => if l.decided = s.cyc.toNat then (0, s.finish lid 2) else (1, s.stopLaunch lid 2)
      | .stopping | .done => (2, s)
      | _ => (1, s.stopLaunch lid 2)
  | none => (2, s)

/-- Whether an earlier request of the same core to the command processor, an LQPUT entry or a CANCEL, is still to arrive there (R257). -/
def State.behindOrder (s : State) (m : Msg) : Bool :=
  s.net.any (fun x => decide (x.id < m.id) && x.g / 4 == m.g / 4 && (match x.body with | .entry .. | .cancel .. => true | _ => false))

/-- The CANCEL requests that have arrived are applied, and answered (R337, R354); which ones have is free (log 2), those of one core in the order
sent (R257). One of a fenced core does not leave it (R58). -/
def State.takeCancels (s : State) : State :=
  s.net.foldl (fun (t : State) m =>
    match m.body with
    | .cancel lid part =>
      let u : State := { t with draws := t.draws + 1 }
      if Config.freeBit t.draws && !(s.coreAt (m.g / 4)).fenced && !t.behindOrder m then
        let r := u.cancel lid part
        (r.2.gone m.id).reply m.g m.fire m.id { data := BitVec.ofNat 128 r.1 }
      else u
    | _ => t) s

/-- The command processor's work of one clk before its dispatch decision (R337, R339): what its counters are owed, the cancellations, and the
cluster-time so far. -/
def State.clerk (s : State) : State := { s.payOwed.takeCancels.accountAll with decision := s.cyc.toNat + 1 }

/-- The first launch in order that can be placed, with its clusters (R337); one whose DCB has become bad is taken to be refused. -/
def State.chosen (s : State) : Option (Launch × List Nat) :=
  s.sorted.findSome? (fun l => (if s.dcbOk l.dcb then s.placeable (s.readDcb l) else if s.dcbLocked l.dcb || s.nclup l.part == 0 then none else some []).map
    (fun cs => (l, cs)))

/-- DISPATCH_DECISION (R337): one for each clk. A launch whose DCB has become bad is refused (R333, R366). -/
def execDispatchDecision (s : State) : Out :=
  if s.plug.step < 6 ∨ s.cyc.toNat < s.decision then .next s
  else
    let t := s.clerk
    match t.chosen with
    | some (l, cs) =>
      let u : State := { t with draws := t.draws + 1 }
      if !t.dcbOk l.dcb then .next (u.finish l.lid 4)
      else .next (u.updLaunch l.lid (fun l =>
        { t.readDcb l with st := .placing, clusters := cs, acct := s.cyc.toNat, decided := s.cyc.toNat }))
    | none => .next t

/-- What remains of a launch's clusters when its placement ends: field slots, pools and lists go, resident banks stay (R326, R344). -/
def State.release (s : State) (l : Launch) : State :=
  let t := l.clusters.foldl (fun (t : State) cl =>
    let t := (List.range 16).foldl (fun (t : State) i => t.updCore (cl * 16 + i) (fun k => k.fresh 0)) t
    t.updClu cl (fun u => { u.used l s.cyc.toNat with
      lid := 0, phasers := u.phasers.filter (fun p => p.2.lid != l.lid), tasks := [], returned := [] })) s
  ({ t.dropText l.lid with resGrant := t.resGrant.filter (· != l.lid) } : State).pruneDirs

/-- LAUNCH_PLACEMENT (R331, R343): after the clk of the decision the image is read and the launch placed, or it completes as REFUSED. It waits while
a line that it reads or writes is locked for a group (R402). -/
def execLaunchPlacement (lid : Nat) (s : State) : Out :=
  match s.launch (BitVec.ofNat 64 lid) with
  | some l =>
    if l.st ≠ .placing ∨ s.cyc.toNat ≤ l.decided then .next s
    else if l.clusters.isEmpty then .next (s.finish l.lid 4)
    else if !s.peersKnown l || s.placeLocked l then .next s
    else match s.place l with
      | some t => .next (if t.owed = s.owed then t else s)
      | none => .next ((s.account l.lid).finish l.lid 4)
  | none => .next s

/-- DEADLINE_MISS (R338): the miss of a launch that is not complete. -/
def execDeadlineMiss (lid : Nat) (s : State) : Out :=
  match s.launch (BitVec.ofNat 64 lid) with
  | some l => .next (if l.st == .done then s else s.miss l)
  | none => .next s

/-- Clusters that the launches of a tier of a partition hold and keep: those being saved or stopped are counted as freed (R340). -/
def State.tierKeeps (s : State) (part t : Nat) : Nat :=
  s.held (fun l => l.part == part && l.tier == t && l.st != .saving && l.st != .stopping)

/-- The running launch that a tier pre-empts (R340): of another tier that holds more than its reservation, the highest tier number first,
then the latest deadline. -/
def State.victim (s : State) (part t : Nat) (above : Bool) : Option Launch :=
  (s.launches.filter (fun l => l.st == .running && l.part == part && l.tier != t && (!above || decide (t < l.tier)) &&
    decide (s.reservation part l.tier < s.tierKeeps part l.tier))).foldl (fun b l =>
      match b with
      | some x => if x.tier < l.tier ∨ (x.tier = l.tier ∧ x.deadline < l.deadline) then some l else some x
      | none => some l) none

/-- What the tiers that claim their reservations lack of them, together (R340, R341). -/
def State.lacking (s : State) (part : Nat) : Nat :=
  (([1, 2, 3].filter (s.waiting part)).map (fun t => s.reservation part t - s.tierHeld part t)).sum

/-- PREEMPTION_REQUEST (R340): while a tier with a pending launch holds fewer clusters than its reservation, and the idle clusters with those
being freed do not cover what all such tiers lack, or while a pending launch that cannot be placed finds one of a higher tier number
above its reservation, a running launch is asked to be saved. -/
def execPreemptionRequest (part tier : Nat) (s : State) : Out :=
  let coming := s.held (fun l => l.part == part && (l.st == .saving || l.st == .stopping))
  let short := decide (s.tierHeld part tier < s.reservation part tier ∧ s.idle part + coming < s.lacking part)
  let stuck := coming == 0 && s.launches.any (fun l => l.st == .pending && l.part == part && l.tier == tier && !s.decisionLocked l && (s.placeable l).isNone)
  let pick := if short then s.victim part tier false else if stuck then s.victim part tier true else none
  match (if s.waiting part tier then pick else none) with
  | some l => .next (s.updLaunch l.lid (fun l => { l with st := .saving, asked := s.cyc.toNat }))
  | none => .next s

/-! ## Stopping (R348, R349) -/

/-- QCAN (R335, R354). -/
def execQcan (queue : Nat) (lid : Word) (s : State) : Out :=
  if s.plug.step < 6 ∨ 256 ≤ queue then .next s
  else
    let (st, t) := s.cancel lid (fld (s.queue queue).cfg 15 8)
    .next (t.updQueue queue (fun k => { k with can := lid, cres := st }))

/-- What a launch's fault domain does to the others of its job or partition when it faults or is lost (R348). -/
def State.spread (s : State) (l : Launch) : State :=
  let up (x : Launch) (n : Nat) : Option Nat := (s.dcbChain x.dcb)[n]?
  let others := s.launches.filter (fun x => x.lid != l.lid && (match l.fdom with
    | 1 => up x 1 == up l 1
    | 2 => up x 2 == up l 2
    | _ => false))
  others.foldl (fun t x => t.stopLaunch x.lid 2) s

/-- A fault of a launch that is on its clusters (R348): its status, with the first cause, kind and CID, and what its fault domain does to the
others. One that is being stopped already becomes FAULT if it was cancelled, and LOST for a reset. -/
def State.launchFault (s : State) (lid : Word) (st cause kind cid : Nat) : State :=
  match s.launch lid with
  | some l =>
    if !l.holds then s
    else
      let first := decide (l.cause = 0 ∧ l.kind = 0)
      let t := (s.stopLaunch lid st).updLaunch lid (fun x => { x with
        status := if l.st = .stopping ∧ st ≠ 3 ∧ l.status ≠ 2 then l.status else st
        cause := if first then cause else x.cause
        kind := if first then kind else x.kind
        cid := if first then cid else x.cid })
      t.spread l
  | none => s

/-- The launches saved on a cluster that can no longer be resumed there end as LOST (R351, R368): all of them, or those whose resident set
is gone; then their fault domains act (R348). -/
def State.loseSaved (s : State) (cl : Nat) (every : Bool) : State :=
  let lost := s.launches.filter (fun l => l.saved.any (fun c => c.cl == cl && (every || c.clu.rsid != 0)))
  lost.foldl (fun t l => t.spread l) (lost.foldl (fun t l => t.stopLaunch l.lid 3) s)

/-- FAULT_MESSAGE_RECEIPT (R348, R64): a missed heartbeat also makes the cluster unavailable until its reset, which a resident set does not
outlive. -/
def execFaultMessageReceipt (id : Nat) (s : State) : Out :=
  match s.msg id with
  | some m =>
    match m.body with
    | .faultCopy bs =>
      let cid := recNat bs 0 2
      let kind := recNat bs 2 1
      let t := (s.gone id).launchFault (BitVec.ofNat 64 (recNat bs 16 8)) 1 (recNat bs 3 1) kind cid
      let cl := cid % 2 ^ 11 / 16
      .next (if kind = 1 then (t.loseSaved cl false).updClu cl (fun u => { u with resetReq := true }) else t)
    | _ => .next s
  | none => .next s

/-- A cluster is to be reset, and its launches end as LOST (R342, R348, R365). -/
def State.loseCluster (s : State) (cl : Nat) : State :=
  let t := (s.loseSaved cl false).updClu cl (fun u => { u with failed := true, resetReq := true })
  (s.launches.filter (fun l => l.holds && l.clusters.contains cl)).foldl (fun t l => t.launchFault l.lid 3 0 0 0) t

/-! ## Saving and resuming (R350, R351) -/

/-- The contexts of a launch's clusters. -/
def Launch.ctxs (l : Launch) : List Nat := l.clusters.flatMap (fun cl => (List.range 64).map (fun i => cl * 64 + i))
/-- The cores of a launch's clusters. -/
def Launch.cids (l : Launch) : List Nat := l.clusters.flatMap (fun cl => (List.range 16).map (fun i => cl * 16 + i))

/-- Whether a context stands between whole instructions, or in a blocked wait, and nothing of it is out (R90, R70, R231, R265, R323,
R378, R392, R408). -/
def State.ctxQuiet (s : State) (g : Nat) : Bool :=
  let c := s.ctxAt g
  c.storeq.isEmpty && (!c.busy ||
  (c.loads.isEmpty && (c.phase == .idle || (c.wait.isSome && !c.phase.isDone)) &&
   c.copies.all (fun e => !e.2.held || e.2.doneAt.isSome) && c.reds.all (fun e => !e.2.held || e.2.landed)))

/-- Whether something in flight belongs to a launch and is no visit of a query (R345); so does an atomic of its own that was merged into
another launch's (R265, R270). -/
def Msg.keeps (m : Msg) (lid : Word) : Bool :=
  (m.lid == lid && !m.isVisit m.g 0 && !m.isVisit m.g 1) || (match m.body with | .atom a => a.also.any (·.lid == lid) | _ => false)

/-- Whether a cluster of a launch can be saved or stopped now: every context is quiet, every message of the launch has arrived, and every
started engine operation has completed, is suspended, or stands between two rows of a PEER fetch (R209). -/
def State.clusterQuiet (s : State) (l : Launch) (cl : Nat) : Bool :=
  (List.range 64).all (fun i => s.ctxQuiet (cl * 64 + i)) && !s.net.any (fun m => m.g / 64 == cl && m.keeps l.lid) &&
  (List.range 16).all (fun i => (s.coreAt (cl * 16 + i)).equeue.all (fun e => !e.started || e.fin || e.susp.isSome || e.nextRow.isSome))

/-- Whether a launch can be saved or stopped now: all its clusters can, nothing of it is in flight, and no commit of a group is under way
(R407, R408). A group whose record could not be decided stays committing (R401): it keeps nothing once its instruction has reported that. -/
def State.launchQuiet (s : State) (l : Launch) : Bool :=
  l.clusters.all (s.clusterQuiet l) && !s.net.any (·.keeps l.lid) &&
  s.groups.all (fun e => e.2.st != .committing || (e.2.step == .lost && (s.ctxAt e.2.g).phase != .part groupMark e.1) || e.2.lid != l.lid || !l.ctxs.contains e.2.g)

/-- Whether a byte of a cluster's scratchpads lies in a bank that is not resident. -/
def State.ownByte (s : State) (cl loc : Nat) : Bool :=
  let x := loc - spad 0 0
  isSpad loc && x / 2 ^ 19 / 16 == cl && !(s.coreAt (x / 2 ^ 19)).resBanks.contains (x % 2 ^ 19 / 0x8000)

/-- Saves a cluster of a launch (R350): handle caches are dropped, and resident banks with their formats stay. -/
def State.saveCluster (s : State) (cl : Nat) : SavedCluster where
  cl := cl
  clu := s.cluAt cl
  cores := (List.range 16).map (fun i => (cl * 16 + i, { s.coreAt (cl * 16 + i) with hcache := [] }))
  ctxs := (List.range 64).map (fun i => (cl * 64 + i, s.ctxAt (cl * 64 + i)))
  bytes := s.mem.filter (fun c => s.ownByte cl c.1)
  tagged := s.tagged.filter (fun x => s.ownByte cl (32 * x))
  tagPoison := s.tagPoison.filter (fun x => s.ownByte cl (32 * x))
  poison := s.poison.filter (s.ownByte cl)
  msgs := s.net.filter (fun m => m.g / 64 == cl && (m.isVisit m.g 0 || m.isVisit m.g 1))

/-- The cluster once its state is saved: idle cores, no field bound; the launch's phasers keep their places (R240). -/
def State.clearCluster (s : State) (l : Launch) (cl : Nat) : State :=
  let t := (List.range 64).foldl (fun (t : State) i => t.updCtx (cl * 64 + i) (fun c =>
    { fire := max (c.fire + 1) c.floor, copies := c.copies.map (fun e => (e.1, { gen := e.2.gen })), reds := c.reds.map (fun e => (e.1, { gen := e.2.gen })) })) s
  let t := (List.range 16).foldl (fun (t : State) i => t.updCore (cl * 16 + i) (fun k => k.fresh 0)) t
  let t := t.updClu cl (fun u => { u.used l s.cyc.toNat with
    lid := 0, phasers := u.phasers.map (fun p => (p.1, p.2.park)), tasks := [], returned := [] })
  { t with net := t.net.filter (fun m => !(m.g / 64 == cl && (m.isVisit m.g 0 || m.isVisit m.g 1))) }

/-- Inserts cells into memory. -/
def State.putCells (s : State) (cells : List Host.Cell) : State :=
  { s with mem := cells.foldl (fun m c => Memory.write m c.1 c.2) s.mem }

/-- The save area at an address (R350): 0x88_0000 bytes of package DRAM, whose layout the spec does not give (log 25). -/
def State.fillSave (s : State) (a : Nat) : State :=
  if 2 ^ 38 < a + 0x880000 then s
  else
    let out (x : Nat) : Bool := decide (x < a ∨ a + 0x880000 ≤ x)
    let cells := ((Config.saveImage s.draws).filter (fun c => decide (c.1 < 0x880000))).map (fun c => (a + c.1, c.2))
    ({ s with
      mem := s.mem.filter (fun c => out c.1), tagged := s.tagged.filter (fun x => out (32 * x))
      tagPoison := s.tagPoison.filter (fun x => out (32 * x)), poison := s.poison.filter out, draws := s.draws + 1 } : State).putCells cells

/-- A core's lock table with its entries in the lowest slots (R170). -/
def Core.packLocks (k : Core) : Core :=
  let l := k.locks.toList.filterMap id
  { k with locks := Vector.ofFn (fun (i : Fin 16) => l[i.val]?) }

/-- The phasers of a cluster with the memberships that a launch has saved there (R240, R350): they have kept their places, or are put back where
a cluster reset has freed the phaser since; one that another launch holds by then stays that launch's (log 25). -/
def restorePhasers (lid : Word) (saved live : Tab Phaser) : Tab Phaser :=
  saved.foldl (fun t e =>
    if e.2.lid ≠ lid ∨ e.2.members.isEmpty then t
    else match t.find e.1 with
      | some p => if p.lid = lid ∧ p.parked then t.put e.1 p.unpark else if p.members.isEmpty then t.put e.1 e.2 else t
      | none => t.put e.1 e.2) live

/-- Restores a cluster (R351): the resident banks stay as they are. Their formats are as the launch left them (R164): a launch that was placed on the
cluster since has set them for itself (R225; log 77). -/
def State.restoreCluster (s : State) (l : Launch) (c : SavedCluster) : State :=
  let keep (x : Nat) : Bool := !s.ownByte c.cl x
  let t : State := { s with
    mem := s.mem.filter (fun e => keep e.1)
    tagged := c.tagged.foldl (fun l x => insertNat x l) (s.tagged.filter (fun x => keep (32 * x)))
    tagPoison := c.tagPoison.foldl (fun l x => insertNat x l) (s.tagPoison.filter (fun x => keep (32 * x)))
    poison := c.poison.foldl (fun l x => insertNat x l) (s.poison.filter keep)
    net := s.net ++ c.msgs }
  let t := t.putCells c.bytes
  let t := c.ctxs.foldl (fun (t : State) e => t.updCtx e.1 (fun live => { e.2 with floor := max e.2.floor live.fire })) t
  let t := c.cores.foldl (fun (t : State) e => t.updCore e.1 (fun live => { e.2.packLocks with
    path := live.path
    serials := live.serials
    arrivals := live.arrivals
    bfmt := Vector.ofFn (fun (i : Fin 16) => if bitAt live.bfmt[i] 31 then e.2.bfmt[i] ||| (2 ^ 31 : Word) else e.2.bfmt[i]) })) t
  t.updClu c.cl (fun u => { u.used l s.cyc.toNat with
    lid := c.clu.lid, phasers := restorePhasers l.lid c.clu.phasers u.phasers, tasks := c.clu.tasks, returned := c.clu.returned })

/-- Stops a launch on its clusters: its firings end without a message, and nothing of it is kept (R349). -/
def State.dropLaunch (s : State) (l : Launch) : State :=
  ((l.ctxs.foldl (fun (t : State) g => t.stopCtx g) s).account l.lid).release l

/-- Whether 5 ms have passed since a launch was asked to be saved or stopped (R342). -/
def State.late (s : State) (l : Launch) : Bool := decide (l.asked + 6000000 < s.cyc.toNat)

/-- CONTEXT_SAVE (R350, R349): a launch that is asked to be saved is saved, cluster k at SAVE + k × 0x88_0000; one that is being stopped is
discarded. What comes too late is for SAVE_TIMEOUT (R342). A save whose area holds a line locked for a group waits (R402). -/
def execContextSave (lid : Nat) (s : State) : Out :=
  match s.launch (BitVec.ofNat 64 lid) with
  | some l =>
    if !s.launchQuiet l || (s.late l && l.status != 3) then .next s
    else match l.st with
      | .saving =>
        if (List.range l.clusters.length).any (fun k => s.lineLocked s.pkgNo (l.save + k * 0x880000) 0x880000) then .next s else
        let t := (List.range l.clusters.length).foldl (fun (t : State) k => t.fillSave (l.save + k * 0x880000)) (s.account l.lid)
        .next ((l.clusters.foldl (fun t cl => t.clearCluster l cl) t).updLaunch l.lid (fun l => { l with st := .saved, saved := l.clusters.map s.saveCluster }))
      | .stopping => .next ((s.dropLaunch l).finish l.lid l.status)
      | _ => .next s
  | none => .next s

/-- SAVE_TIMEOUT (R342): 5 ms after the request the clusters whose save is not complete are reset, and the launch is LOST: those that could
not be saved yet, or all of them when it is only the save that has not come. -/
def execSaveTimeout (lid : Nat) (s : State) : Out :=
  match s.launch (BitVec.ofNat 64 lid) with
  | some l =>
    let busy := l.clusters.filter (fun cl => !s.clusterQuiet l cl)
    let open_ := (if busy.isEmpty then l.clusters else busy).filter (fun c => !(s.cluAt c).resetReq && !(s.cluAt c).resetting)
    .next (if (l.st = .saving ∨ l.st = .stopping) ∧ s.late l then open_.foldl (fun t c => t.loseCluster c) s else s)
  | none => .next s

/-- LAUNCH_RESUME (R351): on the clusters it was saved from, while they carry its resident set. -/
def execLaunchResume (lid : Nat) (s : State) : Out :=
  match s.launch (BitVec.ofNat 64 lid) with
  | some l =>
    if l.st = .saved ∧ s.plug.step = 6 ∧ l.saved.all (fun c => s.cluFree c.cl && (s.cluAt c.cl).rsid == c.clu.rsid) ∧
       s.budgetOk l l.clusters.length ∧ l.clusters.length + s.keptFor l.part l.tier ≤ s.idle l.part
    then .next ((l.saved.foldl (fun t c => t.restoreCluster l c) s).updLaunch l.lid (fun l => { l with st := .running, saved := [], acct := s.cyc.toNat }))
    else .next s
  | none => .next s

/-! ## Completion (R345 to R347) -/

/-- Whether a core's share of a launch is complete (R345). -/
def State.shareDone (s : State) (l : Launch) (cid : Nat) : Bool :=
  let k := s.coreAt cid
  (List.range 4).all (fun i => let c := s.ctxAt (4 * cid + i); !c.busy && c.copies.all (fun e => !e.2.orphan) && c.reds.all (fun e => !e.2.orphan)) &&
  k.actors.all (fun e => !e.2.en) && k.spawnFifo.isEmpty && k.equeue.isEmpty &&
  k.actors.all (fun e => e.2.used.all (fun f => decide (f.1 < 4) || f.2.bind != 2 || (k.rings.get {} f.2.ring).occ == 0)) &&
  (s.cluAt (cid / 16)).tasks.all (fun t => t.lid != l.lid || t.g / 4 != cid || !t.open_) &&
  (s.cluAt (cid / 16)).returned.all (fun p => p.from_ / 4 != cid) &&
  !s.net.any (fun m => m.lid == l.lid && m.g / 4 == cid) &&
  -- a group that its contexts own is open or committing (R407)
  s.groups.all (fun e => e.2.lid != l.lid || e.2.g / 4 != cid || (e.2.st != .opened && e.2.st != .committing))

/-- SHARE_COMPLETE (R345). -/
def execShareComplete (lid cid : Nat) (s : State) : Out :=
  match s.launch (BitVec.ofNat 64 lid) with
  | some l =>
    if l.st = .running ∧ l.cids.contains cid ∧ !l.shares.contains cid ∧ s.shareDone l cid then
      .next (s.updLaunch l.lid (fun l => { l with shares := l.shares ++ [cid] }))
    else .next s
  | none => .next s

/-- The 32 bytes of the completion record of a complete launch (R347). -/
def recordBytes (l : Launch) : List Byte :=
  leBytes 8 l.lid.toNat ++ leBytes 8 l.tag.toNat ++ leBytes 8 l.ended ++
  [BitVec.ofNat 8 l.status, BitVec.ofNat 8 l.missed.toNat, BitVec.ofNat 8 l.cause, BitVec.ofNat 8 l.kind] ++ leBytes 4 l.cid

/-- Writes the completion record of a complete launch, frees its entry slot and raises the MSI-X, when its ring has room (R345, R336). While the
record's line is locked for a group, the store waits (R402). -/
def State.complete (s : State) (l : Launch) : State :=
  let q := lidQueue l.lid
  let k := s.queue q
  let n := 2 ^ (fld k.ring 55 52 + 4)
  let a := fld k.ring 41 0 + 32 * (k.tail.toNat % n)
  if n ≤ (k.tail - k.head).toNat ∨ s.lineLocked s.pkgNo a 32 then s
  else
    let t := s.store 0 a (recordBytes l)
    ({ t.updQueue q (fun k => { k with tail := k.tail + 1 }) with
      launches := t.launches.filter (fun x => x.lid != l.lid), blocks := t.blocks.filter (· != l.lid) } : State).irq q

/-- A running launch whose every share is complete ends, and its clusters are free (R345); a fabric store that failed after its firing ended
makes the status FAULT with cause FAB (R378). -/
def State.conclude (s : State) (l : Launch) : State :=
  let t := (s.account l.lid).release l
  let t := match s.lateFab.find? (fun e => e.1 == l.lid) with
    | some f => t.updLaunch l.lid (fun l => { l with status := 1, cause := Cause.fab.code.toNat, cid := f.2.2 })
    | none => t
  ({ t with lateFab := t.lateFab.filter (fun e => e.1 != l.lid) } : State).finish l.lid 0

/-- COMPLETION_RECORD (R345, R347): of a complete launch; a running one is complete with its last share. While the ring is full the record
waits. -/
def execCompletionRecord (lid : Nat) (s : State) : Out :=
  match s.launch (BitVec.ofNat 64 lid) with
  | some l =>
    match l.st with
    | .done => .next (s.complete l)
    | .running =>
      if l.cids.all (fun c => l.shares.contains c && s.shareDone l c) then
        let t := s.conclude l
        .next (match t.launch l.lid with | some d => t.complete d | none => t)
      else .next s
    | _ => .next s
  | none => .next s

/-! ## The ramp limiter (R352) -/

/-- RAMP_WINDOW (R352): the window's use follows what was issued within ±Δ of the last window's; `used` is in slots of 1,200. -/
def execRampWindow (die used : Nat) (s : State) : Out :=
  let d := s.plug.options.get 4 1 * 1200 / 64
  .next (s.updDie die (fun x => { x with ramp := max (x.ramp - d) (min used (min 1200 (x.ramp + d))) }))

/-! ## LQPUT and CANCEL (R353, R354) -/

/-- The partition of the current context's launch. -/
def State.myPart (s : State) : Nat := (s.partOf.find s.me.pid.toNat).getD 0

/-- LQPUT (R353): after the lock check and the earlier stores the entry is read in one raw read, then sent, then the reply awaited. A fault of the
read names the address of the entry. -/
def execLqput (o : Ops) (s : State) : Out := s.settle (
  let c := s.capAt o.b
  let a := c.cur
  let send (bs : List Byte) (s : State) : Ex State :=
    .error (.wait 6 0 ((s.send s.cur (.entry (fld (s.lo o.a) 7 0) bs)).setPhase (.sent s.nextId)))
  match s.me.phase with
  | .done x =>
    match x.fault with
    | some f => .error (.trap f.cause (if f.cause = .lock then f.val else a))
    | none => if x.bytes.isEmpty then .ok (s.putQ o.d x.data) else send x.bytes s
  | .sent _ => .error (.wait 6 0 s)
  | _ => do
    check88 s [dst o.d, src o.a o.epa, src o.b o.epb 2]
    numTag s o.a.toNat
    capTag s o.b
    capPerm s c a [pRD]
    capSpace c a [0, 1, 2]
    capBound c a 64
    check (a.toNat % 64 == 0) .align a
    let own := s.isOwn c.spc a
    let off := a.toNat % 2 ^ 19
    match (if own then s.myCore.lockedAt off 64 else none) with
    | some x => .error (.trap .lock (asAddr a off x))
    | none => .ok ()
    settleStores s true
    if own then
      match ownCheck s a 64 false with
      | .ok () => send (ownRead s a 64) s
      | .error (.trap k v) => .error (.trap k (if k = .lock then v else a))
      | .error e => .error e
    else .error (.wait 6 0 ((s.issueLoad .load c.spc [{ part := 0, va := a, n := 64 }] [] (.answer 64)).setPhase (.sent s.nextId))))

/-- LQPUT_ENTRY_ARRIVAL (R353); the entry of a fenced core does not leave it (R58), the requests of one core arrive in the order sent (R257), and
the acceptance waits for a locked line that it reads (R402). -/
def execLqputEntryArrival (id : Nat) (s : State) : Out :=
  match s.msg id with
  | some m =>
    match m.body with
    | .entry q bs =>
      if (s.coreAt (m.g / 4)).fenced || s.behindOrder m || s.entryLocked bs then .next s else
      let (st, lid, t) := s.enqueue q bs (some (m.pid, (s.partOf.find m.pid).getD 0))
      .next ((t.gone id).reply m.g m.fire id { data := BitVec.ofNat 128 (lid.toNat + st * 2 ^ 64) })
    | _ => .next s
  | none => .next s

/-- CANCEL (R354): the request goes to the command processor, which applies it before its next dispatch decision (R337). -/
def execCancel (o : Ops) (s : State) : Out := s.settle (rpc s 6 0 (do
  check88 s [dst o.d, src o.b o.epb]
  numTag s o.b.toNat
  .ok (s.send s.cur (.cancel (s.lo o.b) s.myPart))) (fun a => .ok (s.putQ o.d a.data)))

end Sys2Proof.Machine
end

