-- ==== Sys2Proof/Machine/Trust.lean ====
section
/-! DEFINITION. Trust.lean: Plug and Feather (R355 to R363), the watchdogs, liveness, spares and degraded operation (R364 to R368). -/

namespace Sys2Proof

/-! ## Images in the boot flash (R355, R356) -/

/-- The fields of an image's header (R355). -/
def Image.num (i : Image) (off n : Nat) : Nat := Machine.recNat i.head off n
def Image.svn (i : Image) : Nat := i.num 8 8
def Image.digest (i : Image) : List Byte := (i.head.drop 24).take 32
def Image.key (i : Image) : List Byte := (i.head.drop 56).take 1312
def Image.sig (i : Image) : List Byte := (i.head.drop 1368).take 2420

/-- Whether an image of a type is accepted (R355, R356). -/
def Image.accepted (i : Image) (ty floor : Nat) : Bool :=
  i.head.length == 4096 && i.num 0 4 == 0x74001DB0 && i.num 4 1 == ty && i.num 5 3 == 0 && (i.head.drop 3788).all (· == 0) &&
  decide (i.num 16 8 ≤ 2 ^ 26) && i.payload.length == i.num 16 8 && Config.sha3 i.key == Config.romDigest &&
  Config.verify i.key (i.head.take 1368) i.sig && i.digest == Config.sha3 i.payload && decide (floor ≤ i.svn)

/-- The entries of a configuration record: KEY, whether [63:16] is zero, and VALUE (R358). -/
def Image.entries (i : Image) : List (Nat × Bool × Nat) :=
  (List.range (i.payload.length / 16)).map (fun k =>
    (Machine.recNat i.payload (16 * k) 2, Machine.recNat i.payload (16 * k + 2) 6 == 0, Machine.recNat i.payload (16 * k + 8) 8))

end Sys2Proof

namespace Sys2Proof.Machine

/-! ## Package reset and boot (R355 to R359) -/

/-- The package right after its reset, before boot: every unit at its reset value. The rollback floor stays (R356), with the cores that have
failed (R16) and what the management port has been told, and so does what lies outside the package: the memory of the peers. -/
def State.resetPackage (s : State) : State :=
  let out (x : Nat) : Bool := decide (2 ^ 50 ≤ x)
  { clusters := (s.clusters.filter (fun e => e.2.spareUsed || e.2.retired)).map (fun e => (e.1, { spareUsed := e.2.spareUsed, retired := e.2.retired }))
    mem := s.mem.filter (fun c => out c.1), tagged := s.tagged.filter (fun x => out (32 * x)), tagPoison := s.tagPoison.filter (fun x => out (32 * x))
    poison := s.poison.filter out, pkgNo := s.pkgNo, plug := { floor := s.plug.floor, told := s.plug.told }
    turns := s.turns, agenda := s.agenda, nextId := s.nextId, draws := s.draws }

/-- The seed of the device identity key (R359): SHA3-256 of the PUF response and a label. The response is 32 bytes (log 30). -/
def identitySeed : List Byte := Config.sha3 ((List.range 32).map Config.puf ++ ("IDVN-ID".toList.map (fun c => BitVec.ofNat 8 c.toNat)))
/-- The public identity key (R359). -/
def identityKey : List Byte := Config.publicKey identitySeed

/-- The options' defaults (R358). -/
def optionDefaults : Tab Nat := [(1, 4), (2, 2400), (3, 0xFF), (4, 2 ^ 32 - 1), (5, 100)]
/-- The module power cap in W (R358). -/
def State.powerCap (s : State) : Nat := s.plug.options.get 2400 2

/-- The range of a configuration option (R358); key 0 binds the record. -/
def optionOk (key value : Nat) : Bool :=
  match key with
  | 1 => decide (1 ≤ value ∧ value ≤ 16)
  | 2 => decide (600 ≤ value ∧ value ≤ 2400)
  | 3 => decide (value < 2 ^ 8)
  | 4 => decide (value < 2 ^ 32)
  | 5 => decide (20 ≤ value ∧ value ≤ 100)
  | _ => false

/-- Whether a configuration record is accepted (R358). -/
def recordAccepted (floor : Nat) (r : Image) : Bool :=
  r.accepted 4 floor && r.payload.length % 16 == 0 && r.entries.all (·.2.1) && (match r.entries with
    | (0, _, v) :: rest => (v == 0 || v == leVal ((Config.sha3 identityKey).take 8)) && rest.all (fun e => optionOk e.1 e.2.2)
    | _ => false)

/-- The management port is told something (R357). -/
def State.tell_ (s : State) (r : Report) : State := { s with plug := { s.plug with told := s.plug.told ++ [r] } }

/-- Boot stops at a step with a cause code, which the management port is told (R357); the codes are the model's (log 27). -/
def State.bootStop (s : State) (step cause : Nat) : State :=
  ({ s with plug := { s.plug with step := step, cause := cause } } : State).tell_ (.boot step cause)

/-- Whether a window is well formed by itself (R361). -/
def windowShape (e : Nat × Quad) : Bool := decide (e.1 < 256) && bitAt e.2 0 && fld e.2 15 1 == 0 && fld e.2 127 82 == 0

/-- Boot step 2 (R358, R359): the identity key is derived, and the configuration records are accepted or rejected. -/
def State.bootRecords (s : State) (f : FlashImage) (floor : Nat) : State :=
  let recs := f.records.filter (recordAccepted floor)
  let opts := recs.foldl (fun (t : Tab Nat) r => (r.entries.drop 1).foldl (fun (t : Tab Nat) e => t.put e.1 e.2.2) t) optionDefaults
  let bad := (List.range f.records.length).filter (fun i => !recordAccepted floor (f.records.getD i {}))
  { s with plug := { s.plug with
    floor := floor, options := opts, records := recs.flatMap (·.payload), key := Config.privateKey identitySeed, cert := f.cert
    told := s.plug.told ++ bad.map Report.record } }

/-- Boot steps 5 and 6 (R357): the windows, the level-0 tables and the root DCB are set up, and Feather and the loader run. -/
def State.bootSetup (s : State) (f : FlashImage) : State :=
  let t := s.store 0 f.root f.rootDcb
  let tab (l : List (Nat × Nat)) : Tab Nat := l.foldl (fun (t : Tab Nat) e => t.put e.1 e.2) []
  { t with
    pkgNo := f.pkg
    windows := f.windows.foldl (fun (t : Tab Quad) e => t.put e.1 e.2) []
    levelZero := tab f.tables
    partOf := tab f.owners
    plug := { t.plug with
      step := 6, root := f.root, digests := [f.plug.digest, f.feather.digest, f.loader.digest], feather := true, fed := s.cyc.toNat } }

/-- Whether the root DCB can be used: it is a root, and a clear override bit is refused (R330). -/
def rootOk (f : FlashImage) : Bool :=
  let hdr := recNat f.rootDcb 0 8
  hdr % 4 == 0 && hdr / 4 % 256 == 255 && f.rootDcb.length == 128 && f.root % 64 == 0

/-- The boot step that fails, with its cause code, or none (R357). -/
def bootFails (floor : Nat) (f : FlashImage) : Option (Nat × Nat) :=
  if !f.plug.accepted 1 floor then some (1, 1)
  else if !f.feather.accepted 2 (max floor f.plug.svn) || !f.loader.accepted 3 (max floor f.plug.svn) then some (3, 1)
  else if !f.trained then some (4, 1)
  else if !rootOk f then some (5, 1)
  else if !f.windows.all windowShape then some (5, 2)
  else none

/-- The boot sequence of R357 on a package in reset; the spare of a cluster with a core that failed its manufacturing test stands in from the
start (R16). -/
def State.boot (s : State) (f : FlashImage) : State :=
  let s := f.spared.foldl (fun (t : State) cl => t.updClu cl (fun u => { u with spareUsed := true })) s
  match bootFails s.plug.floor f with
  | some (1, c) => s.bootStop 1 c
  | some (n, c) => (s.bootRecords f (max s.plug.floor f.plug.svn)).bootStop n c
  | none => (s.bootRecords f (max s.plug.floor f.plug.svn)).bootSetup f

/-- PACKAGE_RESET (R357). -/
def execPackageReset (flash : FlashImage) (s : State) : Out := .next (s.resetPackage.boot flash)

/-- PLUG_WATCHDOG_EXPIRY (R364): the hardware watchdog resets the package, which waits for its boot; the management port is told. -/
def execPlugWatchdogExpiry (s : State) : Out := .next (s.resetPackage.tell_ .watchdog)

/-! ## Attestation (R360) -/

/-- The bytes 0 to 255 of a report. -/
def State.reportHead (s : State) (nonce : List Byte) : List Byte :=
  let d (i : Nat) : List Byte := fitBytes 32 (s.plug.digests.getD i [])
  leBytes 4 0x7400A77E ++ leBytes 4 1 ++ fitBytes 32 nonce ++ d 0 ++ d 1 ++ d 2 ++ fitBytes 32 (Config.sha3 s.plug.records) ++
  fitBytes 32 (Config.sha3 ((List.range 256).flatMap (fun i => leBytes 16 (s.windows.get 0 i).toNat))) ++
  fitBytes 32 (Config.sha3 identityKey) ++ leBytes 8 s.plug.floor ++ leBytes 8 s.cyc.toNat ++ leBytes 8 s.plug.health.toNat

/-- ATTESTATION_REQUEST (R360): a report of 2,676 bytes. -/
def execAttestationRequest (nonce : List Byte) (s : State) : Out :=
  if s.plug.step < 6 then .next s
  else
    let h := s.reportHead nonce
    .next { s with plug := { s.plug with reports := s.plug.reports ++ [h ++ fitBytes 2420 (Config.sign s.plug.key h)] } }

/-! ## Partitions (R333, R340, R361) -/

/-- Whether clusters may be given to a partition: at least four, none of another partition or retired (R340, R368). -/
def State.clustersOk (s : State) (part : Nat) (cs : List Nat) : Bool :=
  decide (4 ≤ cs.length) && cs.eraseDups.length == cs.length && cs.all (fun c => decide (c < 128) && !(s.cluAt c).retired) &&
  s.plug.parts.all (fun p => p.1 == part || !p.2.clusters.any cs.contains)

/-- Whether a window may be programmed for a partition (R361): well formed, its place free, and apart from the windows of others. -/
def State.windowOk (s : State) (part : Nat) (e : Nat × Quad) : Bool :=
  let w := e.2
  windowShape e && !(bitAt (s.windows.get 0 e.1) 0) && fld w 75 68 == part &&
  decide (fld w 41 16 < fld w 67 42) &&
  s.windows.all (fun x => !bitAt x.2 0 || fld x.2 75 68 == part || fld x.2 75 68 == 0xFF ||
    decide (fld x.2 67 42 ≤ fld w 41 16 ∨ fld w 67 42 ≤ fld x.2 41 16))

/-- The 128 bytes of a kind-1 DCB (R330, R333): it overrides PID and SAVE. -/
def partitionDcb (part root pid save n : Nat) : List Byte :=
  leBytes 8 (1 + (2 ^ 5 + 2 ^ 6) * 4 + part * 2 ^ 10) ++ leBytes 8 root ++ leBytes 8 0 ++ leBytes 8 0 ++ leBytes 8 pid ++ leBytes 8 0 ++
  leBytes 8 save ++ leBytes 8 0 ++ leBytes 8 0 ++ leBytes 8 n ++ List.replicate 48 0

/-- The clusters that leave a partition give up their resident sets (R344). -/
def State.giveUp (s : State) (cs : List Nat) : State :=
  (cs.filter (fun c => (s.cluAt c).rsid != 0)).foldl (fun t c => t.takeSet c 0 0) s

/-- A partition request as Plug decides it: none when it is refused (R333). -/
def State.partition (s : State) : PartReq → Option State
  | .create part dcb cs ws pid table save =>
    if 0xFD < part ∨ (s.plug.parts.find part).isSome ∨ !s.clustersOk part cs ∨ !ws.all (s.windowOk part) ∨ pid = 0 ∨ 4096 ≤ pid ∨
       (s.partOf.find pid).isSome ∨ dcb % 64 ≠ 0 ∨ 2 ^ 42 ≤ dcb ∨ table % 8192 ≠ 0 ∨ 2 ^ 42 ≤ table then none
    else
      let t := s.store 0 dcb (partitionDcb part s.plug.root pid save cs.length)
      some { t with
        windows := ws.foldl (fun (t : Tab Quad) e => t.put e.1 e.2) t.windows
        levelZero := t.levelZero.put pid table
        partOf := t.partOf.put pid part
        plug := { t.plug with
          parts := t.plug.parts.put part { dcb := dcb, clusters := cs }
          byFeather := t.plug.byFeather.filter (fun x => decide (x < dcb ∨ dcb + 128 ≤ x)) } }
  | .resize part cs =>
    match s.plug.parts.find part with
    | some p =>
      let gone := p.clusters.filter (fun c => !cs.contains c)
      if !s.clustersOk part cs ∨ gone.any (fun c => !s.cluFree c || s.savedOn c) then none
      else
        let t := (s.giveUp gone).store 0 (p.dcb + 72) (leBytes 8 cs.length)
        some { t with plug := { t.plug with parts := t.plug.parts.put part { p with clusters := cs } } }
    | none => none
  | .remove part =>
    if (s.plug.parts.find part).isNone ∨ s.launches.any (fun l => l.part == part) then none
    else
      let mine (pid : Nat) : Bool := s.partOf.find pid == some part
      some { s.giveUp ((s.plug.parts.find part).map (·.clusters) |>.getD []) with
        windows := s.windows.filter (fun w => fld w.2 75 68 != part)
        levelZero := s.levelZero.filter (fun e => !mine e.1)
        partOf := s.partOf.filter (fun e => e.2 != part)
        pages := s.pages.filter (fun e => e.2 != BitVec.ofNat 64 part)
        peerPages := s.peerPages.filter (fun e => !mine e.1.2.1)
        plug := { s.plug with parts := s.plug.parts.drop part } }

/-- Whether Plug would write to a line that is locked for a group (R402): the DCB of a new partition, or the NCLUP of one. -/
def State.partLocked (s : State) : PartReq → Bool
  | .create _ dcb .. => s.lineLocked s.pkgNo dcb 128
  | .resize part _ => (s.plug.parts.find part).any (fun p => s.lineLocked s.pkgNo (p.dcb + 72) 8)
  | .remove _ => false

/-- PARTITION_REQUEST (R333, R366): Plug decides the request and answers; while Feather restarts, only the management port's are served. It
waits for a locked line that it writes (R402). -/
def execPartitionRequest (mgmt : Bool) (req : PartReq) (s : State) : Out :=
  if s.plug.step < 6 ∨ (!mgmt ∧ !s.plug.feather) ∨ s.partLocked req then .next s
  else
    let t := (s.partition req).getD s
    .next { t with plug := { t.plug with answers := t.plug.answers ++ [(s.partition req).isSome] } }

/-- Whether the firewall admits an access (R362): agent 0 is an application core, 1 a root-port device, 2 a command core. -/
def State.firewallAdmits (s : State) (agent : Nat) (addr n part : Nat) (wr : Bool) : Bool :=
  s.windows.any (fun w =>
    bitAt w.2 0 && decide (fld w.2 41 16 * 0x10000 ≤ addr ∧ addr + n ≤ fld w.2 67 42 * 0x10000) &&
    bitAt w.2 (76 + 2 * (agent % 3) + wr.toNat) &&
    (fld w.2 75 68 == 0xFF || fld w.2 75 68 == (if agent = 2 then 0xFE else part)))

/-- FIREWALL_REFUSAL (R362): the agent, the address and the count are latched. -/
def execFirewallRefusal (agent : Nat) (addr : Word) (n part : Nat) (wr : Bool) (s : State) : Out :=
  .next (if s.firewallAdmits agent addr.toNat n part wr then s else s.latch agent addr)

/-- Whether an address holds the DCB of a job or a launch: KIND is 2 or 3, and its parent chain reaches a partition and the root that Plug has
written (R330, R333). -/
def State.isDcb (s : State) (a : Nat) : Bool :=
  let c := s.dcbChain a
  a % 64 == 0 && ((c.map s.dcbKind == [3, 2, 1, 0] && s.ofPlug (c.drop 2)) ||
    ((c.take 3).map s.dcbKind == [2, 1, 0] && s.ofPlug ((c.take 3).drop 1)))

/-- Whether Feather may write a byte (R333): of the DCBs of kinds 0 and 1 BUDGET alone; of the DCBs of kinds 2 and 3, named by a launch or not,
all but PID, SAVE and NCLUP, and no KIND of 0 or 1. `t` is the state with all that it stores. -/
def State.feathers (s t : State) (x : Nat) : Bool :=
  let at_ (a lo hi : Nat) : Bool := decide (a + lo ≤ x ∧ x < a + hi)
  (s.plug.root :: s.plug.parts.map (·.2.dcb)).all (fun a => !at_ a 0 128 || at_ a 16 24) &&
  [x / 64 * 64, x / 64 * 64 - 64].all (fun a =>
    !((s.isDcb a || t.isDcb a) && (at_ a 32 34 || at_ a 48 56 || at_ a 72 80)) &&
    !(s.isDcb a && at_ a 0 1 && decide (t.dcbKind a < 2)))

/-- The bytes of a store of Feather at which a DCB would hold PID or SAVE. -/
def plugBytes (a n : Nat) : List Nat := ((List.range n).map (a + ·)).filter (fun x =>
  decide (32 ≤ x % 64 ∧ x % 64 < 34) || decide (48 ≤ x % 64 ∧ x % 64 < 56))

/-- Whether an agent acts at all: after boot, a device at an enabled root port (R358), a command core while Feather runs (R366). -/
def State.agentUp (s : State) (agent port : Nat) : Bool :=
  s.plug.step == 6 &&
  (match agent with | 0 => true | 1 => decide (port < 8) && (s.plug.options.get 0xFF 3).testBit port | 2 => s.plug.feather | _ => false)

/-- An access of an agent to package DRAM (R329, R362, R289): an admitted one is performed, waiting while a line of it is locked; a refused one
writes nothing, is latched, and ends as its agent's accesses do. -/
def State.agentDo (s : State) (agent port part : Nat) (addr : Word) (n : Nat) (wr : Bool) (act : State → State) : State :=
  let to_ : Asker := .agent agent part
  if !s.agentUp agent port then s
  else if !s.firewallAdmits agent addr.toNat n part wr then
    (s.latch agent addr).answer to_ (match agent with
      | 0 => .accessFault
      | 1 => .unsupported
      | _ => .data (if wr then [] else List.replicate n 0))
  else if s.lineLocked s.pkgNo addr.toNat n then s
  else if (if wr then s.partPoison addr.toNat n else s.poisonedAt addr.toNat n).isSome then s.answer to_ (.fault .pois)
  else act s

/-- A register of a queue's control page as an 8-byte load reads it (R335); none at an offset where the page has no register. -/
def Queue.reg (k : Queue) : Nat → Option Word
  | 0x00 => some k.cfg
  | 0x08 => some k.ring
  | 0x10 => some k.door
  | 0x18 => some (BitVec.ofNat 64 (k.last % 256))
  | 0x20 => some k.lid
  | 0x28 => some (k.tail.setWidth 64)
  | 0x30 => some (k.head.setWidth 64)
  | 0x38 => some k.miss
  | 0x40 => some k.can
  | 0x48 => some (BitVec.ofNat 64 (k.cres % 256))
  | _ => none

/-- The partition of a launch that spans packages is admitted to pages of this package, with PR and PW (R409, R361): pages that placement has
given out inside the windows of that partition, by a window of its own. -/
def State.admitPeers (s : State) (part first last : Nat) : State :=
  match (List.range 256).find? (fun i => !bitAt (s.windows.get 0 i) 0) with
  | some i =>
    if first < last ∧ last < 2 ^ 26 ∧ (s.partWindows part).any (fun w => decide (w.1 ≤ first ∧ last ≤ w.2)) ∧
       (List.range (last - first)).all (fun k => s.pages.contains (first + k, BitVec.ofNat 64 part))
    then { s with windows := s.windows.put i (BitVec.ofNat 128 (1 + first * 2 ^ 16 + last * 2 ^ 42 + part * 2 ^ 68 + 2 ^ 78 + 2 ^ 79)) }
    else s
  | none => s

/-- What an agent of the application die or a command core does (R329, R335, R362, R366), and what this package learns of the other packages of
a launch (R332, R409): a launch that is to wait for their images says so before its own are written (log 26). An 8-byte load where a control page
has no register reads a free value (log 45). A signal of Feather that comes after the interval does not undo the reset (R366). -/
def State.agentTurn (s : State) : AgentReq → State
  | .read agent port part addr n =>
    s.agentDo agent port part addr n false (fun s => s.answer (.agent agent part) (.data (s.bytesAt addr.toNat n)))
  | .write agent port part addr bs =>
    s.agentDo agent port part addr bs.length true (fun s =>
      let old := s.bytesAt addr.toNat bs.length
      let put (b : List Byte) : State := (s.unpoison addr.toNat bs.length).store (BitVec.allOnes 64) addr.toNat b
      let new := (List.range bs.length).map (fun i =>
        if agent = 2 ∧ !s.feathers (put bs) (addr.toNat + i) then old.getD i 0 else bs.getD i 0)
      let t := put new
      let t : State := if agent = 2 then
          { t with plug := { t.plug with byFeather := ((plugBytes addr.toNat bs.length).filter (s.feathers (put bs))).foldl (fun l x => insertNat x l) t.plug.byFeather } }
        else t
      t.answer (.agent agent part) (.data []))
  | .page queue off part =>
    if s.plug.step < 6 ∨ 256 ≤ queue then s
    else match (s.queue queue).reg off with
      | some v => s.answer (.agent 0 part) (.data (leBytes 8 v.toNat))
      | none => let (d, t) := s.draw; t.answer (.agent 0 part) (.data (leBytes 8 d))
  | .placed pkg pid vpn ppn =>
    if pkg = s.pkgNo then s
    else { s with peerPages := s.peerPages.filter (·.1 != (pkg, pid, vpn)) ++ [((pkg, pid, vpn), ppn % 2 ^ 26)] }
  | .aperture part first last => s.admitPeers part first last
  | .block lid =>
    if s.launches.any (fun l => l.lid == lid && (l.st == .pending || l.st == .placing)) then { s with blocks := s.blocks ++ [lid] } else s
  | .written lid => { s with blocks := s.blocks.filter (· != lid) }
  | .signal => if s.plug.feather ∧ s.cyc.toNat ≤ s.plug.fed + s.plug.options.get 100 5 * 1200000 then { s with plug := { s.plug with fed := s.cyc.toNat } } else s

/-! ## Liveness and watchdogs (R365, R366) -/

/-- LIVENESS_BEAT (R365); one that comes when four are missing does not undo the failure. -/
def execLivenessBeat (cl : Nat) (s : State) : Out :=
  .next (if (s.cluAt cl).beat + 4 * 24000 < s.cyc.toNat then s else s.updClu cl (fun u => { u with beat := s.cyc.toNat }))

/-- CLUSTER_FAILED (R365): four beats of 24,000 clk are missing, or the unit reports an uncorrectable error in its own state. -/
def execClusterFailed (cl : Nat) (own : Bool) (s : State) : Out :=
  let u := s.cluAt cl
  if u.failed || u.retired || !(own || decide (u.beat + 4 * 24000 < s.cyc.toNat)) then .next s else .next (s.loseCluster cl)

/-- FEATHER_WATCHDOG_EXPIRY (R366, R358): Feather has given no signal for FWD ms; the command cores are reset, and the hardware's work goes
on. -/
def execFeatherWatchdogExpiry (s : State) : Out :=
  .next (if s.plug.feather ∧ s.plug.fed + s.plug.options.get 100 5 * 1200000 < s.cyc.toNat then { s with plug := { s.plug with feather := false } } else s)

/-- FEATHER_RESTART_COMPLETE (R366): of a restart that is under way. -/
def execFeatherRestartComplete (s : State) : Out :=
  .next (if s.plug.step = 6 ∧ !s.plug.feather then { s with plug := { s.plug with feather := true, fed := s.cyc.toNat } } else s)

/-! ## Spares (R16, R364, R367, R368) -/

/-- HEALTH with REPL set (R367). -/
def Plug.replace (p : Plug) : Plug := { p with health := p.health ||| 1 }

/-- LINK_REPLAY (R364, R367): a replay has no visible effect. A die-to-die link spares a lane while its two spares last. Links 0 to 31 are
the fabric ports (log 34), which have no spare: a port falls to 2 lanes, then is disabled, and PDIS counts it. -/
def execLinkReplay (link : Nat) (lane : Bool) (s : State) : Out :=
  if !lane then .next s
  else
    let used := s.plug.lanes.get 0 link
    let p : Plug := { s.plug with lanes := s.plug.lanes.put link (used + 1) }
    if 32 ≤ link then .next { s with plug := if used < 2 then p else p.replace }
    else
      let h := p.health
      .next { s with plug := { p with health := (if used = 1 then setFld h 23 16 (fld h 23 16 + 1) else h) ||| 1 } }

/-- CORE_SPARE (R16): the cluster's spare takes the place and the index of a failed core, with its registers, its scratchpad and its firings
(log 46). -/
def execCoreSpare (cid : Nat) (s : State) : Out :=
  if (s.cluAt (cid / 16)).spareUsed then .next s else .next (s.updClu (cid / 16) (fun u => { u with spareUsed := true }))

/-- CLUSTER_RETIRE (R368): a second core of the cluster has failed. It waits while the NCLUP that it lowers is in a locked line (R402). -/
def execClusterRetire (cl : Nat) (s : State) : Out :=
  let u := s.cluAt cl
  if !u.spareUsed || u.retired || s.plug.parts.any (fun e => e.2.clusters.contains cl && s.lineLocked s.pkgNo (e.2.dcb + 72) 8) then .next s
  else
    let t := ((s.loseCluster cl).loseSaved cl true).updClu cl (fun u => { u with retired := true })
    let h := setFld t.plug.health 15 8 (fld t.plug.health 15 8 + 1)
    let t : State := { t with plug := { t.plug with health := h ||| 1 } }
    match t.plug.parts.find? (fun e => e.2.clusters.contains cl) with
    | some (part, p) =>
      let t := t.store 0 (p.dcb + 72) (leBytes 8 (t.numAt (p.dcb + 72) 8 - 1))
      .next { t with plug := { t.plug with parts := t.plug.parts.put part { p with clusters := p.clusters.filter (· != cl) } } }
    | none => .next t

/-- DRAM_PAGE_FAIL (R367): the 64 row spares of a page's bank and layer are used; Plug marks the page failed and reports it. PGFAIL
saturates. -/
def execDramPageFail (page : Nat) (s : State) : Out :=
  if s.plug.rows.get 0 (Config.dramBank page) < 64 ∨ s.plug.failedPages.contains page then .next s
  else
    let l := insertNat page s.plug.failedPages
    .next (({ s with plug := { s.plug with failedPages := l, health := setFld s.plug.health 31 24 (min 255 l.length) ||| 1 } } : State).tell_ (.page page))

/-- SLICE_CACHE_WAY_FAIL (R367): a way is retired onto one of four spares; then the slice bypasses its cache. -/
def execSliceCacheWayFail (slice : Nat) (s : State) : Out :=
  let used := s.plug.ways.get 0 slice
  let p : Plug := { s.plug with ways := s.plug.ways.put slice (used + 1) }
  .next { s with plug := if used < 4 then p else p.replace }

end Sys2Proof.Machine
end

