-- ==== Sys2Proof/Machine/Fin.lean ====
section
/-! DEFINITION. Fin.lean: the end of a firing (R56, R57, R76): FIN, and RET, which acts as FIN on an empty return stack. -/

namespace Sys2Proof.Machine

/-- The copy requests of the current context are joined at FIN: it waits for each, reports a failure, and releases the locks (R279). -/
def finCopies (s : State) : Ex State :=
  let held := s.me.copies.filter (fun e => e.2.held && !e.2.orphan)
  if held.any (fun e => e.2.doneAt.isNone) then .error (.wait 6 0 s)
  else match held.find? (fun e => e.2.fault.isSome) with
    | some e => copyJoin s e.1 e.2
    | none => .ok (held.foldl (fun t e => t.unlock e.2.key) s)

/-- The tile tasks of the current context are joined at FIN (R247). -/
def finTasks (s : State) : Ex State :=
  if s.myTasks.any Task.open_ then .error (.wait 6 0 s)
  else match s.joinTasks s.myTasks with
    | (t, some f) => .error (.report f.cause f.val t)
    | (t, none) => .ok t

/-- The reductions of the current context end at FIN with their statuses discarded (R392). -/
def finReductions (s : State) : Ex State :=
  let held := s.me.reds.filter (fun e => e.2.held && !e.2.orphan)
  if held.any (fun e => !e.2.landed) then .error (.wait 6 0 s) else .ok (held.foldl (fun t e => t.unlock e.2.key) s)

/-- The posted spatial operations of the current context are waited for at FIN, and a recorded HNDL is reported (R313). -/
def finSpatial (s : State) : Ex Unit :=
  if s.net.any (fun m => m.isPosted s.cur s.me.fire) then .error (.wait 6 0 s)
  else match s.me.spFail with
    | some (16, h) => .error (.report .hndl h (s.updMe (fun c => { c with spFail := none })))
    | _ => .ok ()

/-- What marks the phase of a context whose FIN has nothing left to report and stops the open queries. -/
def finMark : Nat := 2 ^ 44

/-- The open queries are closed at FIN as SQEND closes them: their owners are told to stop, and it waits until each has acknowledged (R318). -/
def finQueries (s : State) : Ex Unit :=
  let t := (s.stopQuery s.cur 0).stopQuery s.cur 1
  if t.stopping s.cur 0 || t.stopping s.cur 1 then .error (.wait 6 0 (t.setPhase (.part finMark 0))) else .ok ()

/-- A failure of the fabric that comes while FIN stops the queries goes to the launch's completion record: that FIN has issued before it (R378). -/
def State.finLate (s : State) : State :=
  match s.me.fabricRef with
  | some f => { s with lateFab := s.lateFab ++ [(s.me.lid, f.val, s.cur / 4 + s.cur % 4 * 2 ^ 11)] }
  | none => s

/-- A held stream is closed at FIN as SCLOSE closes it (R283). -/
def finStream (s : State) : Ex Unit :=
  match s.me.stream with
  | some x => do
    liveStream s x
    if s.streamBusy s.cur then .error (.wait 6 0 s) else .ok ()
  | none => .ok ()

/-- The tokens of a firing that ends (R56): RATE tokens leave each used input and enter each used output. -/
def Core.moveTokens (k : Core) (a : Actor) : Core :=
  { k with rings := a.used.foldl (fun t e =>
      let r := t.get {} e.2.ring
      t.put e.2.ring (if e.1 < 4 then { r with occ := r.occ - e.2.rate, head := (r.head + min r.occ e.2.rate) % e.2.cap }
        else { r with occ := r.occ + e.2.rate })) k.rings }

/-- The actor whose firing a context of a core holds. -/
def Core.actorOf (k : Core) (i : Nat) : Option (Nat × Actor) := k.actors.find? (fun e => e.2.ctx == some i)

/-- The core after a firing of a context has ended: the tokens move, and the actor may fire again (R53, R56). -/
def Core.endFiring (k : Core) (i : Nat) : Core :=
  match k.actorOf i with
  | some (n, a) => { k.moveTokens a with actors := k.actors.put n { a with ctx := none } }
  | none => k

/-- What FIN waits for and reports before it does anything (R56, R378): the engine, the copies, the tasks, the reductions, the posted operations,
what is recorded, and the stream; one report an execution, each of a FIN that does not execute. -/
def finReports (s : State) : Ex Unit := do
  let _ ← rdv s false
  let _ ← finCopies s
  let _ ← finTasks s
  let _ ← finReductions s
  finSpatial s
  settleStores s true
  reportRefusals s false false true
  finStream s
  if s.loadsOut || s.gate || s.queueOut then .error (.stall s) else .ok ()

/-- FIN (R56): when nothing is left to wait for or to report, it stops the open queries, joins what has ended, and ends the firing. At system
level with ABT = 1 the firing is abandoned (R76). -/
def finish (s : State) : Ex State :=
  if s.me.level = .system ∧ bitAt s.me.tsav 5 then .error (.over (s.abandon s.cur 2 (fld s.me.tcause 7 0)))
  else do
    if s.me.phase = .part finMark 0 then .ok () else finReports s
    finQueries s
    let t ← rdv s false
    let t ← finCopies t
    let t ← finTasks t
    let t ← finReductions t
    .error (.over ((t.finLate.updMyCore (fun k => k.endFiring (t.cur % 4))).freeCtx t.cur))

/-- FIN (R56). -/
def execFin (s : State) : Out := s.settle (finish s)

/-- RET (R57, R68, R69). -/
def execRet (s : State) : Out := s.settle (do
  match ← pop s with
  | some (pc, t) => jump t pc
  | none => finish s)

end Sys2Proof.Machine
end

