-- ==== Sys2Proof/Machine/Integer.lean ====
section
/-! DEFINITION. Integer.lean: the scalar integer instructions (R106 to R109) and the short local loads and stores (R110). -/

namespace Sys2Proof.Machine

/-- 1 or 0. -/
def ofCond (b : Bool) : Word := if b then 1 else 0

/-- Signed division of R106 and R107 at width w. -/
def divS {w : Nat} (x y : BitVec w) : BitVec w := if y = 0 then BitVec.allOnes w else x.sdiv y
/-- Unsigned division (R107). -/
def divU {w : Nat} (x y : BitVec w) : BitVec w := if y = 0 then BitVec.allOnes w else x / y
/-- Signed remainder, with the sign of x (R106, R107). -/
def remS {w : Nat} (x y : BitVec w) : BitVec w := if y = 0 then x else x.srem y
/-- Unsigned remainder (R107). -/
def remU {w : Nat} (x y : BitVec w) : BitVec w := if y = 0 then x else x % y

/-- Bits [127:64] of the signed product (R106). -/
def mulHigh (x y : Word) : Word := BitVec.ofInt 64 ((x.toInt * y.toInt) / 2 ^ 64)
/-- Bits [127:64] of the unsigned product (R106). -/
def mulHighU (x y : Word) : Word := BitVec.ofNat 64 ((x.toNat * y.toNat) / 2 ^ 64)

/-- Number of 1 bits among the low n. -/
def popCount {w : Nat} (x : BitVec w) : Nat → Nat
  | 0 => 0
  | n + 1 => (if x.getLsbD n then 1 else 0) + popCount x n

/-- Leading zeros of the low n bits. -/
def leadZeros {w : Nat} (x : BitVec w) : Nat → Nat
  | 0 => 0
  | n + 1 => if x.getLsbD n then 0 else 1 + leadZeros x n

/-- The index of the lowest 1 bit at or above i, or i + k when there is none among k bits. -/
def lowestOne {w : Nat} (x : BitVec w) : Nat → Nat → Nat
  | 0, i => i
  | k + 1, i => if x.getLsbD i then i else lowestOne x k (i + 1)

/-- ADD (R106). -/
def execAdd (o : Ops) (s : State) : Out := s.settle (alu2 o s (· + ·))
/-- SUB (R106). -/
def execSub (o : Ops) (s : State) : Out := s.settle (alu2 o s (· - ·))
/-- AND (R106). -/
def execAndR (o : Ops) (s : State) : Out := s.settle (alu2 o s (· &&& ·))
/-- OR (R106). -/
def execOrR (o : Ops) (s : State) : Out := s.settle (alu2 o s (· ||| ·))
/-- XOR (R106). -/
def execXorR (o : Ops) (s : State) : Out := s.settle (alu2 o s (· ^^^ ·))
/-- SHL by y[5:0] (R106). -/
def execShl (o : Ops) (s : State) : Out := s.settle (alu2 o s (fun x y => x <<< fld y 5 0))
/-- SHR by y[5:0] (R106). -/
def execShr (o : Ops) (s : State) : Out := s.settle (alu2 o s (fun x y => x >>> fld y 5 0))
/-- SRA by y[5:0] (R106). -/
def execSra (o : Ops) (s : State) : Out := s.settle (alu2 o s (fun x y => x.sshiftRight (fld y 5 0)))
/-- MUL (R106). -/
def execMul (o : Ops) (s : State) : Out := s.settle (alu2 o s (· * ·))
/-- MULH (R106). -/
def execMulh (o : Ops) (s : State) : Out := s.settle (alu2 o s mulHigh)
/-- MULHU (R106). -/
def execMulhu (o : Ops) (s : State) : Out := s.settle (alu2 o s mulHighU)
/-- DIV (R106, R107). -/
def execDiv (o : Ops) (s : State) : Out := s.settle (alu2 o s divS)
/-- DIVU (R106, R107). -/
def execDivu (o : Ops) (s : State) : Out := s.settle (alu2 o s divU)
/-- REM (R106, R107). -/
def execRem (o : Ops) (s : State) : Out := s.settle (alu2 o s remS)
/-- REMU (R106, R107). -/
def execRemu (o : Ops) (s : State) : Out := s.settle (alu2 o s remU)
/-- SEQ (R106). -/
def execSeq (o : Ops) (s : State) : Out := s.settle (alu2 o s (fun x y => ofCond (x == y)))
/-- SLT (R106). -/
def execSlt (o : Ops) (s : State) : Out := s.settle (alu2 o s (fun x y => ofCond (x.slt y)))
/-- SLTU (R106). -/
def execSltu (o : Ops) (s : State) : Out := s.settle (alu2 o s (fun x y => ofCond (x.ult y)))
/-- MIN (R106). -/
def execMinR (o : Ops) (s : State) : Out := s.settle (alu2 o s (fun x y => if x.slt y then x else y))
/-- MAX (R106). -/
def execMaxR (o : Ops) (s : State) : Out := s.settle (alu2 o s (fun x y => if x.slt y then y else x))
/-- MINU (R106). -/
def execMinu (o : Ops) (s : State) : Out := s.settle (alu2 o s (fun x y => if x.ult y then x else y))
/-- MAXU (R106). -/
def execMaxu (o : Ops) (s : State) : Out := s.settle (alu2 o s (fun x y => if x.ult y then y else x))
/-- CLZ (R106). -/
def execClz (o : Ops) (s : State) : Out := s.settle (alu1 o s (fun y => BitVec.ofNat 64 (leadZeros y 64)))
/-- POPC (R106). -/
def execPopc (o : Ops) (s : State) : Out := s.settle (alu1 o s (fun y => BitVec.ofNat 64 (popCount y 64)))

/-- SEL (R108): the old destination is the condition, and blocks on EMPTY whatever the policies say. -/
def execSel (o : Ops) (s : State) : Out := s.settle (do
  check88 s [srcC o.d, src o.a o.epa, src o.b o.epb]
  numTags s [o.d.toNat, o.a.toNat, o.b.toNat]
  .ok (s.put o.d (if s.lo o.d ≠ 0 then s.lo o.a else s.lo o.b)))

/-- ADDI (R109). -/
def execAddi (o : Ops) (s : State) : Out := s.settle (aluImm o s (· + ·))
/-- ANDI (R109). -/
def execAndi (o : Ops) (s : State) : Out := s.settle (aluImm o s (· &&& ·))
/-- ORI (R109). -/
def execOri (o : Ops) (s : State) : Out := s.settle (aluImm o s (· ||| ·))
/-- XORI (R109). -/
def execXori (o : Ops) (s : State) : Out := s.settle (aluImm o s (· ^^^ ·))
/-- SHLI by imm[5:0] (R109). -/
def execShli (o : Ops) (s : State) : Out := s.settle (aluImm o s (fun x y => x <<< fld y 5 0))
/-- SHRI by imm[5:0] (R109). -/
def execShri (o : Ops) (s : State) : Out := s.settle (aluImm o s (fun x y => x >>> fld y 5 0))
/-- SRAI by imm[5:0] (R109). -/
def execSrai (o : Ops) (s : State) : Out := s.settle (aluImm o s (fun x y => x.sshiftRight (fld y 5 0)))

/-- LDW (R110). -/
def execLdw (o : Ops) (s : State) : Out := s.settle (localLoad o s 4)
/-- LDD (R110). -/
def execLdd (o : Ops) (s : State) : Out := s.settle (localLoad o s 8)
/-- STW (R110). -/
def execStw (o : Ops) (s : State) : Out := s.settle (localStore o s 4)
/-- STD (R110). -/
def execStd (o : Ops) (s : State) : Out := s.settle (localStore o s 8)

end Sys2Proof.Machine
end

