-- ==== Sys2Proof/Machine/Vector.lean ====
section
/-! DEFINITION. Vector.lean: the page-1 arithmetic, movement and mask instructions (R111 to R120, R123). The vector memory
instructions are in Access.lean. -/

namespace Sys2Proof.Machine

/-- Step 3 of R113: the register that holds the lowest active lane of the ABN payload class among the source windows given; of two that hold the
same lane, the first of a, b and the destination (log 60). -/
def abnLane (s : State) (act : BitVec 16) (wins : List RegNo) (lanes : Nat) : Option Nat :=
  (List.range lanes).findSome? (fun i =>
    if bitAt act i then
      wins.findSome? (fun n => if isAbn (s.me.lane n.toNat i) then some (n.toNat + i / 4) else none)
    else none)

/-- The ABN check of F32 arithmetic. -/
def abnCheck (s : State) (f : Bool) (act : BitVec 16) (wins : List RegNo) (lanes : Nat) : Ex Unit :=
  match (if f then abnLane s act wins lanes else none) with
  | some n => .error (.trap .abn (BitVec.ofNat 64 n))
  | none => .ok ()

/-- The active lanes of an instruction: lane 0 alone in the scalar form, else the governing mask (R111, R112). -/
def active (s : State) (o : Ops) (sc : Bool) : BitVec 16 := if sc then 1 else s.gov o

/-- Writes the lanes of a result with the merge of R112; the scalar form writes bits [31:0] and zeros above (R111). -/
def putVec (s : State) (d : RegNo) (sc : Bool) (act : BitVec 16) (r : Nat → BitVec 32) : State :=
  if sc then s.putQ d ((r 0).setWidth 128)
  else s.putLanes d ((List.range 16).map (fun i => if bitAt act i then r i else s.me.lane d.toNat i))

/-- The flags that the active lanes raise (R113). -/
def laneFlags (act : BitVec 16) (r : Nat → Flags) : Flags :=
  (List.range 16).foldl (fun f i => if bitAt act i then f ||| r i else f) 0

/-- A lane-wise instruction of R115 and R116: sources b, a when `ua`, and the earlier destination when `ud`. -/
def lanewise (o : Ops) (s : State) (sc f ua ud : Bool) (op : BitVec 32 → BitVec 32 → BitVec 32 → BitVec 32 × Flags) :
    Ex State := do
  let n := if sc then 1 else 4
  check88 s ((if ud then srcC o.d n else dst o.d n) :: (if ua then [src o.a o.epa n] else []) ++ [src o.b o.epb n])
  if ua then numWin s o.a n
  numWin s o.b n
  if ud then numWin s o.d n
  let act := active s o sc
  abnCheck s f act ((if ua then [o.a] else []) ++ [o.b] ++ (if ud then [o.d] else [])) (if sc then 1 else 16)
  let r (i : Nat) : BitVec 32 × Flags := op (s.me.lane o.a.toNat i) (s.me.lane o.b.toNat i) (s.me.lane o.d.toNat i)
  .ok ((putVec s o.d sc act (fun i => (r i).1)).setFlags (laneFlags act (fun i => (r i).2)))

/-- The lane as an integer of its type (R114). -/
def laneInt (t : VTy) (x : BitVec 32) : Int := match t with | .i32 => x.toInt | _ => x.toNat
/-- The bounds of an integer lane type. -/
def laneLo : VTy → Int | .i32 => -(2 ^ 31) | _ => 0
def laneHi : VTy → Int | .i32 => 2 ^ 31 - 1 | _ => 2 ^ 32 - 1
/-- Whether the type is F32. -/
def isF (t : VTy) : Bool := t == .f32

/-- Integer results raise no flags. -/
def noFlags (x : BitVec 32) : BitVec 32 × Flags := (x, 0)

/-- VADD and VSUB lanes (R115). -/
def addLane (sub sat : Bool) (t : VTy) (rm : Nat) (a b : BitVec 32) : BitVec 32 × Flags :=
  if isF t then (if sub then f32Sub rm a b else f32Add rm a b)
  else
    let v := if sub then laneInt t a - laneInt t b else laneInt t a + laneInt t b
    noFlags (BitVec.ofInt 32 (if sat then satInt v (laneLo t) (laneHi t) else v))

/-- VMUL lanes (R115). -/
def mulLane (hi : Bool) (t : VTy) (rm : Nat) (a b : BitVec 32) : BitVec 32 × Flags :=
  if isF t then f32Mul rm a b
  else noFlags (BitVec.ofInt 32 (if hi then laneInt t a * laneInt t b / 2 ^ 32 else laneInt t a * laneInt t b))

/-- VMIN and VMAX lanes (R115). -/
def minMaxLane (max_ : Bool) (t : VTy) (a b : BitVec 32) : BitVec 32 × Flags :=
  if isF t then f32MinMax max_ a b
  else noFlags (if decide (laneInt t a < laneInt t b) != max_ then a else b)

/-- The rounding mode of the context. -/
def State.rm (s : State) : Nat := s.me.rm

/-- VADD (R114, R115). -/
def execVadd (sat sc : Bool) (t : VTy) (o : Ops) (s : State) : Out :=
  s.settle (lanewise o s sc (isF t) true false (fun a b _ => addLane false sat t s.rm a b))
/-- VSUB (R114, R115). -/
def execVsub (sat sc : Bool) (t : VTy) (o : Ops) (s : State) : Out :=
  s.settle (lanewise o s sc (isF t) true false (fun a b _ => addLane true sat t s.rm a b))
/-- VMUL (R114, R115). -/
def execVmul (hi sc : Bool) (t : VTy) (o : Ops) (s : State) : Out :=
  s.settle (lanewise o s sc (isF t) true false (fun a b _ => mulLane hi t s.rm a b))
/-- VFMA (R115): F32 rounds once. -/
def execVfma (neg sc : Bool) (t : VTy) (o : Ops) (s : State) : Out :=
  s.settle (lanewise o s sc (isF t) true true (fun a b d =>
    if isF t then f32Fma s.rm neg d a b else noFlags (if neg then d - a * b else d + a * b)))
/-- VMIN (R115). -/
def execVmin (sc : Bool) (t : VTy) (o : Ops) (s : State) : Out :=
  s.settle (lanewise o s sc (isF t) true false (fun a b _ => minMaxLane false t a b))
/-- VMAX (R115). -/
def execVmax (sc : Bool) (t : VTy) (o : Ops) (s : State) : Out :=
  s.settle (lanewise o s sc (isF t) true false (fun a b _ => minMaxLane true t a b))
/-- VAND (R114): bitwise on the lane bits of any type. -/
def execVand (sc : Bool) (_t : VTy) (o : Ops) (s : State) : Out :=
  s.settle (lanewise o s sc false true false (fun a b _ => noFlags (a &&& b)))
/-- VOR (R114). -/
def execVor (sc : Bool) (_t : VTy) (o : Ops) (s : State) : Out :=
  s.settle (lanewise o s sc false true false (fun a b _ => noFlags (a ||| b)))
/-- VXOR (R114). -/
def execVxor (sc : Bool) (_t : VTy) (o : Ops) (s : State) : Out :=
  s.settle (lanewise o s sc false true false (fun a b _ => noFlags (a ^^^ b)))
/-- VSHL by b[4:0] (R115). -/
def execVshl (sc : Bool) (_t : VTy) (o : Ops) (s : State) : Out :=
  s.settle (lanewise o s sc false true false (fun a b _ => noFlags (a <<< fld b 4 0)))
/-- VSHR by b[4:0] (R114): arithmetic on I32, logical on U32. -/
def execVshr (sc : Bool) (t : VTy) (o : Ops) (s : State) : Out :=
  s.settle (lanewise o s sc false true false (fun a b _ =>
    noFlags (if t = .i32 then a.sshiftRight (fld b 4 0) else a >>> fld b 4 0)))
/-- VABS (R115). -/
def execVabs (sc : Bool) (t : VTy) (o : Ops) (s : State) : Out :=
  s.settle (lanewise o s sc (isF t) false false (fun _ b _ =>
    noFlags (if isF t then b &&& 0x7FFFFFFF else if b.msb then 0 - b else b)))
/-- VNEG (R115): an F32 result that would fall in the ABN payload class is the canonical NaN, with NV. -/
def execVneg (sc : Bool) (t : VTy) (o : Ops) (s : State) : Out :=
  s.settle (lanewise o s sc (isF t) false false (fun _ b _ =>
    if isF t then (if isAbn (b ^^^ 0x80000000) then (0x7FC00000, fNV) else noFlags (b ^^^ 0x80000000)) else noFlags (0 - b)))

/-- VDIV (R116, R107 at 32 bits). -/
def execVdiv (rem sc : Bool) (t : VTy) (o : Ops) (s : State) : Out :=
  s.settle (lanewise o s sc (isF t) true false (fun a b _ => match t with
    | .f32 => f32Div s.rm a b
    | .i32 => noFlags (if rem then remS a b else divS a b)
    | .u32 => noFlags (if rem then remU a b else divU a b)))
/-- VSQRT (R116). -/
def execVsqrt (sc : Bool) (o : Ops) (s : State) : Out :=
  s.settle (lanewise o s sc true false false (fun _ b _ => f32Sqrt s.rm b))
/-- VEXP2 (R116). -/
def execVexp2 (sc : Bool) (o : Ops) (s : State) : Out :=
  s.settle (lanewise o s sc true false false (fun _ b _ => f32Exp2 s.rm b))

/-! ## Compare, select, reductions (R117 to R119) -/

/-- A relation of two lanes (R117). -/
def relLane (r : Rel) (t : VTy) (a b : BitVec 32) : Bool × Flags :=
  if isF t then f32Rel r a b
  else
    let x := laneInt t a
    let y := laneInt t b
    (match r with
      | .eq => x == y | .ne => x != y | .lt => decide (x < y) | .le => decide (x ≤ y) | .gt => decide (y < x) | .ge => decide (y ≤ x), 0)

/-- Sixteen bits as a mask. -/
def maskOf (f : Nat → Bool) : BitVec 16 :=
  (List.range 16).foldl (fun m i => if f i then m ||| (1 <<< i) else m) 0

/-- VCMP (R117): the mask is named by PX.REG.c. -/
def execVcmp (r : Rel) (sc : Bool) (t : VTy) (o : Ops) (s : State) : Out := s.settle (do
  let n := if sc then 1 else 4
  check88 s [src o.a o.epa n, src o.b o.epb n]
  numWin s o.a n
  numWin s o.b n
  let act := active s o sc
  abnCheck s (isF t) act [o.a, o.b] (if sc then 1 else 16)
  let v (i : Nat) : Bool × Flags := relLane r t (s.me.lane o.a.toNat i) (s.me.lane o.b.toNat i)
  .ok ((s.updMe (fun c => c.setMask o.c.toNat (maskOf (fun i => bitAt act i && (v i).1)))).setFlags
    (laneFlags act (fun i => (v i).2))))

/-- VSEL (R118): writes every lane. -/
def execVsel (_t : VTy) (o : Ops) (s : State) : Out := s.settle (do
  check88 s [dst o.d 4, src o.a o.epa 4, src o.b o.epb 4]
  numWin s o.a 4
  numWin s o.b 4
  let m := s.gov o
  .ok (s.putLanes o.d ((List.range 16).map (fun i => s.me.lane (if bitAt m i then o.a else o.b).toNat i))))

/-- One step of a reduction (R119). -/
def redLane (op : RedOp) (t : VTy) (rm : Nat) (a b : BitVec 32) : BitVec 32 × Flags :=
  match op with
  | .add => addLane false false t rm a b
  | .min => minMaxLane false t a b
  | .max => minMaxLane true t a b
  | .and => noFlags (a &&& b)
  | .or => noFlags (a ||| b)
  | .xor => noFlags (a ^^^ b)

/-- The identity of a reduction (R119). -/
def redIdent (op : RedOp) (t : VTy) : BitVec 32 :=
  match op, t with
  | .and, _ => 0xFFFFFFFF
  | .min, .i32 => 0x7FFFFFFF
  | .min, .u32 => 0xFFFFFFFF
  | .min, .f32 => 0x7F800000
  | .max, .i32 => 0x80000000
  | .max, .u32 => 0
  | .max, .f32 => 0xFF800000
  | _, _ => 0

/-- The running values of a reduction over the active lanes in ascending order: the value after each lane, and the flags. -/
def redRun (op : RedOp) (t : VTy) (rm : Nat) (act : BitVec 16) (l : List (BitVec 32)) :
    Option (BitVec 32) × List (BitVec 32) × Flags :=
  (List.range 16).foldl (fun (r : Option (BitVec 32) × List (BitVec 32) × Flags) i =>
    let x := l.getD i 0
    if bitAt act i then
      match r.1 with
      | none => (some x, r.2.1 ++ [x], r.2.2)
      | some y => let z := redLane op t rm y x; (some z.1, r.2.1 ++ [z.1], r.2.2 ||| z.2)
    else (r.1, r.2.1 ++ [0], r.2.2)) (none, [], 0)

/-- VRED (R119). -/
def execVred (op : RedOp) (t : VTy) (o : Ops) (s : State) : Out := s.settle (do
  check88 s [dst o.d, src o.b o.epb 4]
  numWin s o.b 4
  let act := s.gov o
  abnCheck s (isF t) act [o.b] 16
  let r := redRun op t s.rm act (s.lanes o.b)
  .ok ((s.putQ o.d ((r.1.getD (redIdent op t)).setWidth 128)).setFlags r.2.2))

/-- VSCAN (R119). -/
def execVscan (op : RedOp) (t : VTy) (o : Ops) (s : State) : Out := s.settle (do
  check88 s [dst o.d 4, src o.b o.epb 4]
  numWin s o.b 4
  let act := s.gov o
  abnCheck s (isF t) act [o.b] 16
  let r := redRun op t s.rm act (s.lanes o.b)
  .ok ((putVec s o.d false act (fun i => r.2.1.getD i 0)).setFlags r.2.2))

/-! ## Movement (R118) -/

/-- VBCAST (R118). -/
def execVbcast (_t : VTy) (o : Ops) (s : State) : Out := s.settle (do
  check88 s [dst o.d 4, src o.b o.epb]
  numTag s o.b.toNat
  .ok (putVec s o.d false (s.gov o) (fun _ => s.me.lane o.b.toNat 0)))

/-- VEXT (R118). -/
def execVext (_t : VTy) (o : Ops) (s : State) : Out := s.settle (do
  check88 s [dst o.d, src o.a o.epa 4, src o.b o.epb]
  numWin s o.a 4
  numTag s o.b.toNat
  .ok (s.putQ o.d ((s.me.lane o.a.toNat (fld (s.lo o.b) 3 0)).setWidth 128)))

/-- VINS (R118): the destination is its third source. -/
def execVins (_t : VTy) (o : Ops) (s : State) : Out := s.settle (do
  check88 s [srcC o.d 4, src o.a o.epa, src o.b o.epb]
  numTags s [o.a.toNat, o.b.toNat]
  numWin s o.d 4
  .ok (s.putLanes o.d ((List.range 16).map (fun i =>
    if i = fld (s.lo o.b) 3 0 then s.me.lane o.a.toNat 0 else s.me.lane o.d.toNat i))))

/-- VPERM (R118). -/
def execVperm (_t : VTy) (o : Ops) (s : State) : Out := s.settle (do
  check88 s [dst o.d 4, src o.a o.epa 4, src o.b o.epb 4]
  numWin s o.a 4
  numWin s o.b 4
  .ok (putVec s o.d false (s.gov o) (fun i => s.me.lane o.a.toNat (fld (s.me.lane o.b.toNat i) 3 0))))

/-- VSLIDE (R118): lanes that come from outside are zero. -/
def execVslide (dn : Bool) (_t : VTy) (o : Ops) (s : State) : Out := s.settle (do
  check88 s [dst o.d 4, src o.a o.epa 4, src o.b o.epb]
  numWin s o.a 4
  numTag s o.b.toNat
  let k := (s.lo o.b).toNat
  .ok (putVec s o.d false (s.gov o) (fun i =>
    if dn then (if i + k ≤ 15 then s.me.lane o.a.toNat (i + k) else 0)
    else (if k ≤ i then s.me.lane o.a.toNat (i - k) else 0))))

/-! ## Conversions (R120) -/

/-- A lane converted to an integer type (R120). -/
def cvtInt (rm : Nat) (lo hi : Int) (x : Num) : BitVec 32 × Flags :=
  let r := toInteger rm lo hi x
  (BitVec.ofInt 32 r.1, r.2)

/-- A lane converted to a narrower format, RNE (R120). -/
def cvtTo (f : FFmt) (x : BitVec 32) : BitVec 32 × Flags :=
  let r := convert f 0 (f32Val x)
  (BitVec.ofNat 32 r.1, r.2)

/-- A lane widened from a format in its low bits (R120): exact. -/
def cvtFrom (f : FFmt) (x : BitVec 32) : BitVec 32 × Flags := toF32 0 (f.val (x.toNat % 2 ^ f.width), 0)

/-- The conversions of R120. -/
def cvtLane (to_ : CvtTo) (t : VTy) (rm : Nat) (x : BitVec 32) : BitVec 32 × Flags :=
  let v := if isF t then f32Val x else Num.ofInt (laneInt t x)
  match to_ with
  | .i32 => cvtInt rm (-(2 ^ 31)) (2 ^ 31 - 1) v
  | .u32 => cvtInt rm 0 (2 ^ 32 - 1) v
  | .f32 => toF32 rm (v, 0)
  | .i32t => cvtInt 1 (-(2 ^ 31)) (2 ^ 31 - 1) v
  | .bf16 => cvtTo bf16 x
  | .fp16 => cvtTo fp16 x
  | .e4m3 => cvtTo e4m3 x
  | .e5m2 => cvtTo e5m2 x
  | .e2m1 => cvtTo e2m1 x
  | .xbf16 => cvtFrom bf16 x
  | .xfp16 => cvtFrom fp16 x
  | .xe4m3 => cvtFrom e4m3 x
  | .xe5m2 => cvtFrom e5m2 x
  | .xe2m1 => cvtFrom e2m1 x

/-- VCVT (R120). -/
def execVcvt (to_ : CvtTo) (sc : Bool) (t : VTy) (o : Ops) (s : State) : Out :=
  s.settle (lanewise o s sc (isF t) false false (fun _ b _ => cvtLane to_ t s.rm b))

/-! ## Mask instructions (R123) -/

/-- MAND (R123). -/
def execMand (o : Ops) (s : State) : Out := s.settle (maskOp o s (s.me.mask o.a.toNat &&& s.me.mask o.b.toNat))
/-- MOR (R123). -/
def execMor (o : Ops) (s : State) : Out := s.settle (maskOp o s (s.me.mask o.a.toNat ||| s.me.mask o.b.toNat))
/-- MXOR (R123). -/
def execMxor (o : Ops) (s : State) : Out := s.settle (maskOp o s (s.me.mask o.a.toNat ^^^ s.me.mask o.b.toNat))
/-- MNOT (R123). -/
def execMnot (o : Ops) (s : State) : Out := s.settle (maskOp o s (~~~(s.me.mask o.b.toNat)))
/-- MPOPC (R123). -/
def execMpopc (o : Ops) (s : State) : Out := s.settle (maskGet o s (popCount (s.me.mask o.b.toNat) 16))
/-- MFIRST (R123). -/
def execMfirst (o : Ops) (s : State) : Out := s.settle (maskGet o s (lowestOne (s.me.mask o.b.toNat) 16 0))
/-- MSET (R123). -/
def execMset (o : Ops) (s : State) : Out := s.settle (do
  check88 s [src o.b o.epb]
  numTag s o.b.toNat
  maskOp o s ((s.lo o.b).setWidth 16))
/-- MGET (R123). -/
def execMget (o : Ops) (s : State) : Out := s.settle (maskGet o s (s.me.mask o.b.toNat).toNat)

end Sys2Proof.Machine
end

