-- ==== Sys2Proof/Machine/Dispatch.lean ====
section
/-! DEFINITION. Dispatch.lean: the one match of an instruction or event to its meaning. -/

namespace Sys2Proof.Machine

def exec (i : Instr) (s : State) : Host.Outcome State Fault Refusal :=
  match i with
  | .nop => Sys2Proof.Machine.execNop s
  | .fin => Sys2Proof.Machine.execFin s
  | .ret => Sys2Proof.Machine.execRet s
  | .eret => Sys2Proof.Machine.execEret s
  | .brk => Sys2Proof.Machine.execBrk s
  | .hb => Sys2Proof.Machine.execHb s
  | .wfe => Sys2Proof.Machine.execWfe s
  | .b o => Sys2Proof.Machine.execB o s
  | .call o => Sys2Proof.Machine.execCall o s
  | .jr o => Sys2Proof.Machine.execJr o s
  | .callr o => Sys2Proof.Machine.execCallr o s
  | .bz o => Sys2Proof.Machine.execBz o s
  | .bnz o => Sys2Proof.Machine.execBnz o s
  | .bltz o => Sys2Proof.Machine.execBltz o s
  | .bgez o => Sys2Proof.Machine.execBgez o s
  | .many o => Sys2Proof.Machine.execMany o s
  | .mall o => Sys2Proof.Machine.execMall o s
  | .li o => Sys2Proof.Machine.execLi o s
  | .addi o => Sys2Proof.Machine.execAddi o s
  | .andi o => Sys2Proof.Machine.execAndi o s
  | .ori o => Sys2Proof.Machine.execOri o s
  | .xori o => Sys2Proof.Machine.execXori o s
  | .shli o => Sys2Proof.Machine.execShli o s
  | .shri o => Sys2Proof.Machine.execShri o s
  | .srai o => Sys2Proof.Machine.execSrai o s
  | .mov o => Sys2Proof.Machine.execMov o s
  | .add o => Sys2Proof.Machine.execAdd o s
  | .sub o => Sys2Proof.Machine.execSub o s
  | .andR o => Sys2Proof.Machine.execAndR o s
  | .orR o => Sys2Proof.Machine.execOrR o s
  | .xorR o => Sys2Proof.Machine.execXorR o s
  | .shl o => Sys2Proof.Machine.execShl o s
  | .shr o => Sys2Proof.Machine.execShr o s
  | .sra o => Sys2Proof.Machine.execSra o s
  | .mul o => Sys2Proof.Machine.execMul o s
  | .mulh o => Sys2Proof.Machine.execMulh o s
  | .mulhu o => Sys2Proof.Machine.execMulhu o s
  | .div o => Sys2Proof.Machine.execDiv o s
  | .divu o => Sys2Proof.Machine.execDivu o s
  | .rem o => Sys2Proof.Machine.execRem o s
  | .remu o => Sys2Proof.Machine.execRemu o s
  | .seq o => Sys2Proof.Machine.execSeq o s
  | .slt o => Sys2Proof.Machine.execSlt o s
  | .sltu o => Sys2Proof.Machine.execSltu o s
  | .minR o => Sys2Proof.Machine.execMinR o s
  | .maxR o => Sys2Proof.Machine.execMaxR o s
  | .minu o => Sys2Proof.Machine.execMinu o s
  | .maxu o => Sys2Proof.Machine.execMaxu o s
  | .clz o => Sys2Proof.Machine.execClz o s
  | .popc o => Sys2Proof.Machine.execPopc o s
  | .sel o => Sys2Proof.Machine.execSel o s
  | .ldw o => Sys2Proof.Machine.execLdw o s
  | .ldd o => Sys2Proof.Machine.execLdd o s
  | .stw o => Sys2Proof.Machine.execStw o s
  | .std o => Sys2Proof.Machine.execStd o s
  | .cinc o => Sys2Proof.Machine.execCinc o s
  | .cinci o => Sys2Proof.Machine.execCinci o s
  | .cgeta o => Sys2Proof.Machine.execCgeta o s
  | .csetb o => Sys2Proof.Machine.execCsetb o s
  | .cperm o => Sys2Proof.Machine.execCperm o s
  | .tagof o => Sys2Proof.Machine.execTagof o s
  | .srd o => Sys2Proof.Machine.execSrd o s
  | .swr o => Sys2Proof.Machine.execSwr o s
  | .trap o => Sys2Proof.Machine.execTrap o s
  | .vadd sat sc t o => Sys2Proof.Machine.execVadd sat sc t o s
  | .vsub sat sc t o => Sys2Proof.Machine.execVsub sat sc t o s
  | .vmul hi sc t o => Sys2Proof.Machine.execVmul hi sc t o s
  | .vfma neg sc t o => Sys2Proof.Machine.execVfma neg sc t o s
  | .vmin sc t o => Sys2Proof.Machine.execVmin sc t o s
  | .vmax sc t o => Sys2Proof.Machine.execVmax sc t o s
  | .vand sc t o => Sys2Proof.Machine.execVand sc t o s
  | .vor sc t o => Sys2Proof.Machine.execVor sc t o s
  | .vxor sc t o => Sys2Proof.Machine.execVxor sc t o s
  | .vshl sc t o => Sys2Proof.Machine.execVshl sc t o s
  | .vshr sc t o => Sys2Proof.Machine.execVshr sc t o s
  | .vabs sc t o => Sys2Proof.Machine.execVabs sc t o s
  | .vneg sc t o => Sys2Proof.Machine.execVneg sc t o s
  | .vcmp r sc t o => Sys2Proof.Machine.execVcmp r sc t o s
  | .vsel t o => Sys2Proof.Machine.execVsel t o s
  | .vred op t o => Sys2Proof.Machine.execVred op t o s
  | .vscan op t o => Sys2Proof.Machine.execVscan op t o s
  | .vbcast t o => Sys2Proof.Machine.execVbcast t o s
  | .vext t o => Sys2Proof.Machine.execVext t o s
  | .vins t o => Sys2Proof.Machine.execVins t o s
  | .vperm t o => Sys2Proof.Machine.execVperm t o s
  | .vslide dn t o => Sys2Proof.Machine.execVslide dn t o s
  | .vcvt cv sc t o => Sys2Proof.Machine.execVcvt cv sc t o s
  | .vdiv rem sc t o => Sys2Proof.Machine.execVdiv rem sc t o s
  | .vsqrt sc o => Sys2Proof.Machine.execVsqrt sc o s
  | .vexp2 sc o => Sys2Proof.Machine.execVexp2 sc o s
  | .vld t o => Sys2Proof.Machine.execVld t o s
  | .vst t o => Sys2Proof.Machine.execVst t o s
  | .vlds t o => Sys2Proof.Machine.execVlds t o s
  | .vsts t o => Sys2Proof.Machine.execVsts t o s
  | .vgth t o => Sys2Proof.Machine.execVgth t o s
  | .vsct t o => Sys2Proof.Machine.execVsct t o s
  | .mand o => Sys2Proof.Machine.execMand o s
  | .mor o => Sys2Proof.Machine.execMor o s
  | .mxor o => Sys2Proof.Machine.execMxor o s
  | .mnot o => Sys2Proof.Machine.execMnot o s
  | .mpopc o => Sys2Proof.Machine.execMpopc o s
  | .mfirst o => Sys2Proof.Machine.execMfirst o s
  | .mset o => Sys2Proof.Machine.execMset o s
  | .mget o => Sys2Proof.Machine.execMget o s
  | .mzero n int => Sys2Proof.Machine.execMzero n int s
  | .mma n o => Sys2Proof.Machine.execMma n o s
  | .mmas n sh u8 o => Sys2Proof.Machine.execMmas n sh u8 o s
  | .mdrn n clr o => Sys2Proof.Machine.execMdrn n clr o s
  | .mdrnR n clr o => Sys2Proof.Machine.execMdrnR n clr o s
  | .mlda n int o => Sys2Proof.Machine.execMlda n int o s
  | .cmpr sh u8 o => Sys2Proof.Machine.execCmpr sh u8 o s
  | .mxpd sh u8 o => Sys2Proof.Machine.execMxpd sh u8 o s
  | .fork o => Sys2Proof.Machine.execFork o s
  | .rdv => Sys2Proof.Machine.execRdv s
  | .endp => Sys2Proof.Machine.execEndp s
  | .eloop o => Sys2Proof.Machine.execEloop o s
  | .ebump o => Sys2Proof.Machine.execEbump o s
  | .tqput o => Sys2Proof.Machine.execTqput o s
  | .tqwait o => Sys2Proof.Machine.execTqwait o s
  | .tqwaitAll o => Sys2Proof.Machine.execTqwaitAll o s
  | .mstat o => Sys2Proof.Machine.execMstat o s
  | .mstatAbort => Sys2Proof.Machine.execMstatAbort s
  | .pset o => Sys2Proof.Machine.execPset o s
  | .psetW o => Sys2Proof.Machine.execPsetW o s
  | .fvadd o => Sys2Proof.Machine.execFvadd o s
  | .fvsub o => Sys2Proof.Machine.execFvsub o s
  | .fvmul o => Sys2Proof.Machine.execFvmul o s
  | .fvfma neg o => Sys2Proof.Machine.execFvfma neg o s
  | .fvdiv o => Sys2Proof.Machine.execFvdiv o s
  | .fvsqrt o => Sys2Proof.Machine.execFvsqrt o s
  | .fvcmp o => Sys2Proof.Machine.execFvcmp o s
  | .fvcvtFromi o => Sys2Proof.Machine.execFvcvtFromi o s
  | .fvcvtFromf o => Sys2Proof.Machine.execFvcvtFromf o s
  | .fvcvtToi o => Sys2Proof.Machine.execFvcvtToi o s
  | .fvcvtTof o => Sys2Proof.Machine.execFvcvtTof o s
  | .fvld o => Sys2Proof.Machine.execFvld o s
  | .fvldIx o => Sys2Proof.Machine.execFvldIx o s
  | .fvst o => Sys2Proof.Machine.execFvst o s
  | .fvstIx o => Sys2Proof.Machine.execFvstIx o s
  | .fvsigGet o => Sys2Proof.Machine.execFvsigGet o s
  | .fvsigSet o => Sys2Proof.Machine.execFvsigSet o s
  | .fvrnd o => Sys2Proof.Machine.execFvrnd o s
  | .fvlen o => Sys2Proof.Machine.execFvlen o s
  | .fvlenW o => Sys2Proof.Machine.execFvlenW o s
  | .vdopenGeq o => Sys2Proof.Machine.execVdopenGeq o s
  | .vdopenGeqImm o => Sys2Proof.Machine.execVdopenGeqImm o s
  | .vdopenPos o => Sys2Proof.Machine.execVdopenPos o s
  | .vdps o => Sys2Proof.Machine.execVdps o s
  | .vdlow o => Sys2Proof.Machine.execVdlow o s
  | .vdupr o => Sys2Proof.Machine.execVdupr o s
  | .vdfin o => Sys2Proof.Machine.execVdfin o s
  | .vdchkLive o => Sys2Proof.Machine.execVdchkLive o s
  | .vdchkAbn o => Sys2Proof.Machine.execVdchkAbn o s
  | .vtraise o => Sys2Proof.Machine.execVtraise o s
  | .ld sg z o => Sys2Proof.Machine.execLd sg z o s
  | .st z o => Sys2Proof.Machine.execSt z o s
  | .ldc o => Sys2Proof.Machine.execLdc o s
  | .stc o => Sys2Proof.Machine.execStc o s
  | .amo nr dbl op o => Sys2Proof.Machine.execAmo nr dbl op o s
  | .cas dbl o => Sys2Proof.Machine.execCas dbl o s
  | .mapp o => Sys2Proof.Machine.execMapp o s
  | .mrecv o => Sys2Proof.Machine.execMrecv o s
  | .fnc sp ord o => Sys2Proof.Machine.execFnc sp ord o s
  | .fncInv o => Sys2Proof.Machine.execFncInv o s
  | .fnca ord o => Sys2Proof.Machine.execFnca ord o s
  | .cpy o => Sys2Proof.Machine.execCpy o s
  | .cpym o => Sys2Proof.Machine.execCpym o s
  | .cpyx sh u8 o => Sys2Proof.Machine.execCpyx sh u8 o s
  | .cwait o => Sys2Proof.Machine.execCwait o s
  | .cpoll o => Sys2Proof.Machine.execCpoll o s
  | .sfldBind o => Sys2Proof.Machine.execSfldBind o s
  | .sfldDrop o => Sys2Proof.Machine.execSfldDrop o s
  | .snew o => Sys2Proof.Machine.execSnew o s
  | .sdel o => Sys2Proof.Machine.execSdel o s
  | .sput o => Sys2Proof.Machine.execSput o s
  | .sputNr o => Sys2Proof.Machine.execSputNr o s
  | .sld o => Sys2Proof.Machine.execSld o s
  | .sst o => Sys2Proof.Machine.execSst o s
  | .sown o => Sys2Proof.Machine.execSown o s
  | .sqbox o => Sys2Proof.Machine.execSqbox o s
  | .sqrad o => Sys2Proof.Machine.execSqrad o s
  | .sqtake o => Sys2Proof.Machine.execSqtake o s
  | .sqend o => Sys2Proof.Machine.execSqend o s
  | .shwait o => Sys2Proof.Machine.execShwait o s
  | .scount o => Sys2Proof.Machine.execScount o s
  | .sscan o => Sys2Proof.Machine.execSscan o s
  | .fncp => Sys2Proof.Machine.execFncp s
  | .pcnt o => Sys2Proof.Machine.execPcnt o s
  | .pcntIss o => Sys2Proof.Machine.execPcntIss o s
  | .gopen o => Sys2Proof.Machine.execGopen o s
  | .stg z o => Sys2Proof.Machine.execStg z o s
  | .gcommit o => Sys2Proof.Machine.execGcommit o s
  | .gabort o => Sys2Proof.Machine.execGabort o s
  | .gstat o => Sys2Proof.Machine.execGstat o s
  | .sopen o => Sys2Proof.Machine.execSopen o s
  | .ssend o => Sys2Proof.Machine.execSsend o s
  | .sclose o => Sys2Proof.Machine.execSclose o s
  | .fred o => Sys2Proof.Machine.execFred o s
  | .fredw o => Sys2Proof.Machine.execFredw o s
  | .spawn o => Sys2Proof.Machine.execSpawn o s
  | .ten o => Sys2Proof.Machine.execTen o s
  | .tdis o => Sys2Proof.Machine.execTdis o s
  | .tpnd o => Sys2Proof.Machine.execTpnd o s
  | .actdef o => Sys2Proof.Machine.execActdef o s
  | .actctlEna o => Sys2Proof.Machine.execActctlEna o s
  | .actctlDis o => Sys2Proof.Machine.execActctlDis o s
  | .actctlPri o => Sys2Proof.Machine.execActctlPri o s
  | .actctlStat o => Sys2Proof.Machine.execActctlStat o s
  | .actctlFlush o => Sys2Proof.Machine.execActctlFlush o s
  | .actctlSpri o => Sys2Proof.Machine.execActctlSpri o s
  | .nbw o => Sys2Proof.Machine.execNbw o s
  | .nbarm o => Sys2Proof.Machine.execNbarm o s
  | .phreg o => Sys2Proof.Machine.execPhreg o s
  | .phdrop o => Sys2Proof.Machine.execPhdrop o s
  | .phsig o => Sys2Proof.Machine.execPhsig o s
  | .phwait o => Sys2Proof.Machine.execPhwait o s
  | .phadv o => Sys2Proof.Machine.execPhadv o s
  | .waittRead o => Sys2Proof.Machine.execWaittRead o s
  | .waittArm o => Sys2Proof.Machine.execWaittArm o s
  | .lqput o => Sys2Proof.Machine.execLqput o s
  | .cancel o => Sys2Proof.Machine.execCancel o s
  | .firingStart cid => Sys2Proof.Machine.execFiringStart cid s
  | .routedPacketArrival id => Sys2Proof.Machine.execRoutedPacketArrival id s
  | .heldPacketDelivery cid tag => Sys2Proof.Machine.execHeldPacketDelivery cid tag s
  | .packetReoffer cl cid tag => Sys2Proof.Machine.execPacketReoffer cl cid tag s
  | .outputDrain cid act out => Sys2Proof.Machine.execOutputDrain cid act out s
  | .spawnArrival id => Sys2Proof.Machine.execSpawnArrival id s
  | .spawnReply id => Sys2Proof.Machine.execSpawnReply id s
  | .heartbeatMiss g => Sys2Proof.Machine.execHeartbeatMiss g s
  | .waitTimeout g => Sys2Proof.Machine.execWaitTimeout g s
  | .neighbourWriteLand cid dir => Sys2Proof.Machine.execNeighbourWriteLand cid dir s
  | .loadReply id => Sys2Proof.Machine.execLoadReply id s
  | .remoteAccessAtHome id => Sys2Proof.Machine.execRemoteAccessAtHome id s
  | .clusterStoreAck id => Sys2Proof.Machine.execClusterStoreAck id s
  | .deviceStoreAck id => Sys2Proof.Machine.execDeviceStoreAck id s
  | .inboxDelivery id => Sys2Proof.Machine.execInboxDelivery id s
  | .mrecvDelivery g => Sys2Proof.Machine.execMrecvDelivery g s
  | .phaserRequest id => Sys2Proof.Machine.execPhaserRequest id s
  | .clusterAtomicAtHome id eccBad => Sys2Proof.Machine.execClusterAtomicAtHome id eccBad s
  | .tileTaskDispatch cl => Sys2Proof.Machine.execTileTaskDispatch cl s
  | .tileTaskComplete cl key => Sys2Proof.Machine.execTileTaskComplete cl key s
  | .hang cl => Sys2Proof.Machine.execHang cl s
  | .clusterReset cl => Sys2Proof.Machine.execClusterReset cl s
  | .flagUnionUpdate cl => Sys2Proof.Machine.execFlagUnionUpdate cl s
  | .engineOpStart cid set => Sys2Proof.Machine.execEngineOpStart cid set s
  | .engineOpComplete cid set sumBad => Sys2Proof.Machine.execEngineOpComplete cid set sumBad s
  | .engineProgramStep g => Sys2Proof.Machine.execEngineProgramStep g s
  | .peerRowFetch cid set outcome => Sys2Proof.Machine.execPeerRowFetch cid set outcome s
  | .copyRequestPerform g slot => Sys2Proof.Machine.execCopyRequestPerform g slot s
  | .copyComplete g slot => Sys2Proof.Machine.execCopyComplete g slot s
  | .promiseMiss g => Sys2Proof.Machine.execPromiseMiss g s
  | .streamRouteRetry g => Sys2Proof.Machine.execStreamRouteRetry g s
  | .streamBreak g => Sys2Proof.Machine.execStreamBreak g s
  | .translation id => Sys2Proof.Machine.execTranslation id s
  | .heldRequestRelease id => Sys2Proof.Machine.execHeldRequestRelease id s
  | .routerMerge id1 id2 => Sys2Proof.Machine.execRouterMerge id1 id2 s
  | .deviceAtomicAtHome id eccBad => Sys2Proof.Machine.execDeviceAtomicAtHome id eccBad s
  | .deviceAccessAtHome id => Sys2Proof.Machine.execDeviceAccessAtHome id s
  | .ioAccess id ok data => Sys2Proof.Machine.execIoAccess id ok data s
  | .scratchpadScrub cid => Sys2Proof.Machine.execScratchpadScrub cid s
  | .dramScrub die => Sys2Proof.Machine.execDramScrub die s
  | .handleForward id => Sys2Proof.Machine.execHandleForward id s
  | .directoryResolve id => Sys2Proof.Machine.execDirectoryResolve id s
  | .queryTake id => Sys2Proof.Machine.execQueryTake id s
  | .sweepReservation id => Sys2Proof.Machine.execSweepReservation id s
  | .reservationSettle id => Sys2Proof.Machine.execReservationSettle id s
  | .recordCreateAtOwner id => Sys2Proof.Machine.execRecordCreateAtOwner id s
  | .haulSend id => Sys2Proof.Machine.execHaulSend id s
  | .haulInstall id => Sys2Proof.Machine.execHaulInstall id s
  | .haulFail id => Sys2Proof.Machine.execHaulFail id s
  | .spatialWriteAtOwner id => Sys2Proof.Machine.execSpatialWriteAtOwner id s
  | .tombstoneReclaim cid slot => Sys2Proof.Machine.execTombstoneReclaim cid slot s
  | .queryVisitStart g q => Sys2Proof.Machine.execQueryVisitStart g q s
  | .queryOwnerScan id => Sys2Proof.Machine.execQueryOwnerScan id s
  | .queryResultDelivery g q => Sys2Proof.Machine.execQueryResultDelivery g q s
  | .queryEventDelivery g => Sys2Proof.Machine.execQueryEventDelivery g s
  | .spatialPostedAck id => Sys2Proof.Machine.execSpatialPostedAck id s
  | .qdoor queue entry => Sys2Proof.Machine.execQdoor queue entry s
  | .qcan queue lid => Sys2Proof.Machine.execQcan queue lid s
  | .qch queue head => Sys2Proof.Machine.execQch queue head s
  | .controlPageWrite queue off val feather => Sys2Proof.Machine.execControlPageWrite queue off val feather s
  | .dispatchDecision => Sys2Proof.Machine.execDispatchDecision s
  | .launchPlacement lid => Sys2Proof.Machine.execLaunchPlacement lid s
  | .deadlineMiss lid => Sys2Proof.Machine.execDeadlineMiss lid s
  | .ctbExhausted dcb => Sys2Proof.Machine.execCtbExhausted dcb s
  | .preemptionRequest part tier => Sys2Proof.Machine.execPreemptionRequest part tier s
  | .contextSave lid => Sys2Proof.Machine.execContextSave lid s
  | .saveTimeout lid => Sys2Proof.Machine.execSaveTimeout lid s
  | .launchResume lid => Sys2Proof.Machine.execLaunchResume lid s
  | .shareComplete lid cid => Sys2Proof.Machine.execShareComplete lid cid s
  | .completionRecord lid => Sys2Proof.Machine.execCompletionRecord lid s
  | .faultMessageReceipt id => Sys2Proof.Machine.execFaultMessageReceipt id s
  | .rampWindow die used => Sys2Proof.Machine.execRampWindow die used s
  | .packageReset flash => Sys2Proof.Machine.execPackageReset flash s
  | .attestationRequest nonce => Sys2Proof.Machine.execAttestationRequest nonce s
  | .partitionRequest mgmt req => Sys2Proof.Machine.execPartitionRequest mgmt req s
  | .firewallRefusal agent addr n part wr => Sys2Proof.Machine.execFirewallRefusal agent addr n part wr s
  | .livenessBeat cl => Sys2Proof.Machine.execLivenessBeat cl s
  | .clusterFailed cl own => Sys2Proof.Machine.execClusterFailed cl own s
  | .featherWatchdogExpiry => Sys2Proof.Machine.execFeatherWatchdogExpiry s
  | .plugWatchdogExpiry => Sys2Proof.Machine.execPlugWatchdogExpiry s
  | .linkReplay link lane => Sys2Proof.Machine.execLinkReplay link lane s
  | .coreSpare cid => Sys2Proof.Machine.execCoreSpare cid s
  | .clusterRetire cl => Sys2Proof.Machine.execClusterRetire cl s
  | .dramPageFail page => Sys2Proof.Machine.execDramPageFail page s
  | .peerIngress req => Sys2Proof.Machine.execPeerIngress req s
  | .peerReply id gen => Sys2Proof.Machine.execPeerReply id gen s
  | .fabricTimeout id => Sys2Proof.Machine.execFabricTimeout id s
  | .peerLoss pkg => Sys2Proof.Machine.execPeerLoss pkg s
  | .peerReadmit pkg => Sys2Proof.Machine.execPeerReadmit pkg s
  | .ofStoreRelease id => Sys2Proof.Machine.execOfStoreRelease id s
  | .mirrorResend id => Sys2Proof.Machine.execMirrorResend id s
  | .sysAtomicAtHome id eccBad => Sys2Proof.Machine.execSysAtomicAtHome id eccBad s
  | .reductionCombine coll round member contrib => Sys2Proof.Machine.execReductionCombine coll round member contrib s
  | .reductionTimeout coll round => Sys2Proof.Machine.execReductionTimeout coll round s
  | .reductionAnswer g slot => Sys2Proof.Machine.execReductionAnswer g slot s
  | .stgReceive id cut => Sys2Proof.Machine.execStgReceive id cut s
  | .prepare id => Sys2Proof.Machine.execPrepare id s
  | .publish id => Sys2Proof.Machine.execPublish id s
  | .groupAbortAtPort id => Sys2Proof.Machine.execGroupAbortAtPort id s
  | .prepareAnswerTimeout gid => Sys2Proof.Machine.execPrepareAnswerTimeout gid s
  | .publishAckTimeout gid => Sys2Proof.Machine.execPublishAckTimeout gid s
  | .preparedLockTimeout port gid => Sys2Proof.Machine.execPreparedLockTimeout port gid s
  | .groupDrainEnd gid => Sys2Proof.Machine.execGroupDrainEnd gid s
  | .clusterResetComplete cl => Sys2Proof.Machine.execClusterResetComplete cl s
  | .featherRestartComplete => Sys2Proof.Machine.execFeatherRestartComplete s
  | .sliceCacheWayFail slice => Sys2Proof.Machine.execSliceCacheWayFail slice s
  | .collectiveSetup coll members self => Sys2Proof.Machine.execCollectiveSetup coll members self s
  | .recordReadAtOwner id => Sys2Proof.Machine.execRecordReadAtOwner id s
  | .mappAcceptanceReply id => Sys2Proof.Machine.execMappAcceptanceReply id s
  | .lqputEntryArrival id => Sys2Proof.Machine.execLqputEntryArrival id s

end Sys2Proof.Machine
end

