-- ==== Sys2Proof/Machine/Turn.lean ====
section
/-! DEFINITION. Turn.lean: what one step does: clk pass (R6, R58, R59, R141, R250), a context executes its next instruction (R43), an event
takes place, a queued store is performed (R177), a physical fault occurs (R179 to R181, R208, R288, R367), or an agent outside the compute
dies acts (R329, R362, R366). -/

namespace Sys2Proof.Machine

/-! ## Time -/

/-- n clk pass in a context: the heartbeat counts outside blocked waits (R58), the wait counter within them, down to 0 (R59). -/
def Ctx.tick (c : Ctx) (n : Nat) : Ctx :=
  if !c.busy then c
  else if c.waits then { c with wait := c.wait.map (fun w => { w with left := w.left - n, waited := w.waited + min n w.left }) }
  else { c with hb := c.hb - n }

/-- Whether the hang monitor of a cluster counts (R250): every context with a firing waits with KIND 1 to 5, and at least one does. -/
def State.hangs (s : State) (cl : Nat) : Bool :=
  let held := (List.range 64).filter (fun i => (s.ctxAt (cl * 64 + i)).busy)
  !held.isEmpty && held.all (fun i =>
    let c := s.ctxAt (cl * 64 + i)
    c.waits && (match c.wait with | some w => decide (1 ≤ w.kind ∧ w.kind ≤ 5) | none => false))

/-- The flag sets that have waited more than 32 clk by a time have reached CFU (R141). -/
def Cluster.flagsBy (u : Cluster) (now : Nat) : Cluster :=
  { u with
    cfu := (u.flagsIn.filter (fun x => decide (x.born + 32 < now))).foldl (fun w x => w ||| x.bits) u.cfu
    flagsIn := u.flagsIn.filter (fun x => !decide (x.born + 32 < now)) }

/-- n clk pass (R6): CYC does not wrap. -/
def State.tick (s : State) (n : Nat) : State :=
  if 2 ^ 64 ≤ s.cyc.toNat + n then s
  else { s with
    cyc := s.cyc + BitVec.ofNat 64 n
    ctxs := s.ctxs.map (fun e => (e.1, e.2.tick n))
    clusters := s.clusters.map (fun e =>
      (e.1, { e.2.flagsBy (s.cyc.toNat + n) with hang := if e.2.monLimit ≠ 0 && s.hangs e.1 then e.2.hang + n else 0 })) }

/-! ## Physical faults -/

/-- A physical fault occurs (R179 to R181, R208, R288, R367); one that meets no firing, no scratchpad or no memory has no effect, and neither
has one of a word for which a store is queued. -/
def State.physical (s : State) : Physical → State
  | .residue g => if (s.ctxAt g).busy then (s.abandon g 2 0).reportCore (g / 4) else s
  | .parity g => if (s.ctxAt g).busy then s.abandon g 2 Cause.pois.code.toNat else s
  | .word cid off =>
    if cid < 2048 ∧ off < 2 ^ 19 ∧ !s.anyQueued cid (off / 8 * 8) 8 then s.setPoison (spad cid off) else s
  | .tagBit cid off =>
    if cid < 2048 ∧ off < 2 ^ 19 then
      let k := spad cid off / 32
      { s with tagged := s.tagged.filter (· != k), tagPoison := insertNat k s.tagPoison }
    else s
  | .row page =>
    let b := Config.dramBank page
    { s with plug := { s.plug with rows := s.plug.rows.put b (min 64 (s.plug.rows.get 0 b + 1)) } }
  | .line phys => if phys < 2 ^ 38 then s.setPoison phys else s
  | .element cid set i v => s.updCore cid (fun k =>
      { k with sets := Vector.ofFn (fun (j : Fin 2) => if j.val = set ∧ i < 1024 then k.sets[j].disturb i v else k.sets[j]) })
  | .verify cid => s.updCore cid (fun k => { k with verifyBad := true })

/-! ## A context's turn -/

/-- Whether the launch of a context is asked to be saved, or is being stopped. -/
def State.stops (s : State) (c : Ctx) : Bool :=
  match s.launch c.lid with | some l => l.st == .saving || l.st == .stopping | none => false

/-- Whether the launch of a context stops it at this instruction boundary: it is asked to be saved, or is being stopped (R349, R350). -/
def State.held_ (s : State) (c : Ctx) : Bool :=
  c.phase == .idle && s.stops c

/-- Whether the current context waits, or has waited, with a VDPS in a launch that is to be saved: the instruction starts again at the restore,
with a fresh sample (R219). -/
def State.restarts (s : State) : Bool :=
  s.stops s.me && (match s.me.phase, s.fetch s.cur s.me.pc with
    | .done _, (.instr (.vdps _) _, _) => true
    | _, _ => false)

/-- The turn of the current context, once it is known to run: what is due comes first (R58, R59, R75), then the next instruction is fetched
and executed. -/
def runCtx (s : State) : Out :=
  let c := s.me
  if c.hb = 0 ∧ !c.missed then execHeartbeatMiss s.cur s
  else if c.waits ∧ (c.wait.map (·.left)) = some 0 then execWaitTimeout s.cur s
  else if c.stepping = .due then .next (s.takeTrap s.cur .brk 1 false 0)
  else
    match s.fetch s.cur c.pc with
    | (.wait, t) => .next t
    | (.trap cause v n, t) => .next (t.takeTrap s.cur cause v false n)
    | (.instr i n, t) => exec i { t with ilen := n }

/-- A context takes its turn: without a firing, and at a boundary where its launch stops it, nothing happens. -/
def ctxTurn (g : Nat) (s : State) : Out :=
  let t : State := { s with cur := g }
  if !t.me.busy || t.held_ t.me then .next s
  else if t.restarts then .next (s.updCtx g (fun c => { c with phase := .idle, wait := none }))
  else runCtx t

/-- One turn. -/
def State.turn (s : State) : Turn → Out
  | .ctx g => ctxTurn g s
  | .event i => if i.isEvent then exec i s else .next s
  | .tick n => .next (s.tick n)
  | .drain g => .next (s.drain g)
  | .fault x => .next (s.physical x)
  | .agent r => .next (s.agentTurn r)

/-! ## Waits that end by themselves (R59, R248) -/

/-- Two waits of one instruction are the same wait. -/
def Wait.same (a b : Wait) : Bool := a.kind == b.kind && a.obj == b.obj && a.key == b.key

/-- Whether context g, which is in the blocked wait w, would still be in it if its instruction were executed now. -/
def State.stillWaits (s : State) (g : Nat) (w : Wait) : Bool :=
  let c := s.ctxAt g
  match ({ s with cur := g } : State).fetch g c.pc with
  | (.wait, _) => true
  | (.trap .., _) => false
  | (.instr i n, t) =>
    match exec i { t with ilen := n } with
    | .next u => (u.ctxAt g).busy && (u.ctxAt g).fire == c.fire && (u.ctxAt g).pc == c.pc && (u.ctxAt g).wait.any w.same
    | _ => false

/-- A context in the state s: a wait whose object has come is over. -/
def Ctx.settled (c : Ctx) (s : State) (g : Nat) : Ctx :=
  match c.wait with
  | some w => if c.waits && !s.stillWaits g w then { c with wait := some { w with met := true } } else c
  | none => c

/-- After a turn, the waits that it has ended are over. -/
def State.refresh (s : State) : State := { s with ctxs := s.ctxs.map (fun e => (e.1, e.2.settled s e.1)) }

/-- The turn that the agenda, or else the free schedule, gives, and the state in which it is taken (log 1). -/
def State.nextTurn (s : State) : Turn × State :=
  match s.agenda with
  | t :: rest => (t, { s with agenda := rest, turns := s.turns + 1 })
  | [] => (Config.nextTurn s.turns, { s with turns := s.turns + 1 })

/-! ## Placing one instruction -/

/-- The bytes of an instruction of the opcode table, followed by zeros up to five halfwords (R24). -/
def tableBytes (nbits w : Nat) : List Byte := fitBytes 10 ((tableHalves nbits w).flatMap (fun h => leBytes 2 h.toNat))

/-- The leaf of the page 0x10000 with RD, WR, EX. -/
def fetchLeaf : Word := BitVec.ofNat 64 (2 ^ 38 + 2 ^ 3 + 2 ^ 2 + 2 ^ 1 + 1)

/-- The window of that page, for partition 1. -/
def fetchWindow : Quad := BitVec.ofNat 128 (1 + 2 ^ 16 + 2 * 2 ^ 42 + 2 ^ 68)

/-- Places bytes where context 0 fetches its next instruction (log 6): a page of process identifier 1, its translation in the station of die
0, the window that admits it, and a firing on context 0 whose turn is next. -/
def State.placeCode (s : State) (bs : List Byte) : State :=
  let t := s.updDie 0 (fun d => { d with tlb := (1, { pid := 1, vpn := 1, leaf := fetchLeaf }) :: d.tlb })
  let t := t.updCtx 0 (fun c => { c with
    busy := true, pid := 1, pc := 0x10000, hb := 1200000, wait := none, phase := .idle, stepping := .off, lid := 1 })
  { t with
    mem := Memory.writeL t.mem 0x10000 bs
    poison := t.poison.filter (· != 0x10000)
    texts := t.texts.filter (fun x => x.lid != 1)
    launches := t.launches.filter (fun l => l.lid != 1)
    partOf := t.partOf.put 1 1
    windows := t.windows.put 0 fetchWindow
    agenda := [.ctx 0] }

end Sys2Proof.Machine
end

