-- ==== Sys2Proof/Machine/Step.lean ====
section
/-! DEFINITION. Step.lean: one step of the machine, and a state that fetches a given instruction next. -/

namespace Sys2Proof.Machine

/-- One step: one turn of one agent (log 1), and the waits that it ends are over (R59). -/
def step (s : State) : Host.Outcome State Fault Refusal :=
  match s.nextTurn.2.turn s.nextTurn.1 with
  | .next t => .next t.refresh
  | x => x

/-- The state with an instruction of the opcode table placed where the next step fetches (log 6). -/
def State.withFetchWord (s : State) (nbits w : Nat) : State := s.placeCode (tableBytes nbits w)

end Sys2Proof.Machine
end

