-- ==== Sys2Proof/WellFormed.lean ====
section
/-! DEFINITION. WellFormed.lean: which terms of `Instr` are instructions of the spec: each check says what an encoding can hold and what
the decoder lets through (R30 to R44). Every event of another agent is well formed. -/

namespace Sys2Proof

/-- The general registers and windows that the instruction names, each with its role (R40, R41). -/
def namedRegs (f : Form) (o : Ops) : List (RegNo × Role) := [(o.d, f.d), (o.a, f.a), (o.b, f.b), (o.c, f.c)]

/-- A register that the instruction does not name is 0, and so is the field that must be 0 (R30, R35, R296). -/
def unusedZero (f : Form) (o : Ops) : Bool :=
  (namedRegs f o).all (fun w => (w.2 != .no && w.2 != .z0) || w.1 == 0)

/-- A mask register is m0 to m7 (R83). -/
def masksOk (f : Form) (o : Ops) : Bool := (namedRegs f o).all (fun w => w.2 != .mk || decide (w.1.toNat < 8))

/-- Every window is aligned to its length (R41). -/
def windowsOk (f : Form) (o : Ops) : Bool := (namedRegs f o).all (fun w => w.1.toNat % w.2.len o.l.toNat == 0)

/-- The length class is legal, and 0 where no window takes it (R35, R41, R142). -/
def lengthOk (i : Instr) (f : Form) (o : Ops) : Bool :=
  (match codeOf i with
   | some (pg, op, _) => o.l != 3 && (o.l != 2 || !(pg == 3 && decide (op ≤ 0x0D)))
   | none => false) && (o.l == 0 || (namedRegs f o).any (fun w => w.2 == .var))

/-- PX.MOD fields that the instruction does not use are 0 (R34, R35). -/
def modFieldsOk (f : Form) (o : Ops) : Bool :=
  (f.msk || o.msk == 0) && (f.a.reads || !o.epa) && (f.b.reads || !o.epb) && (f.a.reads || f.b.reads || !o.ru) &&
  (f.scp || o.scp == .core) && (f.near || !o.near) && (f.of || !o.of)

/-- The immediate is representable (R39), or 0 where there is none. -/
def immOk (f : Form) (o : Ops) : Bool := (immCount f o.imm 5).isSome && (f.imm != .no || o.imm == 0)

/-- The chain has no more than four prefixes (R36). -/
def prefixesOk (i : Instr) : Bool :=
  match codeOf i, immCount (formOf i) (opsOf i).imm 5 with
  | some (pg, _, _), some k =>
    decide (otherPrefixes pg (opsOf i) k + (needsReg pg (formOf i) (opsOf i) k).toNat ≤ 4)
  | _, _ => false

/-- OF on an atomic needs scope SYS (R266); FNC.INV takes DEV or SYS (R273). -/
def scopeOk (i : Instr) (o : Ops) : Bool :=
  match i with
  | .amo .. | .cas .. => !o.of || o.scp == .sys
  | .fncInv _ => o.scp == .dev || o.scp == .sys
  | _ => true

/-- The instruction is one that an encoding of the spec spells. -/
def Instr.wellFormed (i : Instr) : Bool :=
  i.isEvent ||
  ((codeOf i).isSome && unusedZero (formOf i) (opsOf i) && masksOk (formOf i) (opsOf i) && windowsOk (formOf i) (opsOf i) &&
    lengthOk i (formOf i) (opsOf i) && modFieldsOk (formOf i) (opsOf i) && immOk (formOf i) (opsOf i) && prefixesOk i && scopeOk i (opsOf i))

end Sys2Proof
end

