-- ==== Sys2Proof/Safety.lean ====
section
/-! DEFINITION. Safety.lean: the terms that claims use: registers that an instruction can read at once, what a step leaves alone, and the
invariant of every step. -/

namespace Sys2Proof.Machine

/-! ## Operands an instruction can use at once (R85 to R88) -/

/-- The numbers of a window. -/
def span (n : RegNo) (len : Nat) : List Nat := (List.range len).map (n.toNat + ·)

/-- The registers numbered are FULL and hold no recorded fault, so that the checks of R88 pass. -/
def Ctx.ready (c : Ctx) (ns : List Nat) : Bool := ns.all (fun n => (c.reg n).pres == .full && (c.reg n).fault.isNone)

/-- The registers numbered hold numbers (R85). -/
def Ctx.numbers (c : Ctx) (ns : List Nat) : Bool := ns.all (fun n => (c.reg n).tag == .data)

/-- The registers numbered hold data that a store takes: numbers, or ABN as its bits (R85). -/
def Ctx.storable (c : Ctx) (ns : List Nat) : Bool := ns.all (fun n => (c.reg n).tag == .data || (c.reg n).tag == .abn)

/-- The window that starts at n holds a capability (R92). -/
def Ctx.holdsCap (c : Ctx) (n : RegNo) : Bool := (c.reg n.toNat).tag == .caph && (c.reg (n.toNat + 1)).tag == .capt

/-- The access check of R94 passes for n bytes at an address, with the permissions an access needs, in one of the spaces given, aligned. -/
def State.reaches (s : State) (c : Cap) (a : Word) (n : Nat) (need spaces : List Nat) (al : Nat) : Bool :=
  (!bitAt c.prm pSY || s.me.level == .system) && need.all (bitAt c.prm) && spaces.contains c.spc && decide (c.spc < 5) &&
  decide (c.base.toNat ≤ a.toNat ∧ a.toNat + n ≤ c.lim.toNat) &&
  inSpace c.spc a n &&
  a.toNat % al == 0

/-- The own scratchpad, as the context sees it, lets it access n bytes at an address: no .NR atomic and no stream message holds later accesses
back, and no lock, resident bank, pool bank or poison is in the way (R110, R173, R177). -/
def State.free (s : State) (a : Word) (n : Nat) (write : Bool) : Bool :=
  !s.gate && (match homeCheck s.mine s.cid (a.toNat % 2 ^ 19) n write (s.me.level == .system) with | .ok () => true | .error _ => false)

/-! ## What a step leaves alone -/

/-- The two states agree but for context g. -/
def onlyCtx (s t : State) (g : Nat) : Prop := t = { s with ctxs := t.ctxs } ∧ ∀ h, h ≠ g → t.ctxAt h = s.ctxAt h

/-- What an instruction that works on registers alone may change in its context: registers, pc, and what a trap or a wait writes. -/
def Ctx.likeButRegs (c d : Ctx) : Prop :=
  d = { c with regs := d.regs, pc := d.pc, level := d.level, tpc := d.tpc, tcause := d.tcause, tval := d.tval, tsav := d.tsav, wait := d.wait, phase := d.phase, stepping := d.stepping }

/-- The exception registers and the level are unchanged, or a trap has been entered (R74). -/
def Ctx.excKept (c d : Ctx) : Prop :=
  (d.level = c.level ∧ d.tpc = c.tpc ∧ d.tcause = c.tcause ∧ d.tval = c.tval ∧ d.tsav = c.tsav) ∨
  (d.level = .system ∧ d.tpc = c.pc.setWidth 64)

/-- Every register but those at the places given, and those whose recorded fault is reported, is unchanged. -/
def Ctx.regsKept (c d : Ctx) (ks : List Nat) : Prop := ∀ k, k ∉ ks → (c.regAt k).fault = none → d.regAt k = c.regAt k

/-- Every byte outside [loc, loc + n) reads as before. -/
def memKept (s t : State) (loc n : Nat) : Prop := ∀ a, a < loc ∨ loc + n ≤ a → Memory.read t.mem a = Memory.read s.mem a

/-! ## The invariant -/

/-- Memory is in its canonical form. -/
def State.Inv (s : State) : Prop := Memory.wf s.mem = true

end Sys2Proof.Machine
end

