-- ==== Sys2Proof/Certificates/Slice0/Obligations.lean ====
section
/-! DEFINITION. Obligations.lean: the statements for the provers, with the words of the spec's results that they use. -/

open Sys2Proof Sys2Proof.Machine

/-! ## Scalar integers (R106 to R110) -/

namespace Sys2Proof.Spec

/-- The two-source instructions of R106, each with its result as the rule states it. -/
def scalarTwo : List ((Ops → Instr) × (Word → Word → Word)) := [
  (.add, fun x y => BitVec.ofInt 64 (x.toInt + y.toInt)),
  (.sub, fun x y => BitVec.ofInt 64 (x.toInt - y.toInt)),
  (.andR, fun x y => x &&& y),
  (.orR, fun x y => x ||| y),
  (.xorR, fun x y => x ^^^ y),
  (.shl, fun x y => BitVec.ofNat 64 (x.toNat * 2 ^ (y.toNat % 64))),
  (.shr, fun x y => BitVec.ofNat 64 (x.toNat / 2 ^ (y.toNat % 64))),
  (.sra, fun x y => BitVec.ofInt 64 (x.toInt / 2 ^ (y.toNat % 64))),
  (.mul, fun x y => BitVec.ofInt 64 (x.toInt * y.toInt)),
  (.mulh, fun x y => BitVec.ofInt 64 (x.toInt * y.toInt / 2 ^ 64)),
  (.mulhu, fun x y => BitVec.ofNat 64 (x.toNat * y.toNat / 2 ^ 64))] ++ [
  (.div, fun x y => if y = 0 then BitVec.ofInt 64 (-1) else BitVec.ofInt 64 (x.toInt.tdiv y.toInt)),
  (.divu, fun x y => if y = 0 then BitVec.ofInt 64 (-1) else BitVec.ofNat 64 (x.toNat / y.toNat)),
  (.rem, fun x y => if y = 0 then x else BitVec.ofInt 64 (x.toInt.tmod y.toInt)),
  (.remu, fun x y => if y = 0 then x else BitVec.ofNat 64 (x.toNat % y.toNat)),
  (.seq, fun x y => if x = y then 1 else 0),
  (.slt, fun x y => if x.toInt < y.toInt then 1 else 0),
  (.sltu, fun x y => if x.toNat < y.toNat then 1 else 0),
  (.minR, fun x y => if x.toInt < y.toInt then x else y),
  (.maxR, fun x y => if x.toInt < y.toInt then y else x),
  (.minu, fun x y => if x.toNat < y.toNat then x else y),
  (.maxu, fun x y => if x.toNat < y.toNat then y else x)]

/-- The immediate instructions of R109, each with its result. -/
def scalarImm : List ((Ops → Instr) × (Word → Word → Word)) := [
  (.addi, fun x v => BitVec.ofInt 64 (x.toInt + v.toInt)),
  (.andi, fun x v => x &&& v),
  (.ori, fun x v => x ||| v),
  (.xori, fun x v => x ^^^ v),
  (.shli, fun x v => BitVec.ofNat 64 (x.toNat * 2 ^ (v.toNat % 64))),
  (.shri, fun x v => BitVec.ofNat 64 (x.toNat / 2 ^ (v.toNat % 64))),
  (.srai, fun x v => BitVec.ofInt 64 (x.toInt / 2 ^ (v.toNat % 64)))]

/-- The number of the highest 1 bit and all below it. -/
def bitLength (x : Word) : Nat := if x = 0 then 0 else Nat.log2 x.toNat + 1

/-- The count instructions of R106. -/
def scalarCount : List ((Ops → Instr) × (Word → Word)) := [
  (.clz, fun y => BitVec.ofNat 64 (64 - bitLength y)),
  (.popc, fun y => BitVec.ofNat 64 ((List.range 64).filter (fun i => y.getLsbD i)).length)]

end Sys2Proof.Spec

/-- Every two-source instruction of R106 completes on readable numbers: gD takes the result that the rule states, the upper half zero and
the tag DATA, and the pc moves to the next instruction; with g0 as the destination nothing is written. -/
def Obligations.ScalarTwoSources : Prop :=
  ∀ (p : (Ops → Instr) × (Word → Word → Word)) (o : Ops) (s : State), p ∈ Sys2Proof.Spec.scalarTwo →
    s.me.ready [o.d.toNat, o.a.toNat, o.b.toNat] = true → s.me.numbers [o.a.toNat, o.b.toNat] = true →
    exec (p.1 o) s = .next (s.put o.d (p.2 (s.lo o.a) (s.lo o.b))).endNext

/-- The immediate forms of R109, and CLZ and POPC of R106, complete with the stated result. SEL (R108), LI (R97) and MOV (R96) complete: SEL
gives source a when the old destination is not zero, else source b; LI gives the extended immediate; MOV copies the window with its tags. -/
def Obligations.ScalarImmediatesCountsAndMoves : Prop :=
  (
    (∀ (p : (Ops → Instr) × (Word → Word → Word)) (o : Ops) (s : State), p ∈ Sys2Proof.Spec.scalarImm →
      s.me.ready [o.d.toNat, o.a.toNat] = true → s.me.numbers [o.a.toNat] = true →
      exec (p.1 o) s = .next (s.put o.d (p.2 (s.lo o.a) o.imm)).endNext) ∧
    (∀ (p : (Ops → Instr) × (Word → Word)) (o : Ops) (s : State), p ∈ Sys2Proof.Spec.scalarCount →
      s.me.ready [o.d.toNat, o.b.toNat] = true → s.me.numbers [o.b.toNat] = true →
      exec (p.1 o) s = .next (s.put o.d (p.2 (s.lo o.b))).endNext)) ∧
  (
    (∀ (o : Ops) (s : State), s.me.ready [o.d.toNat, o.a.toNat, o.b.toNat] = true → s.me.numbers [o.d.toNat, o.a.toNat, o.b.toNat] = true →
      exec (.sel o) s = .next (s.put o.d (if s.lo o.d = 0 then s.lo o.b else s.lo o.a)).endNext) ∧
    (∀ (o : Ops) (s : State), s.me.ready [o.d.toNat] = true → exec (.li o) s = .next (s.put o.d o.imm).endNext) ∧
    (∀ (o : Ops) (s : State), s.me.ready (span o.d (2 ^ o.l.toNat) ++ span o.b (2 ^ o.l.toNat)) = true →
      exec (.mov o) s = .next (s.putL o.d (s.win o.b (2 ^ o.l.toNat))).endNext))

namespace Sys2Proof.Spec

/-- The instructions that write one general register and touch nothing else: R96 (length 1), R97, R106, R108, R109. -/
def oneRegister : List (Ops → Instr) :=
  scalarTwo.map (·.1) ++ scalarImm.map (·.1) ++ scalarCount.map (·.1) ++ [.sel, .li, .tagof, .mpopc, .mfirst, .mget]

end Sys2Proof.Spec

/-- The frame of the instructions that write one general register. Whatever they do next (complete, wait or trap), they change no memory, no
other context, core or unit, and in their own context only gD, the pc, and what a trap or wait writes. -/
def Obligations.ScalarFrame : Prop :=
  ∀ (i : Ops → Instr) (o : Ops) (s t : State), i ∈ Sys2Proof.Spec.oneRegister → exec (i o) s = .next t →
    s.me.doubleTrap = false → s.me.phase = .idle →
    onlyCtx s t s.cur ∧ s.me.likeButRegs t.me ∧ s.me.excKept t.me ∧ s.me.regsKept t.me [s.me.ix o.d.toNat]

namespace Sys2Proof.Spec

/-- The blocked wait for an EMPTY register (R59, R88): of kind 3 on the lowest tag of the receive that the register is pending from (R248; log 9),
of kind 6 else. -/
def emptyWait (s : State) (n : Nat) : State :=
  match s.me.recvOf (s.me.ix n) with
  | some v => s.blocked 3 (lowestTag v.mask) (n + 1)
  | none => s.blocked 6 0 (n + 1)

end Sys2Proof.Spec

/-- The register checks of R88 come first and in its order, for every instruction of the scalar families with sources a and b: a LEASED
register raises LEASE with its number; then a recorded fault is raised, which consumes the record: every register of the load's destination
that still holds it is FULL, zero and DATA (R87); then an EMPTY source a, or b, whose policy is trap raises EMPTY with its number; then the
instruction waits for an EMPTY source a, then b, and last for an EMPTY destination, in a blocked wait of kind 3 where the register is
pending from MRECV and of kind 6 else (R248). That the object of a wait on several tags is the lowest of them is the model's choice (log 9). -/
def Obligations.RegisterChecks : Prop :=
  ∀ (p : (Ops → Instr) × (Word → Word → Word)) (o : Ops) (s : State), p ∈ Sys2Proof.Spec.scalarTwo →
    let ns := [o.d.toNat, o.a.toNat, o.b.toNat]
    let empty (n : RegNo) : Prop := (s.me.reg n.toNat).pres = .empty
    (∀ n, ns.find? (fun n => (s.me.reg n).pres == .leased) = some n →
      exec (p.1 o) s = .next (s.takeTrap s.cur .lease (BitVec.ofNat 64 n) false s.ilen)) ∧
    (ns.all (fun n => (s.me.reg n).pres != .leased) = true → ∀ n f, ns.find? (fun n => (s.me.reg n).fault.isSome) = some n →
      (s.me.reg n).fault = some f →
      let t := s.updMe (fun c => c.consume (c.ix n))
      exec (p.1 o) s = .next (t.takeTrap s.cur f.cause f.val false s.ilen) ∧
      ∀ k, t.me.regAt k = if k = s.me.ix n ∨ (k ∈ (s.me.reg n).window ∧ (s.me.regAt k).fault = some f ∧ (s.me.regAt k).window = (s.me.reg n).window)
        then {} else s.me.regAt k) ∧
    (ns.all (fun n => (s.me.reg n).pres != .leased && (s.me.reg n).fault.isNone) = true →
      (empty o.a → o.epa = true → exec (p.1 o) s = .next (s.takeTrap s.cur .empty (BitVec.ofNat 64 o.a.toNat) false s.ilen)) ∧
      (empty o.b → o.epb = true → (empty o.a → o.epa = false) →
        exec (p.1 o) s = .next (s.takeTrap s.cur .empty (BitVec.ofNat 64 o.b.toNat) false s.ilen)) ∧
      (empty o.a → o.epa = false → (empty o.b → o.epb = false) → exec (p.1 o) s = .next (Sys2Proof.Spec.emptyWait s o.a.toNat)) ∧
      (¬ empty o.a → empty o.b → o.epb = false → exec (p.1 o) s = .next (Sys2Proof.Spec.emptyWait s o.b.toNat)) ∧
      (¬ empty o.a → ¬ empty o.b → empty o.d → exec (p.1 o) s = .next (Sys2Proof.Spec.emptyWait s o.d.toNat)))

/-! ## Control transfers (R65 to R69) -/

namespace Sys2Proof.Spec

/-- The conditional branches on a register (R66). -/
def branches : List ((Ops → Instr) × (Word → Bool)) := [
  (.bz, fun x => x.toNat == 0), (.bnz, fun x => x.toNat != 0), (.bltz, fun x => decide (x.toInt < 0)), (.bgez, fun x => decide (0 ≤ x.toInt))]

/-- The branches on a mask (R66). -/
def maskBranches : List ((Ops → Instr) × (BitVec 16 → Bool)) := [
  (.many, fun m => m.toNat != 0), (.mall, fun m => m.toNat == 65535)]

end Sys2Proof.Spec

/-- Branches (R66): when the condition holds the pc moves by twice the displacement from the start of the chain, else to the next
instruction; B always transfers; JR transfers to an even address. CALL and CALLR push the address of the next instruction and transfer; RET
pops it (R66 to R68), with fewer than eight entries held by the context and at least one. a ninth CALL or CALLR spills the oldest of the
eight entries to the spill area, little-endian at the spill pointer, which moves up by 8 (R68); the address transferred to and the address
pushed are those of the instruction. RET with no entry left and the pointer above BASE refills from the 8 bytes below the pointer, which
moves down by 8; a refilled odd address raises ALIGN (R69). A spill area that is not aligned or reaches past the scratchpad, and a pointer
outside its limits, raise STK with the pointer, for the spill and for the refill. -/
def Obligations.ControlTransfers : Prop :=
  (
    (∀ (p : (Ops → Instr) × (Word → Bool)) (o : Ops) (s : State), p ∈ Sys2Proof.Spec.branches →
      s.me.ready [o.a.toNat] = true → s.me.numbers [o.a.toNat] = true →
      exec (p.1 o) s = .next (s.endAt (if p.2 (s.lo o.a) then s.me.pc + (2 * o.imm).setWidth 56 else s.nextPc))) ∧
    (∀ (p : (Ops → Instr) × (BitVec 16 → Bool)) (o : Ops) (s : State), p ∈ Sys2Proof.Spec.maskBranches →
      exec (p.1 o) s = .next (s.endAt (if p.2 (s.me.mask o.a.toNat) then s.me.pc + (2 * o.imm).setWidth 56 else s.nextPc))) ∧
    (∀ (o : Ops) (s : State), exec (.b o) s = .next (s.endAt (s.me.pc + (2 * o.imm).setWidth 56))) ∧
    (∀ (o : Ops) (s : State), s.me.ready [o.a.toNat] = true → s.me.numbers [o.a.toNat] = true → (s.lo o.a).getLsbD 0 = false →
      exec (.jr o) s = .next (s.endAt ((s.lo o.a).setWidth 56)))) ∧
  (
    (∀ (o : Ops) (s : State), s.me.rstack.length < 8 →
      exec (.call o) s = .next ((s.updMe (fun c => { c with rstack := s.nextPc :: c.rstack })).endAt (s.me.pc + (2 * o.imm).setWidth 56))) ∧
    (∀ (o : Ops) (s : State), s.me.rstack.length < 8 → s.me.ready [o.a.toNat] = true → s.me.numbers [o.a.toNat] = true →
      (s.lo o.a).getLsbD 0 = false →
      exec (.callr o) s = .next ((s.updMe (fun c => { c with rstack := s.nextPc :: c.rstack })).endAt ((s.lo o.a).setWidth 56))) ∧
    (∀ (s : State) (v : PcAddr) (rest : List PcAddr), s.me.rstack = v :: rest →
      exec .ret s = .next ((s.updMe (fun c => { c with rstack := rest })).endAt v))) ∧
  (
    ∀ (o : Ops) (s : State),
      let sp := s.me.sp
      let stk := s.takeTrap s.cur .stk sp false s.ilen
      let area := s.me.rsbBase % 8 = 0 ∧ s.me.rsbLim % 8 = 0 ∧ s.me.rsbLim ≤ 0x80000
      (∀ old, s.me.rstack.length = 8 → s.me.rstack.getLast? = some old → area → sp.toNat + 8 ≤ s.me.rsbLim → s.free sp 8 true = true →
        let t := (ownWrite s sp (leBytes 8 old.toNat)).updMe (fun c => { c with rstack := s.nextPc :: c.rstack.dropLast, sp := c.sp + 8 })
        exec (.call o) s = .next (t.endAt (s.me.pc + (2 * o.imm).setWidth 56)) ∧
        (s.me.ready [o.a.toNat] = true → s.me.numbers [o.a.toNat] = true → (s.lo o.a).getLsbD 0 = false →
          exec (.callr o) s = .next (t.endAt ((s.lo o.a).setWidth 56)))) ∧
      (s.me.rstack.length = 8 → ¬ (area ∧ sp.toNat + 8 ≤ s.me.rsbLim) →
        exec (.call o) s = .next stk ∧
        (s.me.ready [o.a.toNat] = true → s.me.numbers [o.a.toNat] = true → exec (.callr o) s = .next stk)) ∧
      (s.me.rstack = [] → sp.toNat ≠ s.me.rsbBase → area → s.me.rsbBase + 8 ≤ sp.toNat → sp.toNat ≤ s.me.rsbLim →
        s.free (sp - 8) 8 false = true →
        let v : Word := BitVec.ofNat 64 (leVal (ownRead s (sp - 8) 8))
        (v.getLsbD 0 = false → exec .ret s = .next ((s.updMe (fun c => { c with sp := c.sp - 8 })).endAt (v.setWidth 56))) ∧
        (v.getLsbD 0 = true → exec .ret s = .next (s.takeTrap s.cur .align ((v.setWidth 56).setWidth 64) false s.ilen))) ∧
      (s.me.rstack = [] → sp.toNat ≠ s.me.rsbBase → ¬ (area ∧ s.me.rsbBase + 8 ≤ sp.toNat ∧ sp.toNat ≤ s.me.rsbLim) →
        exec .ret s = .next stk))

/-! ## Exceptions (R74 to R78) -/

/-- TRAP (R77) is op6 0x39 with a = 0 and an unsigned immediate; it raises SYS with TVAL = the immediate and TSAV.ILEN = its length. `TRAP
7` is 0xE407. (BRK of R65 raises BRK with TVAL = 0 in the same way.) -/
def Obligations.SystemCall : Prop :=
  (∀ (o : Ops) (s : State), exec (.trap o) s = .next (s.takeTrap s.cur .sys o.imm false s.ilen)) ∧
  (∀ (o : Ops) (s t : State), s.me.doubleTrap = false → s.ilen < 8 → exec (.trap o) s = .next t →
    t.me.tval = o.imm ∧ fld t.me.tcause 7 0 = 0x18 ∧ bitAt t.me.tcause 8 = false ∧ fld t.me.tsav 2 0 = s.ilen) ∧
  (∀ x : Nat, x < 32 → decode [BitVec.ofNat 16 (0x39 * 1024 + x)] = .ok (.trap { imm := BitVec.ofNat 64 x }) 1) ∧
  (∀ x y : Nat, x < 1024 → y < 32 → decode [BitVec.ofNat 16 (0xF000 + x), BitVec.ofNat 16 (0x39 * 1024 + y)] =
    .ok (.trap { imm := BitVec.ofNat 64 (x * 32 + y) }) 2) ∧
  (∀ a y : Nat, 1 ≤ a → a < 32 → y < 32 → ∀ rest, decode (BitVec.ofNat 16 (0x39 * 1024 + a * 32 + y) :: rest) =
    .trap .ill (offend (BitVec.ofNat 16 (0x39 * 1024 + a * 32 + y)) 1) 1) ∧
  decode [0xE407] = .ok (.trap { imm := 7 }) 1 ∧
  (∀ s : State, exec .brk s = .next (s.takeTrap s.cur .brk 0 false s.ilen))

/-- NOP, HB and WFE (R58, R60, R65): NOP only moves the pc; HB reloads the heartbeat counter from HBI and ends a missed state of the
context; WFE ends when the event bit is set, clears it, and else waits. ERET (R75) at system level resumes at TPC, with the level in
TSAV.PLV, and arms single step when SS is set, or, when it is itself the one instruction of a single step, makes the BRK due (which the spec
leaves open: the model's choice, log 33); at user level it raises PRIV, and an odd TPC raises ALIGN. -/
def Obligations.ZGroup : Prop :=
  (
    (∀ s : State, exec .nop s = .next s.endNext) ∧
    (∀ s : State, exec .hb s = .next (s.updMe (fun c =>
      let n := fld c.hbi 31 0
      { c with hb := if n = 0 ∨ 1200000 < n then 1200000 else n, missed := false })).endNext) ∧
    (∀ s : State, s.me.event = true → exec .wfe s = .next (s.updMe (fun c => { c with event := false })).endNext) ∧
    (∀ s : State, s.me.event = false → exec .wfe s = .next (s.blocked 6 0 0))) ∧
  (
    (∀ s : State, s.me.level = .system → s.me.tpc.getLsbD 0 = false →
      exec .eret s = .next (s.updMe (fun c => { c with
        pc := c.tpc.setWidth 56, level := if bitAt c.tsav 3 then .system else .user,
        stepping := if c.stepping = .armed then .due else if bitAt c.tsav 6 then .armed else .off, wait := none, phase := .idle }))) ∧
    (∀ s : State, s.me.level = .system → s.me.tpc.getLsbD 0 = true → exec .eret s = .next (s.takeTrap s.cur .align s.me.tpc false s.ilen)) ∧
    (∀ s : State, s.me.level = .user → exec .eret s = .next (s.takeTrap s.cur .priv 0 false s.ilen)))

namespace Sys2Proof.Spec

/-- The 32 bytes of a fault message about context g (R64): CID and context, kind, cause, the context's pc, its launch and the clock. -/
def faultText (s : State) (g kind cause : Nat) (bs : List Byte) : Prop :=
  bs.length = 32 ∧ recNat bs 0 2 = g / 4 + g % 4 * 2 ^ 11 ∧ recNat bs 2 1 = kind ∧ recNat bs 3 1 = cause ∧ recNat bs 4 4 = 0 ∧
  recNat bs 8 8 = (s.ctxAt g).pc.toNat ∧ recNat bs 16 8 = (s.ctxAt g).lid.toNat ∧ recNat bs 24 8 = s.cyc.toNat

/-- A fault message with those bytes is on its way to tag 15 of a core (R64). -/
def faultSent (t : State) (g to_ : Nat) (bs : List Byte) : Prop :=
  ∃ m ∈ t.net, ∃ p, m.g = g ∧ m.body = .packet p ∧ p.to_ = to_ ∧ p.tag = 15 ∧ p.bytes = bs

end Sys2Proof.Spec

open Sys2Proof.Spec in
/-- Taking an exception (R74): TPC holds the pc, TCAUSE the code with AS, TVAL the value, TSAV the length and the interrupted level; the
level becomes system, and the pc the vector of the cause at TVEC.VB. Memory and every register stay. a trap taken at system level while
TSAV.SVD is clear, or without a vector base, abandons the firing (R76): the context takes no trap and is free, with no program, stream,
query or pending receive left; a fault message of kind 3 with the cause leaves for tag 15 of the supervisor, with a copy for the command
processor, and none for a neighbour (R64); the actor that ran is disabled; no token moves; and of the firing's engine operations only those
that run stay (the model's reading of MSTAT.ABORT, log 11). The pc in the message is the context's pc (the model's choice, log 44), and the
firing's queued stores stay to drain (the model's choice, log 54). -/
def Obligations.ExceptionEntryAndDoubleTrap : Prop :=
  (
    ∀ (s : State) (g : Nat) (c : Cause) (v : Word) (as : Bool) (n : Nat), n < 8 → (s.ctxAt g).doubleTrap = false → (s.ctxAt g).phase = .idle →
      let t := s.takeTrap g c v as n
      let d := t.ctxAt g
      d.tpc = (s.ctxAt g).pc.setWidth 64 ∧ fld d.tcause 7 0 = c.code.toNat ∧ bitAt d.tcause 8 = as ∧ d.tcause.toNat < 512 ∧ d.tval = v ∧
      fld d.tsav 2 0 = n ∧ bitAt d.tsav 3 = ((s.ctxAt g).level == .system) ∧ d.tsav.toNat < 16 ∧ d.level = .system ∧
      d.pc = BitVec.ofNat 56 (fld (s.ctxAt g).tvec 55 6 * 64 + c.code.toNat * 64) ∧
      d.regs = (s.ctxAt g).regs ∧ d.masks = (s.ctxAt g).masks ∧ t.mem = s.mem) ∧
  (
    ∀ (s : State) (g : Nat) (c : Cause) (v : Word) (as : Bool) (n : Nat), g < 8192 → (s.ctxAt g).doubleTrap = true →
      let t := s.takeTrap g c v as n
      let d := t.ctxAt g
      let k := t.coreAt (g / 4)
      let to_ := if g / 4 % 16 = 0 then g / 4 + 1 else g / 4 / 16 * 16
      t = s.abandon g 3 c.code.toNat ∧
      (∃ bs, faultText s g 3 c.code.toNat bs ∧ faultSent t g to_ bs ∧ ∃ m ∈ t.net, m.g = g ∧ m.body = .faultCopy bs) ∧
      (∀ m p, m ∈ t.net → m ∉ s.net → m.body = .packet p → p.to_ = to_) ∧
      (∀ i a, (s.coreAt (g / 4)).actors.find i = some a → a.ctx = some (g % 4) → k.actors.find i = some { a with en := false, ctx := none }) ∧
      k.rings = (s.coreAt (g / 4)).rings ∧
      (∀ e ∈ k.equeue, e.mine g (s.ctxAt g).fire = true → e.started = true ∧ e.fin = false ∧ e.susp = none) ∧
      d.busy = false ∧ (s.ctxAt g).fire < d.fire ∧ d.prog = none ∧ d.stream = none ∧ d.queries = [] ∧ d.recvs = [] ∧ d.storeq = (s.ctxAt g).storeq)

/-! ## Capabilities and state registers (R92 to R102) -/

namespace Sys2Proof.Spec

/-- A capability with its fields as the two registers hold them (R92). -/
def capRegs (c : Cap) : List (Quad × Tag) := [(c.head, .caph), (c.tail, .capt)]

end Sys2Proof.Spec

/-- The capability instructions (R98) complete on a capability and a number: CINC and CINCI move CUR, CSETB narrows the bounds to [CUR, CUR
+ length) where these lie within the old ones, CPERM clears permission bits, and CGETA gives the bits as DATA. No other field changes, so no
capability ever grows. -/
def Obligations.CapabilityInstructions : Prop :=
  ∀ (o : Ops) (s : State),
    (s.me.ready (span o.d 2 ++ span o.a 2 ++ [o.b.toNat]) = true → s.me.holdsCap o.a = true → s.me.numbers [o.b.toNat] = true →
      let c := s.capAt o.a
      exec (.cinc o) s = .next (s.putL o.d (Sys2Proof.Spec.capRegs { c with cur := c.cur + s.lo o.b })).endNext ∧
      exec (.cperm o) s = .next (s.putL o.d (Sys2Proof.Spec.capRegs { c with prm := c.prm &&& (s.lo o.b).setWidth 8 })).endNext ∧
      (c.base.toNat ≤ c.cur.toNat → c.cur.toNat + (s.lo o.b).toNat ≤ c.lim.toNat →
        exec (.csetb o) s = .next (s.putL o.d (Sys2Proof.Spec.capRegs { c with base := c.cur, lim := c.cur + s.lo o.b })).endNext)) ∧
    (s.me.ready (span o.d 2 ++ span o.a 2) = true → s.me.holdsCap o.a = true →
      exec (.cinci o) s = .next (s.putL o.d (Sys2Proof.Spec.capRegs { s.capAt o.a with cur := (s.capAt o.a).cur + o.imm })).endNext) ∧
    (s.me.ready (span o.d 2 ++ span o.b 2) = true → s.me.holdsCap o.b = true →
      exec (.cgeta o) s = .next (s.putL o.d ((s.win o.b 2).map (fun v => (v.1, .data)))).endNext)

/-- TAGOF (R99) reports the tag of its source, whether it is EMPTY, whether NBARM has armed it and whether it holds a recorded fault, with
zeros above; the result is DATA. It does not wait on an EMPTY source, raises neither EMPTY nor its recorded fault, and EPB changes nothing;
a LEASED source raises LEASE. That it completes too where its destination is that same EMPTY or faulted register is the model's choice (log
52). `TAGOF g5, g8` is 0xD8A8. -/
def Obligations.TagReport : Prop :=
  (∀ (o : Ops) (s : State), (s.me.reg o.b.toNat).pres ≠ .leased → (s.me.reg o.d.toNat).pres ≠ .leased →
    (o.d = o.b ∨ s.me.ready [o.d.toNat] = true) →
    exec (.tagof o) s = .next (s.put o.d (BitVec.ofNat 64 ((s.me.reg o.b.toNat).tag.code +
      (if (s.me.reg o.b.toNat).pres = .empty then 4 else 0) + (if (s.me.reg o.b.toNat).armed = none then 0 else 8) +
      (if (s.me.reg o.b.toNat).fault = none then 0 else 16)))).endNext) ∧
  (∀ (o : Ops) (s : State), (s.me.reg o.d.toNat).pres ≠ .leased → (s.me.reg o.b.toNat).pres = .leased →
    exec (.tagof o) s = .next (s.takeTrap s.cur .lease (BitVec.ofNat 64 o.b.toNat) false s.ilen)) ∧
  decode [0xD8A8] = .ok (.tagof { d := 5, b := 8 }) 1

namespace Sys2Proof.Spec

/-- The numbers that only system level reads and writes (R100, R102). -/
def sysOnly : List Nat := [0x05, 0x06, 0x07, 0x08, 0x09, 0x0A, 0x0B, 0x0C, 0x13]

end Sys2Proof.Spec

namespace Sys2Proof.Spec

/-- The registers that SWR writes field by field, with the bits that it writes (R61, R62, R74, R102, R138, R374): FCS, HBI, WTO, RSB, TCAUSE, TVAL,
TPC, TVEC, TSAV, TAGS and PATH. -/
def writable : List (Nat × Word) := [
  (0x01, 0x1F7), (0x05, 0xFFFFFFFF), (0x06, 0xFFFFFFFFFF), (0x07, BitVec.allOnes 64), (0x08, 0x1FF), (0x09, BitVec.allOnes 64),
  (0x0A, 0xFFFFFFFFFFFFFF), (0x0B, 0xFFFFFFFFFFFFC0), (0x0C, 0x7F), (0x0D, 0xFFFF), (0x13, 0x7F)]

end Sys2Proof.Spec

/-- SRD and SWR (R100): at user level a register with a SYS field raises PRIV with its number, before the register checks of R88 (that order
is the model's choice, log 33); else SRD gives the register's value and SWR has its effect, on a bank format once no store of the core is
queued (R177). what the state registers read as, and what SWR leaves in them (R61, R62, R74, R100 to R102, R138, R146, R162, R163, R233,
R374): FCS, HBI, WTO, RSB, TCAUSE, TVAL, TPC, TVEC, TSAV, TAGS and PATH read back with the writable bits of the value and their other bits
as before; PRC too, a length code above 27 as 27; a bank format too, but a reserved code leaves FMT as it was; ILD takes its base and as
many slots as fit, unless messages are in the ring or a receive of the core is pending; CYC, LID, CID, CTLW, ENG, VDS, the lock table, the
field slots and the reserved numbers are not written. -/
def Obligations.StateRegisters : Prop :=
  (
    (∀ (o : Ops) (s : State), s.me.level = .user → o.imm.toNat ∈ Sys2Proof.Spec.sysOnly →
      exec (.srd o) s = .next (s.takeTrap s.cur .priv o.imm false s.ilen) ∧
      exec (.swr o) s = .next (s.takeTrap s.cur .priv o.imm false s.ilen)) ∧
    (∀ (o : Ops) (s : State), s.me.level = .system ∨ o.imm.toNat ∉ Sys2Proof.Spec.sysOnly →
      (s.me.ready [o.d.toNat] = true → exec (.srd o) s = .next (s.put o.d (s.sreg o.imm.toNat)).endNext) ∧
      (s.me.ready [o.a.toNat] = true → s.me.numbers [o.a.toNat] = true →
        (0x20 ≤ o.imm.toNat → o.imm.toNat < 0x30 → s.anyQueued s.cid 0 (2 ^ 19) = false) →
        exec (.swr o) s = .next (s.writeSreg o.imm.toNat (s.lo o.a)).endNext))) ∧
  (
    ∀ (s : State) (v : Word),
      (∀ p, p ∈ Sys2Proof.Spec.writable → (s.writeSreg p.1 v).sreg p.1 = (s.sreg p.1 &&& ~~~p.2) ||| (v &&& p.2)) ∧
      (s.writeSreg 0x02 v).sreg 0x02 = (s.sreg 0x02 &&& ~~~0x1FF1F) ||| (v &&& 0x1FF00) ||| BitVec.ofNat 64 (min (v.toNat % 32) 27) ∧
      (∀ i, i < 16 → (s.writeSreg (0x20 + i) v).sreg (0x20 + i) =
        let m : Word := if v.toNat % 32 < 16 then 0xF07FFFF1F else 0xF07FFFF00
        (s.sreg (0x20 + i) &&& ~~~m) ||| (v &&& m)) ∧
      (s.myCore.inbox = [] → (∀ i, i < 4 → (s.ctxAt (4 * s.cid + i)).recvs = []) →
        let base := v.toNat / 2 ^ 4 % 2 ^ 15 * 16
        (s.writeSreg 0x0E v).sreg 0x0E = BitVec.ofNat 64 (base + min (v.toNat / 2 ^ 20 % 2 ^ 10) ((0x80000 - base) / 144) * 2 ^ 20)) ∧
      (s.myCore.inbox ≠ [] ∨ (∃ i, i < 4 ∧ (s.ctxAt (4 * s.cid + i)).recvs ≠ []) → s.writeSreg 0x0E v = s) ∧
      (∀ n, n ∈ [0x00, 0x03, 0x04, 0x0F, 0x11, 0x12] ∨ (0x14 ≤ n ∧ n < 0x20) ∨ 0x30 ≤ n → s.writeSreg n v = s) ∧
      (∀ n, (0x14 ≤ n ∧ n < 0x20) ∨ 0x44 ≤ n → s.sreg n = 0) ∧ s.sreg 0x00 = s.cyc ∧ s.sreg 0x04 = s.me.lid ∧
      s.sreg 0x03 = BitVec.ofNat 64 (s.cur / 4 + s.cur % 4 * 2 ^ 11 + s.pkgNo * 2 ^ 13))

/-! ## Vectors and masks (R111 to R123) -/

namespace Sys2Proof.Spec

/-- A lane-wise instruction: its constructor by form and type, whether it reads a and the old destination, whether F32 lanes of the ABN
payload class trap, and the result of a lane with its flags. -/
structure LaneForm where
  instr : Bool → VTy → Ops → Instr
  useA : Bool := true
  useD : Bool := false
  abn : VTy → Bool := fun t => t == .f32
  op : VTy → Nat → BitVec 32 → BitVec 32 → BitVec 32 → BitVec 32 × Flags

/-- A lane as the integer its type gives it (R114). -/
def laneValue (t : VTy) (x : BitVec 32) : Int := if t = .i32 then x.toInt else (x.toNat : Int)

/-- An integer result clipped to the range of its type (R115, .SAT). -/
def clip (t : VTy) (v : Int) : BitVec 32 :=
  let lo : Int := if t = .i32 then -2147483648 else 0
  let hi : Int := if t = .i32 then 2147483647 else 4294967295
  BitVec.ofInt 32 (max lo (min hi v))

/-- An integer lane operation, or an F32 one. -/
def byType (int : VTy → BitVec 32 → BitVec 32 → BitVec 32) (flt : Nat → BitVec 32 → BitVec 32 → BitVec 32 × Flags) (t : VTy) (rm : Nat)
    (a b : BitVec 32) : BitVec 32 × Flags := if t = .f32 then flt rm a b else (int t a b, 0)

/-- The bitwise instructions and shifts act on the bits of any type. -/
def bitwise (f : VTy → BitVec 32 → BitVec 32 → BitVec 32) (t : VTy) (_ : Nat) (a b _d : BitVec 32) : BitVec 32 × Flags := (f t a b, 0)

/-- The arithmetic of R115 and R116. -/
def laneForms : List LaneForm := [
  { instr := .vadd false, op := fun t rm a b _ => byType (fun t a b => BitVec.ofInt 32 (laneValue t a + laneValue t b)) f32Add t rm a b },
  { instr := .vadd true, op := fun t rm a b _ => byType (fun t a b => clip t (laneValue t a + laneValue t b)) f32Add t rm a b },
  { instr := .vsub false, op := fun t rm a b _ => byType (fun t a b => BitVec.ofInt 32 (laneValue t a - laneValue t b)) f32Sub t rm a b },
  { instr := .vsub true, op := fun t rm a b _ => byType (fun t a b => clip t (laneValue t a - laneValue t b)) f32Sub t rm a b },
  { instr := .vmul false, op := fun t rm a b _ => byType (fun t a b => BitVec.ofInt 32 (laneValue t a * laneValue t b)) f32Mul t rm a b },
  { instr := .vmul true, op := fun t rm a b _ => byType (fun t a b => BitVec.ofInt 32 (laneValue t a * laneValue t b / 2 ^ 32)) f32Mul t rm a b }] ++ [
  { instr := .vmin, op := fun t rm a b _ => byType (fun t a b => if laneValue t a < laneValue t b then a else b) (fun _ => f32MinMax false) t rm a b },
  { instr := .vmax, op := fun t rm a b _ => byType (fun t a b => if laneValue t a < laneValue t b then b else a) (fun _ => f32MinMax true) t rm a b },
  { instr := .vfma false, useD := true, op := fun t rm a b d => if t = .f32 then f32Fma rm false d a b else (BitVec.ofInt 32 (d.toInt + a.toInt * b.toInt), 0) },
  { instr := .vfma true, useD := true, op := fun t rm a b d => if t = .f32 then f32Fma rm true d a b else (BitVec.ofInt 32 (d.toInt - a.toInt * b.toInt), 0) },
  { instr := .vand, abn := fun _ => false, op := bitwise (fun _ a b => a &&& b) },
  { instr := .vor, abn := fun _ => false, op := bitwise (fun _ a b => a ||| b) },
  { instr := .vxor, abn := fun _ => false, op := bitwise (fun _ a b => a ^^^ b) },
  { instr := .vshl, abn := fun _ => false, op := bitwise (fun _ a b => BitVec.ofNat 32 (a.toNat * 2 ^ (b.toNat % 32))) },
  { instr := .vshr, abn := fun _ => false, op := bitwise (fun t a b =>
      if t = .i32 then BitVec.ofInt 32 (a.toInt / 2 ^ (b.toNat % 32)) else BitVec.ofNat 32 (a.toNat / 2 ^ (b.toNat % 32))) }] ++ [
  { instr := .vabs, useA := false, op := fun t _ _ b _ =>
      (if t = .f32 then b &&& 0x7FFFFFFF else if b.toInt < 0 then BitVec.ofInt 32 (-b.toInt) else b, 0) },
  { instr := .vneg, useA := false, op := fun t _ _ b _ =>
      if t = .f32 then (if isAbn (b ^^^ 0x80000000) then (0x7FC00000, 16) else (b ^^^ 0x80000000, 0)) else (BitVec.ofInt 32 (-b.toInt), 0) },
  { instr := .vdiv false, op := fun t rm a b _ => byType (fun t a b =>
      if b = 0 then BitVec.ofInt 32 (-1) else BitVec.ofInt 32 ((laneValue t a).tdiv (laneValue t b))) f32Div t rm a b },
  { instr := .vdiv true, op := fun t rm a b _ => byType (fun t a b =>
      if b = 0 then a else BitVec.ofInt 32 ((laneValue t a).tmod (laneValue t b))) f32Div t rm a b },
  { instr := fun sc _ => .vsqrt sc, useA := false, abn := fun _ => true, op := fun _ rm _ b _ => f32Sqrt rm b },
  { instr := fun sc _ => .vexp2 sc, useA := false, abn := fun _ => true, op := fun _ rm _ b _ => f32Exp2 rm b }]

/-- The sources of a lane-wise instruction. -/
def LaneForm.sources (f : LaneForm) (o : Ops) : List RegNo := (if f.useA then [o.a] else []) ++ [o.b] ++ (if f.useD then [o.d] else [])

/-- No active lane of the windows is of the ABN payload class (R113). -/
def noAbn (s : State) (act : BitVec 16) (wins : List RegNo) (lanes : Nat) : Bool :=
  (List.range lanes).all (fun i => !bitAt act i || wins.all (fun n => !isAbn (s.me.lane n.toNat i)))

/-- Active lanes of the governing mask, or lane 0 alone in the scalar form (R111, R112). -/
def lanesOn (s : State) (o : Ops) (sc : Bool) : BitVec 16 := if sc then 1 else s.me.mask o.msk.toNat

/-- The active lanes in ascending order. -/
def activeLanes (act : BitVec 16) (l : List (BitVec 32)) : List (BitVec 32) :=
  ((List.range 16).filter (bitAt act ·)).map (fun i => l.getD i 0)

/-- A reduction of R119: the first lane, then each further one combined in order, with the union of the flags. -/
def reduce (f : BitVec 32 → BitVec 32 → BitVec 32 × Flags) : List (BitVec 32) → Option (BitVec 32 × Flags)
  | [] => none
  | x :: t => some (t.foldl (fun r y => let z := f r.1 y; (z.1, r.2 ||| z.2)) (x, 0))

/-- One combination of a reduction (R119). -/
def redPair (op : RedOp) (t : VTy) (rm : Nat) (a b : BitVec 32) : BitVec 32 × Flags :=
  match op with
  | .add => byType (fun t a b => BitVec.ofInt 32 (laneValue t a + laneValue t b)) f32Add t rm a b
  | .min => byType (fun t a b => if laneValue t a < laneValue t b then a else b) (fun _ => f32MinMax false) t rm a b
  | .max => byType (fun t a b => if laneValue t a < laneValue t b then b else a) (fun _ => f32MinMax true) t rm a b
  | .and => (a &&& b, 0)
  | .or => (a ||| b, 0)
  | .xor => (a ^^^ b, 0)

/-- An F32 pattern is a NaN, or a signalling one (R9). -/
def nanBits (x : BitVec 32) : Bool := decide (0x7F800000 < x.toNat % 2 ^ 31)
def sigBits (x : BitVec 32) : Bool := nanBits x && !x.getLsbD 22

/-- The value of an F32 pattern in units of 2^-149, from its sign, exponent and fraction; an infinity stands above every finite value. -/
def f32Exact (x : BitVec 32) : Int :=
  let m := x.toNat % 2 ^ 31
  let v : Nat := if m < 2 ^ 23 then m else (2 ^ 23 + m % 2 ^ 23) * 2 ^ (m / 2 ^ 23 - 1)
  if x.msb then -(v : Int) else (v : Int)

/-- A relation of two values. -/
def holdsRel (q : Rel) (x y : Int) : Bool :=
  match q with
  | .eq => decide (x = y) | .ne => decide (x ≠ y) | .lt => decide (x < y) | .le => decide (x ≤ y) | .gt => decide (x > y) | .ge => decide (x ≥ y)

/-- The relation of R117 on two lanes, with its flags: integers by their values, F32 by the exact ones, so that -0 = +0; a NaN makes every
relation false but .NE, with NV for a signalling one under .EQ and .NE and for any under the others. -/
def relation (q : Rel) (t : VTy) (a b : BitVec 32) : Bool × Flags :=
  if t ≠ .f32 then (holdsRel q (laneValue t a) (laneValue t b), 0)
  else if nanBits a || nanBits b then (q == .ne, if sigBits a || sigBits b || !(q == .eq || q == .ne) then 16 else 0)
  else (holdsRel q (f32Exact a) (f32Exact b), 0)

end Sys2Proof.Spec

open Sys2Proof.Spec in
/-- The lane-wise instructions (R112 to R116) complete on readable numbers with no active ABN lane: an active lane takes the stated result,
an inactive one keeps the destination's, the scalar form writes lane 0 and zeros above, and the flags of the active lanes are set. VCVT
(R120) converts every active lane and completes; a NaN becomes the integer 0 with NV, and a narrowing to BF16, FP16 or FP8 gives the
format's quiet NaN. -/
def Obligations.LaneArithmeticAndConversion : Prop :=
  (
    ∀ (f : LaneForm) (sc : Bool) (t : VTy) (o : Ops) (s : State), f ∈ laneForms →
      let n := if sc then 1 else 4
      let act := lanesOn s o sc
      let r (i : Nat) := f.op t s.me.rm (s.me.lane o.a.toNat i) (s.me.lane o.b.toNat i) (s.me.lane o.d.toNat i)
      s.me.ready (span o.d n ++ (if f.useA then span o.a n else []) ++ span o.b n) = true →
      s.me.numbers ((f.sources o).flatMap (fun w => span w n)) = true →
      (f.abn t = true → noAbn s act (f.sources o) (if sc then 1 else 16) = true) →
      exec (f.instr sc t o) s = .next ((putVec s o.d sc act (fun i => (r i).1)).setFlags (laneFlags act (fun i => (r i).2))).endNext) ∧
  (
    ∀ (k : CvtTo) (sc : Bool) (t : VTy) (o : Ops) (s : State),
      let n := if sc then 1 else 4
      let act := lanesOn s o sc
      let r (i : Nat) := cvtLane k t s.me.rm (s.me.lane o.b.toNat i)
      s.me.ready (span o.d n ++ span o.b n) = true → s.me.numbers (span o.b n) = true →
      (t = .f32 → noAbn s act [o.b] (if sc then 1 else 16) = true) →
      exec (.vcvt k sc t o) s = .next ((putVec s o.d sc act (fun i => (r i).1)).setFlags (laneFlags act (fun i => (r i).2))).endNext ∧
      (∀ i, t = .f32 → (s.me.lane o.b.toNat i).toNat % 2 ^ 31 > 0x7F800000 →
        (k = .i32 ∨ k = .u32 ∨ k = .i32t → r i = (0, 16)) ∧ (k = .bf16 → (r i).1 = 0x7FC0) ∧ (k = .fp16 → (r i).1 = 0x7E00) ∧
        (k = .e5m2 → (r i).1 = 0x7E) ∧ (k = .e4m3 → (r i).1 = 0x7F) ∧ (k = .e2m1 → r i = (0, 16))))

open Sys2Proof.Spec in
/-- The movement instructions (R118) complete: VSEL takes each lane from a or b by the governing mask, VBCAST spreads lane 0 of b, VEXT and
VINS name a lane by b[3:0], VPERM takes lane b_i[3:0] of a, VSLIDE shifts lanes up or down with zeros from outside. -/
def Obligations.LaneMovement : Prop :=
  ∀ (t : VTy) (o : Ops) (s : State), s.me.numbers (span o.a 4 ++ span o.b 4 ++ span o.d 4) = true →
    let a (i : Nat) := s.me.lane o.a.toNat i
    let b (i : Nat) := s.me.lane o.b.toNat i
    let k := (s.lo o.b).toNat
    (s.me.ready (span o.d 4 ++ span o.a 4 ++ span o.b 4) = true →
      exec (.vsel t o) s = .next (s.putLanes o.d ((List.range 16).map (fun i => if bitAt (s.gov o) i then a i else b i))).endNext ∧
      exec (.vperm t o) s = .next (putVec s o.d false (s.gov o) (fun i => a ((b i).toNat % 16))).endNext) ∧
    (s.me.ready (span o.d 4 ++ [o.b.toNat]) = true →
      exec (.vbcast t o) s = .next (putVec s o.d false (s.gov o) (fun _ => b 0)).endNext) ∧
    (s.me.ready (o.d.toNat :: span o.a 4 ++ [o.b.toNat]) = true →
      exec (.vext t o) s = .next (s.putQ o.d ((a (k % 16)).setWidth 128)).endNext) ∧
    (s.me.ready (span o.d 4 ++ [o.a.toNat, o.b.toNat]) = true →
      exec (.vins t o) s = .next (s.putLanes o.d ((List.range 16).map (fun i =>
        if i = k % 16 then a 0 else s.me.lane o.d.toNat i))).endNext) ∧
    (s.me.ready (span o.d 4 ++ span o.a 4 ++ [o.b.toNat]) = true →
      exec (.vslide true t o) s = .next (putVec s o.d false (s.gov o) (fun i => if i + k < 16 then a (i + k) else 0)).endNext ∧
      exec (.vslide false t o) s = .next (putVec s o.d false (s.gov o) (fun i => if k ≤ i then a (i - k) else 0)).endNext)

/-- The merge of R111 and R112, for a window that is aligned and does not start at g0: after the write lane i is the result where the mask
is active and the old lane elsewhere; the scalar form leaves the result in bits [31:0] and zeros above; every register outside the window
keeps its value. -/
def Obligations.LaneMerge : Prop :=
  ∀ (s : State) (d : RegNo) (act : BitVec 16) (r : Nat → BitVec 32), d ≠ 0 →
    (d.toNat % 4 = 0 →
      (∀ i, i < 16 → (putVec s d false act r).me.lane d.toNat i = if act.getLsbD i then r i else s.me.lane d.toNat i) ∧
      (∀ k, (∀ j, j < 4 → k ≠ s.me.ix (d.toNat + j)) → (putVec s d false act r).me.regAt k = s.me.regAt k)) ∧
    ((putVec s d true act r).me.reg d.toNat).bits = (r 0).setWidth 128 ∧
    (∀ k, k ≠ s.me.ix d.toNat → (putVec s d true act r).me.regAt k = s.me.regAt k)

open Sys2Proof.Spec in
/-- VCMP, VRED and VSCAN (R117, R119): VCMP sets bit i of mask c for each active lane whose relation holds and clears the others; VRED
combines the active lanes from lane 0 up, or gives the identity of the operation; VSCAN gives each active lane the value so far. the mask
instructions (R123) complete: MAND, MOR, MXOR, MNOT write a mask (a write to m0 is discarded, m0 reads as all ones), MPOPC and MFIRST count
and find bits (16 when there is none), MSET and MGET move a mask from and to a general register. -/
def Obligations.LaneReductionsAndMasks : Prop :=
  (
    (∀ (q : Rel) (sc : Bool) (t : VTy) (o : Ops) (s : State),
      let n := if sc then 1 else 4
      let act := lanesOn s o sc
      let v (i : Nat) := relation q t (s.me.lane o.a.toNat i) (s.me.lane o.b.toNat i)
      s.me.ready (span o.a n ++ span o.b n) = true → s.me.numbers (span o.a n ++ span o.b n) = true →
      (t = .f32 → noAbn s act [o.a, o.b] (if sc then 1 else 16) = true) →
      ∃ m : BitVec 16, (∀ i, i < 16 → m.getLsbD i = (act.getLsbD i && (v i).1)) ∧
        exec (.vcmp q sc t o) s = .next ((s.updMe (fun c => c.setMask o.c.toNat m)).setFlags (laneFlags act (fun i => (v i).2))).endNext) ∧
    (∀ (op : RedOp) (t : VTy) (o : Ops) (s : State), s.me.numbers (span o.b 4) = true → (t = .f32 → noAbn s (s.gov o) [o.b] 16 = true) →

      (s.me.ready (o.d.toNat :: span o.b 4) = true →
        exec (.vred op t o) s = .next ((s.putQ o.d ((((reduce (redPair op t s.me.rm) (activeLanes (s.gov o) (s.lanes o.b))).map (·.1)).getD
          (redIdent op t)).setWidth 128)).setFlags
            (((reduce (redPair op t s.me.rm) (activeLanes (s.gov o) (s.lanes o.b))).map (·.2)).getD 0)).endNext) ∧
      (s.me.ready (span o.d 4 ++ span o.b 4) = true →
        exec (.vscan op t o) s = .next ((putVec s o.d false (s.gov o) (fun i =>
          ((reduce (redPair op t s.me.rm) (((List.range (i + 1)).filter (bitAt (s.gov o) ·)).map (s.me.lane o.b.toNat ·))).map (·.1)).getD 0)).setFlags
            (((reduce (redPair op t s.me.rm) (activeLanes (s.gov o) (s.lanes o.b))).map (·.2)).getD 0)).endNext))) ∧
  (
    ∀ (o : Ops) (s : State),
      let a := s.me.mask o.a.toNat
      let b := s.me.mask o.b.toNat
      exec (.mand o) s = .next (s.updMe (fun c => c.setMask o.d.toNat (a &&& b))).endNext ∧
      exec (.mor o) s = .next (s.updMe (fun c => c.setMask o.d.toNat (a ||| b))).endNext ∧
      exec (.mxor o) s = .next (s.updMe (fun c => c.setMask o.d.toNat (a ^^^ b))).endNext ∧
      exec (.mnot o) s = .next (s.updMe (fun c => c.setMask o.d.toNat (~~~b))).endNext ∧
      (s.me.ready [o.b.toNat] = true → s.me.numbers [o.b.toNat] = true →
        exec (.mset o) s = .next (s.updMe (fun c => c.setMask o.d.toNat ((s.lo o.b).setWidth 16))).endNext) ∧
      (s.me.ready [o.d.toNat] = true →
        exec (.mget o) s = .next (s.put o.d (b.setWidth 64)).endNext ∧
        exec (.mpopc o) s = .next (s.put o.d (BitVec.ofNat 64 ((List.range 16).filter (fun i => b.getLsbD i)).length)).endNext ∧
        exec (.mfirst o) s = .next (s.put o.d (BitVec.ofNat 64 (((List.range 16).find? (fun i => b.getLsbD i)).getD 16))).endNext))

/-! ## Page-4 and vector memory (R121, R122, R173 to R175, R229, R231, R264, R265) -/

/-- LD, ST, LDC and STC in the own scratchpad (R173, R174) complete: LD extends the little-endian value, LDC gives a capability when the
granule's tag bit is set and DATA otherwise, both as the context sees memory with its queued stores performed (R177); ST queues the low
bytes, STC the granule with its tag bit. -/
def Obligations.OwnAccesses : Prop :=
  ∀ (o : Ops) (s : State), s.me.holdsCap o.b = true →
    let c := s.capAt o.b
    let a := c.cur + o.imm
    let loc := spad s.cid (a.toNat % 2 ^ 19)
    s.isOwn c.spc a = true →
    (∀ (sg : Bool) (z : Sz),
      let n := szBytes z
      (s.me.ready (o.d.toNat :: span o.b 2) = true → s.reaches c a n [pRD] [0, 1, 2] n = true → s.free a n false = true →
        exec (.ld sg z o) s = .next (s.putQ o.d (if sg && n != 16 then (BitVec.ofInt 64 (sxNat (8 * n) (s.mine.numAt loc n))).setWidth 128
          else BitVec.ofNat 128 (s.mine.numAt loc n))).endNext) ∧
      (s.me.ready (o.a.toNat :: span o.b 2) = true → s.me.storable [o.a.toNat] = true → s.reaches c a n [pWR] [0, 1, 2] n = true →
        s.free a n true = true →
        exec (.st z o) s = .next (ownWrite s a (leBytes n (s.bits o.a).toNat)).endNext)) ∧
    (s.me.ready (span o.d 2 ++ span o.b 2) = true → s.reaches c a 32 [pRD, pLC] [0, 1, 2] 32 = true → s.free a 32 false = true →
      loc / 32 ∉ s.mine.tagPoison →
      exec (.ldc o) s = .next (s.putL o.d [(BitVec.ofNat 128 (s.mine.numAt loc 32), if loc / 32 ∈ s.mine.tagged then .caph else .data),
        (BitVec.ofNat 128 (s.mine.numAt loc 32 / 2 ^ 128), if loc / 32 ∈ s.mine.tagged then .capt else .data)]).endNext) ∧
    (s.me.ready (span o.a 2 ++ span o.b 2) = true → s.me.holdsCap o.a = true → s.reaches c a 32 [pWR, pSC] [0, 1, 2] 32 = true →
      (bitAt (s.capAt o.a).prm pGL = true ∨ c.spc = 0) → s.free a 32 true = true →
      exec (.stc o) s = .next (s.updMe (fun k => { k with storeq := k.storeq ++ [{
        lid := k.lid, off := a.toNat % 2 ^ 19, kind := .gran
        bytes := leBytes 16 (s.bits o.a).toNat ++ leBytes 16 (s.me.reg (o.a.toNat + 1)).bits.toNat }] })).endNext)

/-- LD and ST outside the own scratchpad (R86, R229, R231, R264, R265): a load makes its destination EMPTY, notes what it waits for and
sends one request to the access's space; a store with room sends its bytes and completes; without room it stays at its instruction. -/
def Obligations.RemoteAccesses : Prop :=
  ∀ (o : Ops) (s : State), s.me.holdsCap o.b = true →
    let c := s.capAt o.b
    let a := c.cur + o.imm
    s.isOwn c.spc a = false → ∀ (sg : Bool) (z : Sz),
    let n := szBytes z
    (s.me.ready (o.d.toNat :: span o.b 2) = true → s.reaches c a n [pRD] [0, 1, 2] n = true → o.d ≠ 0 →
      ∃ t m, exec (.ld sg z o) s = .next t ∧ (t.me.reg o.d.toNat).pres = .empty ∧ t.me.pc = s.nextPc ∧ t.net = s.net ++ [m] ∧ m.g = s.cur ∧
        m.id = s.nextId ∧ (∃ x, m.body = .acc x ∧ x.kind = .load ∧ x.space = c.spc ∧ x.pieces = [{ part := 0, va := a, n := n }]) ∧
        t.me.loads = s.me.loads ++ [{ key := s.nextId, dest := [s.me.ix o.d.toNat], left := 1, how := .raw n sg }] ∧ t.mem = s.mem) ∧
    (s.me.ready (o.a.toNat :: span o.b 2) = true → s.me.storable [o.a.toNat] = true → s.reaches c a n [pWR] [0, 1, 2] n = true →
      (s.room c.spc 1 = true → ∃ t m, exec (.st z o) s = .next t ∧ t.me.pc = s.nextPc ∧ t.net = s.net ++ [m] ∧ m.g = s.cur ∧
        (∃ x, m.body = .acc x ∧ x.kind = .store ∧ x.space = c.spc ∧
          x.pieces = [{ part := 0, va := a, n := n, bytes := leBytes n (s.bits o.a).toNat }]) ∧ t.mem = s.mem ∧ t.me.regs = s.me.regs) ∧
      (s.room c.spc 1 = false → ∃ t, exec (.st z o) s = .next t ∧ t.me.pc = s.me.pc ∧ t.net = s.net ∧ t.mem = s.mem))

namespace Sys2Proof.Spec

/-- The vector loads: instruction, whether a holds lane offsets, and the address of lane i (R121). -/
def vectorLoads : List ((VTy → Ops → Instr) × Bool × (State → Ops → Nat → Word)) := [
  (.vld, false, fun s o i => (s.capAt o.b).cur + o.imm + BitVec.ofNat 64 (4 * i)),
  (.vlds, false, fun s o i => (s.capAt o.b).cur + BitVec.ofNat 64 i * o.imm),
  (.vgth, true, fun s o i => (s.capAt o.b).cur + (s.me.lane o.a.toNat i).signExtend 64)]

/-- The vector stores: instruction, the register of the data, and the address of lane i. -/
def vectorStores : List ((VTy → Ops → Instr) × (Ops → RegNo) × Bool × (State → Ops → Nat → Word)) := [
  (.vst, (·.a), false, fun s o i => (s.capAt o.b).cur + o.imm + BitVec.ofNat 64 (4 * i)),
  (.vsts, (·.a), false, fun s o i => (s.capAt o.b).cur + BitVec.ofNat 64 i * o.imm),
  (.vsct, (·.c), true, fun s o i => (s.capAt o.b).cur + (s.me.lane o.a.toNat i).signExtend 64)]

/-- The active lanes with their addresses. -/
def laneList (s : State) (o : Ops) (f : Nat → Word) : List (Nat × Word) := ((List.range 16).filter (bitAt (s.gov o) ·)).map (fun i => (i, f i))

end Sys2Proof.Spec

open Sys2Proof.Spec in
/-- The vector loads and stores with every active lane in the own scratchpad complete once all lanes pass their checks (R121): a load gives
each active lane the element at its address and keeps the others, with the flags of the conversions of its lanes (R167, R168); a store
queues the lanes in ascending order (R177), with the flags of their conversion. -/
def Obligations.VectorAccesses : Prop :=
  (∀ p (t : VTy) (o : Ops) (s : State), p ∈ vectorLoads →
    let ls := laneList s o (p.2.2 s o)
    s.me.ready (span o.d 4 ++ (if p.2.1 then span o.a 4 else []) ++ span o.b 2) = true → (p.2.1 = true → s.me.numbers (span o.a 4) = true) →
    vecChecks s (s.capAt o.b) o.b t none pRD ls = .ok () → (∀ l ∈ ls, s.isOwn (s.capAt o.b).spc l.2 = true) →
    let r (a : Word) := laneRead s.mine s.cid (a.toNat % 2 ^ 19) t
    exec (p.1 t o) s = .next ((s.putLanes o.d ((List.range 16).map (fun i =>
      if bitAt (s.gov o) i then (r (p.2.2 s o i)).1 else s.me.lane o.d.toNat i))).setFlags (ls.foldl (fun f l => f ||| (r l.2).2) 0)).endNext) ∧
  (∀ p (t : VTy) (o : Ops) (s : State), p ∈ vectorStores →
    let ls := laneList s o (p.2.2.2 s o)
    let d := p.2.1 o
    s.me.phase = .idle → s.me.ready (span d 4 ++ (if p.2.2.1 then span o.a 4 else []) ++ span o.b 2) = true →
    (p.2.2.1 = true → s.me.numbers (span o.a 4) = true) → s.me.storable (span d 4) = true →
    vecChecks s (s.capAt o.b) o.b t (some d) pWR ls = .ok () → (∀ l ∈ ls, s.isOwn (s.capAt o.b).spc l.2 = true) →
    exec (p.1 t o) s = .next (ls.foldl (fun u l =>
      let off := l.2.toNat % 2 ^ 19
      let v := s.me.lane d.toNat l.1
      (u.queueStore { lid := s.me.lid, off := off, kind := .lane t v }).setFlags (laneWrite u.mine s.me.lid s.cid off t v).2) s).endNext)

/-! ## Atomics and fences (R176, R232, R266 to R274) -/

namespace Sys2Proof.Spec

/-- The new memory value of each operation of R267 over n bytes; .FADD rounds to nearest even. -/
def amoValue (op : AmoOp) (n m v : Nat) : Nat :=
  let sx (x : Nat) : Int := sxNat (8 * n) x
  match op with
  | .add => (m + v) % 256 ^ n | .and => m &&& v | .or => m ||| v | .xor => m ^^^ v
  | .min => if sx v < sx m then v else m | .max => if sx m < sx v then v else m
  | .minu => if v < m then v else m | .maxu => if m < v then v else m
  | .swap => v | .fadd => (f32Add 0 (BitVec.ofNat 32 m) (BitVec.ofNat 32 v)).1.toNat

/-- An atomic of the current context in its own scratchpad can be performed (R176): it reaches the word, nothing is in its way, its
earlier accesses are performed, and the write-verify will not fail. -/
def atomReady (s : State) (c : Cap) (a : Word) (n : Nat) : Bool :=
  s.reaches c a n [pRD, pWR, pAT] [0, 1] n && s.isOwn c.spc a && !s.loadsOut && !s.gate && !s.queueOut && !s.cluStoresOut &&
  !s.myCore.verifyBad &&
  (match atomHome s s.cid (a.toNat % 2 ^ 19) n with | .ok () => true | .error _ => false)

/-- No access or message of the current context is out, and no refusal is recorded. -/
def quiet (s : State) : Prop :=
  s.loadsOut = false ∧ s.gate = false ∧ s.queueOut = false ∧ s.cluStoresOut = false ∧ s.cluStores = 0 ∧ s.devStores = 0 ∧
  (∀ m ∈ s.net, m.g = s.cur → m.fire = s.me.fire → m.toPeer = false ∧ m.onDevice = false) ∧
  s.net.any (fun m => m.isLoad s.cur s.me.fire) = false ∧
  s.net.any (fun m => m.isPosted s.cur s.me.fire || m.isSld s.cur s.me.fire) = false ∧
  s.me.clusterRef = none ∧ s.me.deviceRef = none ∧ s.me.fabricRef = none

end Sys2Proof.Spec

namespace Sys2Proof.Spec

/-- One request with an atomic leaves for the current context, and nothing else changes but where the context stands. -/
def sendsAtom (s t : State) (m : Msg) (kind : AtomKind) (o : Ops) (dbl nr : Bool) : Prop :=
  t.net = s.net ++ [m] ∧ m.id = s.nextId ∧ m.g = s.cur ∧ m.fire = s.me.fire ∧ t.mem = s.mem ∧ t.me.regs = s.me.regs ∧
  ∃ x, m.body = .atom x ∧ x.kind = kind ∧ x.va = (s.capAt o.b).cur ∧ x.space = (s.capAt o.b).spc ∧ x.val = s.lo o.a ∧ x.scp = o.scp ∧
    x.dbl = dbl ∧ x.nr = nr

end Sys2Proof.Spec

open Sys2Proof.Spec in
/-- AMO and CAS of CORE scope (R176, R267, R268) complete in one step: the word takes the new value, gD the old one (nothing with .NR), and
CAS writes only where the old value equals the expected one. A .FADD that finds a value of the ABN payload class is not performed: a
returning one raises ABN with the address, an .NR one leaves its refusal in the record of R265. an atomic of scope CLU, DEV or SYS (R232,
R266, R269, R383): with nothing of its context out AMO and CAS send one request and wait; when the answer is here they complete with the old
value in gD, or raise the fault that the answer carries, precisely. An .NR atomic sends its request and completes; at SYS with a DEVICE
address it waits first, not as a blocked wait, until its station has translated it, whose refusal is raised precisely. -/
def Obligations.Atomics : Prop :=
  (
    ∀ (dbl : Bool) (o : Ops) (s : State), o.scp = .core → s.me.holdsCap o.b = true → s.me.numbers [o.a.toNat] = true →
      let n := if dbl then 8 else 4
      let a := (s.capAt o.b).cur
      let loc := spad s.cid (a.toNat % 2 ^ 19)
      let m := s.numAt loc n
      atomReady s (s.capAt o.b) a n = true →
      (∀ (nr : Bool) (op : AmoOp), s.me.ready ((if nr then [] else [o.d.toNat]) ++ o.a.toNat :: span o.b 2) = true →
        (op = .fadd → isAbn ((s.lo o.a).setWidth 32) = false ∧ isAbn (BitVec.ofNat 32 m) = false) →
        exec (.amo nr dbl op o) s = .next ((fun t : State => if nr then t else t.putQ o.d (BitVec.ofNat 128 m))
          (s.store s.me.lid loc (leBytes n (amoValue op n m ((s.lo o.a).toNat % 256 ^ n))))).endNext) ∧
      (isAbn ((s.lo o.a).setWidth 32) = false → isAbn (BitVec.ofNat 32 m) = true →
        (s.me.ready (o.d.toNat :: o.a.toNat :: span o.b 2) = true →
          exec (.amo false dbl .fadd o) s = .next (s.takeTrap s.cur .abn a false s.ilen)) ∧
        (s.me.ready (o.a.toNat :: span o.b 2) = true →
          exec (.amo true dbl .fadd o) s = .next (s.updMe (fun c => { c with
            deviceRef := match c.deviceRef with | some f => some f | none => some ⟨.abn, a⟩ })).endNext)) ∧
      (s.me.ready (o.d.toNat :: o.a.toNat :: span o.b 2) = true → s.me.numbers [o.d.toNat] = true →
        exec (.cas dbl o) s = .next (((if m = (s.lo o.d).toNat % 256 ^ n then s.store s.me.lid loc (leBytes n ((s.lo o.a).toNat % 256 ^ n))
          else s).putQ o.d (BitVec.ofNat 128 m)).endNext))) ∧
  (
    ∀ (dbl : Bool) (op : AmoOp) (o : Ops) (s : State), (o.scp = .clu ∨ o.scp = .dev ∨ o.scp = .sys) → s.me.holdsCap o.b = true →
      s.me.numbers [o.a.toNat] = true → (op = .fadd → isAbn ((s.lo o.a).setWidth 32) = false) →
      let n := if dbl then 8 else 4
      let clear := quiet s ∧ (o.scp = .sys → s.storesOut s.cur s.me.fire = false)
      let sends (i : Instr) (k : AtomKind) (nr : Bool) : Prop := ∃ t m, exec i s = .next t ∧ sendsAtom s t m k o dbl nr ∧ t.me.phase = .sent m.id ∧
        t.me.pc = s.me.pc ∧ (t.me.wait ≠ none ↔ nr = false)
      let fails (i : Instr) : Prop := ∀ ans f, s.me.phase = .done ans → ans.fault = some f →
        exec i s = .next (s.takeTrap s.cur f.cause f.val false s.ilen)
      s.reaches (s.capAt o.b) (s.capAt o.b).cur n [pRD, pWR, pAT] (if o.scp = .clu then [0, 1] else [0, 1, 2]) n = true →
      (s.me.ready (o.d.toNat :: o.a.toNat :: span o.b 2) = true →
        (s.me.phase = .idle → clear → sends (.amo false dbl op o) (.amo op) false) ∧
        (∀ ans, s.me.phase = .done ans → ans.fault = none → exec (.amo false dbl op o) s = .next (s.putQ o.d ans.data).endNext) ∧
        fails (.amo false dbl op o) ∧
        (s.me.numbers [o.d.toNat] = true →
          (s.me.phase = .idle → clear → sends (.cas dbl o) (.cas (s.lo o.d)) false) ∧
          (∀ ans, s.me.phase = .done ans → ans.fault = none → exec (.cas dbl o) s = .next (s.putQ o.d ans.data).endNext) ∧
          fails (.cas dbl o))) ∧
      (s.me.ready (o.a.toNat :: span o.b 2) = true →
        (¬ (o.scp = .sys ∧ (s.capAt o.b).spc = 2) → clear →
          ∃ t m, exec (.amo true dbl op o) s = .next t ∧ sendsAtom s t m (.amo op) o dbl true ∧ t.me.phase = .idle ∧ t.me.pc = s.nextPc) ∧
        (o.scp = .sys → (s.capAt o.b).spc = 2 →
          (s.me.phase = .idle → clear → sends (.amo true dbl op o) (.amo op) true) ∧
          (∀ ans, s.me.phase = .done ans → ans.fault = none → exec (.amo true dbl op o) s = .next s.endNext) ∧
          fails (.amo true dbl op o))))

open Sys2Proof.Spec in
/-- FNC, FNCA and FNC.INV (R271 to R274) complete when nothing they wait for is out and no refusal is recorded, and change only the pc;
FNC.INV also drops the cached translations of the process identifier that overlap its range, those of peer leaves (R384) only at SYS. At
user level FNC.INV raises PRIV, before the register checks of R88 (that order is the model's choice, log 33). FNC, FNCA and FNC.INV report
one recorded refusal at a time as an asynchronous trap and do not execute (R231, R265, R272, R378): the cluster's at CLU or wider, then the
device's at DEV or wider, then the fabric's at SYS, once the acknowledgements they wait for are in; the report clears its record. -/
def Obligations.FencesAndReports : Prop :=
  (
    (∀ (sp : FSp) (ord : FOrd) (o : Ops) (s : State), quiet s → s.me.ready [o.a.toNat, o.b.toNat] = true →
      s.me.numbers [o.a.toNat, o.b.toNat] = true → exec (.fnc sp ord o) s = .next s.endNext) ∧
    (∀ (ord : FOrd) (o : Ops) (s : State), quiet s → exec (.fnca ord o) s = .next s.endNext) ∧
    (∀ (o : Ops) (s : State), quiet s → s.net = [] → s.me.phase = .idle → s.me.level = .system → (o.scp = .dev ∨ o.scp = .sys) →
      s.me.ready [o.a.toNat, o.b.toNat] = true → s.me.numbers [o.a.toNat, o.b.toNat] = true →
      ∃ t : State, exec (.fncInv o) s = .next t.endNext ∧ t = { s with dies := t.dies } ∧
        ∀ d e, e ∈ (t.dieAt d).tlb ↔ e ∈ (s.dieAt d).tlb ∧ ¬(e.2.pid = s.me.pid ∧ e.2.overlaps (s.lo o.a).toNat (s.lo o.b).toNat = true ∧
          (o.scp = .dev → fld e.2.leaf 11 10 ≠ 1))) ∧
    (∀ (o : Ops) (s : State), s.me.level = .user → exec (.fncInv o) s = .next (s.takeTrap s.cur .priv 0 false s.ilen))) ∧
  (
    ∀ (o : Ops) (s : State) (i : Instr) (f : RFault),
      ((∃ ord, i = .fnca ord o) ∨
        (s.me.ready [o.a.toNat, o.b.toNat] = true ∧ s.me.numbers [o.a.toNat, o.b.toNat] = true ∧
          ((∃ sp ord, i = .fnc sp ord o) ∨ (i = .fncInv o ∧ s.me.level = .system ∧ s.me.phase = .idle ∧ (o.scp = .dev ∨ o.scp = .sys))))) →
      s.cluStores = 0 → s.devStores = 0 → s.net.any (fun m => m.isLoad s.cur s.me.fire) = false →
      s.net.any (fun m => m.isPosted s.cur s.me.fire || m.isSld s.cur s.me.fire) = false → s.queueOut = false →
      (o.scp = .sys → s.net.any (fun m => m.g == s.cur && m.fire == s.me.fire) = false) →
      let wide := o.scp = .dev ∨ o.scp = .sys
      ((o.scp = .clu ∨ wide) → s.me.clusterRef = some f →
        exec i s = .next ((s.updMe (fun c => { c with clusterRef := none })).takeTrap s.cur f.cause f.val true s.ilen)) ∧
      (wide → s.me.clusterRef = none → s.me.deviceRef = some f →
        exec i s = .next ((s.updMe (fun c => { c with deviceRef := none })).takeTrap s.cur f.cause f.val true s.ilen)) ∧
      (o.scp = .sys → s.me.clusterRef = none → s.me.deviceRef = none → s.me.fabricRef = some f →
        exec i s = .next ((s.updMe (fun c => { c with fabricRef := none })).takeTrap s.cur f.cause f.val true s.ilen)))

/-! ## Varifloat (R142 to R160) -/

namespace Sys2Proof.Spec

/-- The value in a window of a legal length that the window holds (R150). -/
def vfHolds (s : State) (n : RegNo) (w : Nat) : Bool := decide (8 * (s.vfAt n w).len ≤ vfBits w ∧ (s.vfAt n w).len ≤ 28)

/-- The two-source arithmetic of R152: the exact value with its flags, and the significance count of a result of exponent e (R148). -/
def vfArithmetic : List ((Ops → Instr) × (Nat → VFloat → VFloat → Num × Flags) × (Nat → VFloat → VFloat → Int → Int)) := [
  (.fvadd, fun rm a b => Num.add rm a.num b.num, fun len a b e => cntOf (a.ulps ++ b.ulps) len e),
  (.fvsub, fun rm a b => Num.sub rm a.num b.num, fun len a b e => cntOf (a.ulps ++ b.ulps) len e),
  (.fvmul, fun _ a b => Num.mul a.num b.num, fun _ a b _ => min (a.cnt : Int) b.cnt),
  (.fvdiv, fun _ a b => Num.div a.num b.num, fun _ a b _ => min (a.cnt : Int) b.cnt)]

/-- The check of R149 does not stop a result: PRC.PXE is clear, the value is not normal, or its count reaches the floor. -/
def precise (s : State) (v : VFloat) : Bool := !bitAt s.me.prc 16 || v.kind != 1 || decide (fld s.me.prc 15 8 ≤ v.cnt)

/-- PXH after a result has been written (R149). -/
def afterPxh (t : State) (v : VFloat) : State := t.takeTrap t.cur .pxh (BitVec.ofNat 64 v.cnt) false t.ilen

end Sys2Proof.Spec

open Sys2Proof.Spec in
/-- FVADD, FVSUB, FVMUL, FVDIV, FVSQRT and FVFMA (R147, R148, R152) complete: the exact value is rounded once to the working length in the
rounding mode, and written with its count and flags; a count below the floor raises PXH after the write (R149). the other register
instructions of page 3 complete: PSET and PSET.W give the old PRC and set the new one (R151; where gD is gB, PSET takes gB as it was before,
the model's choice, log 59), FVCMP compares exactly, with 2 for a NaN and NV for a signalling one (R154), the four conversions (R155), FVRND
rounds to the immediate length (R156), FVSIG reads and sets the count (R157), FVLEN gives the size in memory (R158); a result whose count is
below the floor raises PXH after the write (R149). -/
def Obligations.VarifloatInstructions : Prop :=
  (
    ∀ (o : Ops) (s : State), o.l.toNat ≤ 1 →
      let w := 2 ^ o.l.toNat
      let a := s.vfAt o.a w
      let b := s.vfAt o.b w
      let d := s.vfAt o.d w
      let len := s.me.vfLen
      8 * len ≤ vfBits w → s.me.ready (span o.d w ++ span o.a w ++ span o.b w) = true →
      s.me.numbers (span o.a w ++ span o.b w) = true → vfHolds s o.a w = true → vfHolds s o.b w = true →
      (∀ p, p ∈ vfArithmetic →
        let x := p.2.1 s.me.rm a b
        let r := vfRound s.me.rm len (p.2.2 len a b) x.1
        let t := (s.putL o.d (r.1.regs w)).setFlags (x.2 ||| r.2)
        exec (p.1 o) s = if precise s r.1 then .next t.endNext
          else .next (afterPxh t r.1)) ∧
      (let x := Num.sqrt 240 b.num
       let r := vfRound s.me.rm len (fun _ => b.cnt) x.1
       let t := (s.putL o.d (r.1.regs w)).setFlags (x.2 ||| r.2)
       (precise s r.1 = true → exec (.fvsqrt o) s = .next t.endNext) ∧ (precise s r.1 = false → exec (.fvsqrt o) s = .next (afterPxh t r.1))) ∧
      (s.me.numbers (span o.d w) = true → vfHolds s o.d w = true → ∀ neg : Bool,
       let x := vfFma s.me.rm (if neg then a.num.flip else a.num) b.num d.num
       let r := vfRound s.me.rm len (cntOf (vfProdUlp a b ++ d.ulps) len) x.1
       let t := (s.putL o.d (r.1.regs w)).setFlags (x.2 ||| r.2)
       (precise s r.1 = true → exec (.fvfma neg o) s = .next t.endNext) ∧ (precise s r.1 = false → exec (.fvfma neg o) s = .next (afterPxh t r.1)))) ∧
  (
    ∀ (o : Ops) (s : State), o.l.toNat ≤ 1 →
      let w := 2 ^ o.l.toNat
      let a := s.vfAt o.a w
      let b := s.vfAt o.b w
      let x := s.lo o.b
      (s.me.ready [o.d.toNat, o.b.toNat] = true → s.me.numbers [o.b.toNat] = true →
        exec (.pset o) s = .next ((s.put o.d s.me.prc).updMe (fun c => { c with
          prc := BitVec.ofNat 64 (min (x.toNat % 32) 27 + x.toNat / 2 ^ 8 % 256 * 2 ^ 8 + x.toNat / 2 ^ 16 % 2 * 2 ^ 16) })).endNext) ∧
      (s.me.ready [o.d.toNat] = true →
        exec (.psetW o) s = .next ((s.put o.d s.me.prc).updMe (fun c => { c with prc := setFld c.prc 4 0 (min o.imm.toNat 27) })).endNext ∧
        exec (.fvlenW o) s = .next (s.put o.d (BitVec.ofNat 64 (4 + s.me.vfLen))).endNext) ∧
      (s.me.ready (o.d.toNat :: span o.a w ++ span o.b w) = true → s.me.numbers (span o.a w ++ span o.b w) = true →
        vfHolds s o.a w = true → vfHolds s o.b w = true →
        (a.num.isNan = false → b.num.isNan = false → exec (.fvcmp o) s = .next (s.put o.d (BitVec.ofInt 64 (a.num.cmp b.num))).endNext) ∧
        (a.num.isNan = true ∨ b.num.isNan = true →
          exec (.fvcmp o) s = .next ((s.put o.d 2).setFlags (if a.num.isSig || b.num.isSig then 16 else 0)).endNext)) ∧
      (s.me.ready (o.d.toNat :: span o.b w) = true → s.me.numbers (span o.b w) = true → vfHolds s o.b w = true →
        exec (.fvlen o) s = .next (s.put o.d (BitVec.ofNat 64 (4 + b.len))).endNext ∧
        exec (.fvsigGet o) s = .next (s.put o.d (BitVec.ofNat 64 (if b.kind = 1 then b.cnt else 0))).endNext ∧
        exec (.fvcvtToi o) s = .next ((s.put o.d (BitVec.ofInt 64 (toInteger s.me.rm (-(2 ^ 63)) (2 ^ 63 - 1) b.num).1)).setFlags
          (toInteger s.me.rm (-(2 ^ 63)) (2 ^ 63 - 1) b.num).2).endNext ∧
        exec (.fvcvtTof o) s = .next ((s.put o.d ((toF32 s.me.rm (b.num, 0)).1.setWidth 64)).setFlags (toF32 s.me.rm (b.num, 0)).2).endNext) ∧
      (s.me.ready (span o.d w ++ [o.b.toNat]) = true → s.me.numbers [o.b.toNat] = true → 8 * s.me.vfLen ≤ vfBits w →
        (let r := vfRound s.me.rm s.me.vfLen (fun _ => 8 * s.me.vfLen + 1) (Num.ofInt x.toInt)
         let t := (s.putL o.d (r.1.regs w)).setFlags r.2
       (precise s r.1 = true → exec (.fvcvtFromi o) s = .next t.endNext) ∧ (precise s r.1 = false → exec (.fvcvtFromi o) s = .next (afterPxh t r.1))) ∧
        (isAbn (x.setWidth 32) = false →
         let count : Int := if x.toNat / 2 ^ 23 % 256 = 0 then ((Nat.log2 (x.toNat % 2 ^ 23) : Nat) : Int) + 1 else 24
         let r := vfRound s.me.rm s.me.vfLen (fun _ => count) (f32Val (x.setWidth 32))
         let t := (s.putL o.d (r.1.regs w)).setFlags r.2
       (precise s r.1 = true → exec (.fvcvtFromf o) s = .next t.endNext) ∧ (precise s r.1 = false → exec (.fvcvtFromf o) s = .next (afterPxh t r.1)))) ∧
      (s.me.ready (span o.d w ++ span o.a w ++ [o.b.toNat]) = true → s.me.numbers (span o.a w ++ [o.b.toNat]) = true → vfHolds s o.a w = true →
        exec (.fvsigSet o) s = .next (s.putL o.d ((if a.kind = 1 then { a with cnt := min (x.toNat % 256) (8 * a.len + 1) } else a).regs w)).endNext) ∧
      (s.me.ready (span o.d w ++ span o.b w) = true → s.me.numbers (span o.b w) = true → vfHolds s o.b w = true →
        1 ≤ o.imm.toNat → o.imm.toNat ≤ 28 → 8 * o.imm.toNat ≤ vfBits w →
        let r := vfRound s.me.rm o.imm.toNat (cntOf b.ulps o.imm.toNat) b.num
        let t := (s.putL o.d (r.1.regs w)).setFlags r.2
       (precise s r.1 = true → exec (.fvrnd o) s = .next t.endNext) ∧ (precise s r.1 = false → exec (.fvrnd o) s = .next (afterPxh t r.1))))

open Sys2Proof.Spec in
/-- The varifloat loads and stores in the own scratchpad (R159, R160) complete: FVST writes the value as held and FVLD reads it back, each
with its capability's cursor advanced by the size; FVST.IX and FVLD.IX use the element that gA numbers. That FVLD writes gD first and then
gB, where the windows overlap, is the model's choice (log 14); so is that the registers FVST stores must be DATA (log 50). -/
def Obligations.VarifloatMemory : Prop :=
  ∀ (o : Ops) (s : State), o.l.toNat ≤ 1 → s.me.holdsCap o.b = true →
    let w := 2 ^ o.l.toNat
    let c := s.capAt o.b
    let a := c.cur
    let adv (n : Nat) : List (Quad × Tag) := capRegs { c with cur := a + BitVec.ofNat 64 n }
    (s.me.ready (span o.a w ++ span o.b 2) = true → s.me.numbers (span o.a w) = true → vfHolds s o.a w = true →
      let v := s.vfAt o.a w
      let n := 4 + v.len
      s.reaches c a n [pWR] [0, 1, 2] 1 = true → (∀ p ∈ vfPieces a v.bytes n, s.isOwn c.spc p.va = true ∧ s.free p.va p.n true = true) →
      exec (.fvst o) s = .next (((vfPieces a v.bytes n).foldl (fun t p => ownWrite t p.va p.bytes) s).putL o.b (adv n)).endNext) ∧
    (s.me.ready (span o.d w ++ span o.b 2) = true → s.reaches c a 4 [pRD] [0, 1, 2] 1 = true →
      let head := leVal (ownRead s a 4)
      let len := head / 2 ^ 24 % 32 + 1
      let n := 4 + len
      len ≤ 28 → 8 * len ≤ vfBits w → s.reaches c a n [pRD] [0, 1, 2] 1 = true →
      (∀ p ∈ vfPieces a [] 4 ++ vfPieces a [] n, s.isOwn c.spc p.va = true ∧ s.free p.va p.n false = true) →
      exec (.fvld o) s = .next ((s.putL o.d ((vfOfBytes len (vfJoin (vfGot s (vfPieces a [] n)))).regs w)).putL o.b (adv n)).endNext) ∧
    (1 ≤ o.imm.toNat → o.imm.toNat ≤ 28 → 8 * o.imm.toNat ≤ vfBits w → s.me.numbers [o.a.toNat] = true →
      let n := 4 + o.imm.toNat
      let e := a + s.lo o.a * BitVec.ofNat 64 n
      (s.me.ready (span o.d w ++ [o.a.toNat] ++ span o.b 2) = true → s.reaches c e n [pRD] [0, 1, 2] 1 = true →
        (∀ p ∈ vfPieces e [] n, s.isOwn c.spc p.va = true ∧ s.free p.va p.n false = true) →
        exec (.fvldIx o) s = .next (s.putL o.d ((vfOfBytes o.imm.toNat (vfJoin (vfGot s (vfPieces e [] n)))).regs w)).endNext) ∧
      (s.me.ready (span o.c w ++ [o.a.toNat] ++ span o.b 2) = true → s.me.numbers (span o.c w) = true → vfHolds s o.c w = true →
        s.reaches c e n [pWR] [0, 1, 2] 1 = true →
        let r := vfRound s.me.rm o.imm.toNat (cntOf (s.vfAt o.c w).ulps o.imm.toNat) (s.vfAt o.c w).num
        (∀ p ∈ vfPieces e r.1.bytes n, s.isOwn c.spc p.va = true ∧ s.free p.va p.n true = true) →
        r.1.len = o.imm.toNat →
        exec (.fvstIx o) s = .next (((vfPieces e r.1.bytes n).foldl (fun t p => ownWrite t p.va p.bytes) s).setFlags r.2).endNext))

/-! ## Verdicts (R211 to R224) -/

namespace Sys2Proof.Spec

/-- The sum of the query elements whose key bit of lane i is set in a plane (R211, R219). -/
def laneDot (v : Verdict) (i : Nat) (bits : List Byte) : Int :=
  ((List.range v.dim).map (fun k => if bitAt (bits.getD (i * v.rowBytes + k / 8) 0) (k % 8) then v.query.getD k 0 else 0)).sum

/-- The exact score of lane i (R211): what the accumulation becomes once the planes given, from plane 7 − p down, are added. -/
def scoreFrom (v : Verdict) (i : Nat) : Nat → Int → List (List Byte) → Int
  | _, acc, [] => acc
  | p, acc, b :: t => scoreFrom v i (p + 1) (acc + (if p = 0 then -128 else 2 ^ (7 - p)) * laneDot v i b) t

/-- A verdict as the device holds it: one query element for each dimension, at most eight planes, nothing accumulated before the first. -/
def sound (v : Verdict) : Prop := v.query.length = v.dim ∧ v.planes ≤ 8 ∧ (v.planes = 0 → ∀ i, v.accAt i = 0)

end Sys2Proof.Spec

open Sys2Proof.Spec in
/-- For every number of planes processed the exact score lies between the bounds L and U (R211). a GEQ verdict abandons only lanes whose
exact score is strictly below the sampled threshold (R212, R216), whatever the planes not yet read hold. -/
def Obligations.VerdictSoundness : Prop :=
  (
    ∀ (v : Verdict) (i : Nat) (rest : List (List Byte)), sound v → rest.length = 8 - v.planes →
      v.lower i ≤ scoreFrom v i v.planes (v.accAt i) rest ∧ scoreFrom v i v.planes (v.accAt i) rest ≤ v.upper i) ∧
  (
    ∀ (v : Verdict) (i : Nat) (bits : List Byte) (t : Int) (rest : List (List Byte)), sound v → v.planes < 8 → v.src ≤ 1 → i < 16 →
      rest.length = 7 - v.planes → (v.step bits t).2.getLsbD i = true →
      scoreFrom v i v.planes (v.accAt i) (bits :: rest) < t)

open Sys2Proof.Spec in
/-- The verdict instructions complete (R218 to R223): VDOPEN opens a verdict with the query of gA:4 and the control word of gC, VDPS in the
own scratchpad applies one plane with the sample of a cell there, or the immediate, and advances the cursor, VDLOW and VDUPR give the
bounds, VDFIN the scores after eight planes and closes, VDCHK a mask of the ABN lanes, VTRAISE the maximum into a cell. -/
def Obligations.VerdictInstructions : Prop :=
  ∀ (o : Ops) (s : State),
    let v := s.me.verdict
    let w := s.lo o.c
    (s.me.ready (o.c.toNat :: span o.a 4) = true → s.me.numbers (span o.a 4 ++ [o.c.toNat]) = true → badControl w = false →
      exec (.vdopenPos o) s = .next (s.updMe (fun c => { c with verdict := openVerdict 2 (s.win o.a 4) w (0, 0) })).endNext ∧
      exec (.vdopenGeqImm o) s = .next (s.updMe (fun c => { c with verdict := openVerdict 1 (s.win o.a 4) w (0, 0) })).endNext ∧
      (s.me.ready (span o.b 2) = true → s.me.holdsCap o.b = true → s.reaches (s.capAt o.b) (s.capAt o.b).cur 4 [pRD] [0, 1, 2] 4 = true →
        exec (.vdopenGeq o) s = .next (s.updMe (fun c => { c with
          verdict := openVerdict 0 (s.win o.a 4) w ((s.capAt o.b).spc, (s.capAt o.b).cur) })).endNext)) ∧
    (s.me.ready (o.d.toNat :: span o.b 2) = true → s.me.holdsCap o.b = true → v.isOpen = true → v.planes < 8 →
      (v.src = 0 → s.isOwn v.cell.1 v.cell.2 = true ∧ s.free v.cell.2 4 false = true) →
      (let c := s.capAt o.b
       let n := 16 * v.rowBytes
       s.reaches c c.cur n [pRD] [0, 1] 1 = true → (∀ p ∈ planePieces 5 c.cur 4 n, s.isOwn c.spc p.va = true) → s.free c.cur n false = true →
       let r := v.step (ownRead s c.cur n) (if v.src = 0 then sxNat 32 (leVal (ownRead s v.cell.2 4)) else v.imm)
       exec (.vdps o) s = .next (((s.updMe (fun k => { k with verdict := r.1 })).putL o.b
         (capRegs { c with cur := c.cur + BitVec.ofNat 64 n })).putQ o.d ((r.2 ++ r.1.alive).setWidth 128)).endNext)) ∧
    (s.me.ready (span o.d 4) = true → v.isOpen = true →
      exec (.vdlow o) s = .next (s.putLanes o.d ((List.range 16).map (fun i =>
        if bitAt v.alive i then BitVec.ofInt 32 (v.lower i) else 0x80000000))).endNext ∧
      exec (.vdupr o) s = .next (s.putLanes o.d ((List.range 16).map (fun i =>
        if bitAt v.alive i then BitVec.ofInt 32 (v.upper i) else 0x80000000))).endNext ∧
      (v.planes = 8 → ∃ t, exec (.vdfin o) s = .next t ∧ t.me.verdict.isOpen = false ∧ t.me.pc = s.nextPc ∧
        (o.d ≠ 0 → o.d.toNat % 4 = 0 → ∀ i, i < 16 → t.me.lane o.d.toNat i =
          if bitAt v.alive i then (toF32 0 (Num.ofInt (v.accAt i), 0)).1 else 0xFFBA0000 ||| BitVec.ofNat 32 i))) ∧
    (s.me.ready (span o.b 4) = true → ∃ m : BitVec 16, (∀ i, i < 16 → m.getLsbD i = isAbn (s.me.lane o.b.toNat i)) ∧
      exec (.vdchkAbn o) s = .next (s.updMe (fun c => c.setMask o.a.toNat m)).endNext ∧
      exec (.vdchkLive o) s = .next (s.updMe (fun c => c.setMask o.a.toNat (~~~m))).endNext) ∧
    (s.me.ready (o.d.toNat :: o.a.toNat :: span o.b 2) = true → s.me.numbers [o.a.toNat] = true → s.me.holdsCap o.b = true →
      (let a := (s.capAt o.b).cur
       let loc := spad s.cid (a.toNat % 2 ^ 19)
       let m := s.numAt loc 4
       let x := (s.lo o.a).toNat % 2 ^ 32
       atomReady s (s.capAt o.b) a 4 = true →
       exec (.vtraise o) s = .next ((s.store s.me.lid loc (leBytes 4 (if sxNat 32 m < sxNat 32 x then x else m))).putQ o.d
         ((BitVec.ofInt 64 (sxNat 32 m)).setWidth 128)).endNext))

/-! ## The matrix engine (R182 to R207) -/

namespace Sys2Proof.Spec

/-- A thread can issue an engine operation (R81, R186, R203): no program runs, the queue has room, its earlier accesses are performed, and
the operands pass their checks and find their ranges free; `reads` tells which scales they need (R130). -/
def canIssue (s : State) (l : List Opnd) (reads : Nat → Nat → Nat → Bool := fun _ _ _ => true) : Prop :=
  s.progRuns = false ∧ (s.myCore.equeue.filter (fun e => !e.started && e.task.isNone)).length < 8 ∧ s.loadsOut = false ∧ s.gate = false ∧
  (opRanges s l).any (fun r => (!r.dst && s.storesTo r.cid) || s.anyQueued r.cid r.base r.len) = false ∧ passOne l = .ok () ∧
  placeChecks s l reads = .ok () ∧ rangesPerm s (l.flatMap (fun x => tileWrites x.1 s.cid x.2.1 x.2.2)) = .ok () ∧
  locksFree s [] (opRanges s l) = true

/-- Whether a format holds integers, for MLDA (R199). -/
def holdsInt (e : EFmt) : Bool := match e with | .bp8 => true | .int .. => true | _ => false

/-- The next state of a thread's issue: the operation joins the end of its core's queue with its kind, set and descriptors, the pc moves
on, the registers given are LEASED, and memory stays. -/
def issued (s t : State) (k : EKind) (set : Nat) (descs : List Quad) (leases : List Nat) : Prop :=
  (∃ op, t.myCore.equeue = s.myCore.equeue ++ [op] ∧ op.id = s.nextId ∧ op.kind = k ∧ op.set = set ∧ op.g = s.cur ∧ op.fire = s.me.fire ∧
    op.cid = s.cid ∧ op.descs = descs ∧ op.started = false ∧ op.fin = false ∧ op.leased = leases.map s.me.ix) ∧
  t.me.pc = s.nextPc ∧ t.mem = s.mem ∧ (∀ n ∈ leases, n ≠ 0 → n < 64 → (t.me.reg n).pres = .leased) ∧
  (∀ k, k ∉ leases.map s.me.ix → t.me.regAt k = s.me.regAt k)

end Sys2Proof.Spec

open Sys2Proof.Spec in
/-- The engine operations of a thread are issued (R186, R196 to R201): MZERO, MMA, MMAS, MDRN, MDRN.R, MLDA, CMPR and MXPD join the queue
with their set and descriptors; MDRN.R and CMPR lease their destination window. -/
def Obligations.EngineIssue : Prop :=
  ∀ (n : Bool) (o : Ops) (s : State),
    let A := s.bits o.a
    let B := s.bits o.b
    let C := s.bits o.c
    (∀ int, canIssue s [] → ∃ t, exec (.mzero n int) s = .next t ∧ issued s t (.mzero int) n.toNat [] []) ∧
    (let x := s.opnd o.a .mul
     let y := s.opnd o.b .mul
     canIssue s [x, y] (mulReads none [] x.1.kx (min x.1.vk y.1.vk) x.1.rows) → s.me.ready [o.a.toNat, o.b.toNat] = true → s.me.numbers [o.a.toNat, o.b.toNat] = true →
      pairAll (s.opnd o.a .mul) (s.opnd o.b .mul) = some (some (s.myCore.setType n.toNat)) →
      (s.opnd o.a .mul).1.kx = (s.opnd o.b .mul).1.kx →
      ∃ t, exec (.mma n o) s = .next t ∧ issued s t .mma n.toNat [A, B] []) ∧
    (∀ clr, canIssue s [s.opnd o.b .drain] → s.me.ready [o.b.toNat] = true → s.me.numbers [o.b.toNat] = true →
      ∃ t, exec (.mdrn n clr o) s = .next t ∧ issued s t (.mdrn clr) n.toNat [B] []) ∧
    (∀ clr, canIssue s [] → s.me.ready (span o.d 4 ++ [o.b.toNat]) = true → s.me.numbers [o.b.toNat] = true → o.d.toNat + 3 < 64 →
      ∃ t, exec (.mdrnR n clr o) s = .next t ∧ issued s t (.mdrnR clr ((s.lo o.b).toNat % 64)) n.toNat [] (span o.d 4)) ∧
    (∀ int, canIssue s [s.opnd o.b .load] → s.me.ready [o.b.toNat] = true → s.me.numbers [o.b.toNat] = true →
      (∀ e ∈ (s.opnd o.b .load).1.elts (s.opnd o.b .load).2.1, holdsInt e = int) →
      ∃ t, exec (.mlda n int o) s = .next t ∧ issued s t (.mlda int) n.toNat [B] []) ∧
    (∀ (sh : Shape) (u8 : Bool),
      let len := 2 ^ o.l.toNat
      let x := s.opnd o.b .packed
      let y := s.opnd o.c .mul
      let e := metaCount sh u8 x.1.rows y.1.kx
      canIssue s [x, y] (mulReads (some (sh, u8)) (metaEntries sh (winNat (s.win o.a len)) e) y.1.kx y.1.vk x.1.rows) →
      s.me.ready (span o.a len ++ [o.b.toNat, o.c.toNat]) = true → s.me.numbers (span o.a len ++ [o.b.toNat, o.c.toNat]) = true →
      pairAll x y = some (some (s.myCore.setType n.toNat)) → x.1.rows % rowGroup u8 = 0 →
      y.1.kx % shapeGroup sh = 0 → x.1.kx * shapeGroup sh = y.1.kx * shapeKeep sh → e * shapeKeep sh * shapeIw sh ≤ 128 * len →
      metaBad (metaEntries sh (winNat (s.win o.a len)) e) = none →
      ∃ t, exec (.mmas n sh u8 o) s = .next t ∧ issued s t (.mmas sh u8) n.toNat [B, C] []) ∧
    (∀ (sh : Shape) (u8 : Bool),
      let len := 2 ^ o.l.toNat
      let x := s.opnd o.a .prune
      let y := s.opnd o.b .pruned
      let e := metaCount sh u8 x.1.rows x.1.kx
      canIssue s [x, y] → s.me.ready (span o.d len ++ [o.a.toNat, o.b.toNat]) = true → s.me.numbers [o.a.toNat, o.b.toNat] = true →
      sameElts x y = true → x.1.rows % rowGroup u8 = 0 → x.1.kx % shapeGroup sh = 0 →
      y.1.kx * shapeGroup sh = x.1.kx * shapeKeep sh → y.1.rows = x.1.rows → e * shapeKeep sh * shapeIw sh ≤ 128 * len → o.d.toNat + len ≤ 64 →
      ∃ t, exec (.cmpr sh u8 o) s = .next t ∧ issued s t (.cmpr sh u8) 2 [A, B] (span o.d len)) ∧
    (∀ (sh : Shape) (u8 : Bool),
      let len := 2 ^ o.l.toNat
      let x := s.opnd o.b .expand
      let y := s.opnd o.c .expanded
      let e := metaCount sh u8 x.1.rows y.1.kx
      canIssue s [x, y] → s.me.ready (span o.a len ++ [o.b.toNat, o.c.toNat]) = true → s.me.numbers (span o.a len ++ [o.b.toNat, o.c.toNat]) = true →
      sameElts x y = true → x.1.rows % rowGroup u8 = 0 → y.1.kx % shapeGroup sh = 0 →
      x.1.kx * shapeGroup sh = y.1.kx * shapeKeep sh → x.1.rows = y.1.rows → e * shapeKeep sh * shapeIw sh ≤ 128 * len →
      metaBad (metaEntries sh (winNat (s.win o.a len)) e) = none →
      ∃ t, exec (.mxpd sh u8 o) s = .next t ∧ issued s t (.mxpd sh u8) 2 [B, C] [])

open Sys2Proof.Spec in
/-- FORK, RDV and MSTAT (R203, R206, R207) complete: FORK starts a program at an even address and leases its window; RDV with nothing
running joins: leases end, flags are ORed, the operations leave the queue; MSTAT reads ENG; MSTAT.ABORT ends the program and every lease,
and of the operations only those that run or are complete stay. ENDP, ELOOP and EBUMP (R205): a thread that meets one raises ILL, reason 9
(which register TVAL names there, and that the register checks of ELOOP and EBUMP come before it, is the model's choice: logs 21 and 11); in
an engine program the step ends the program, decrements the register and loops while it is not zero, or moves a descriptor's offset by the
number in gB. -/
def Obligations.EngineControlAndProgram : Prop :=
  (
    (∀ (o : Ops) (s : State),
      let f := (s.lo o.b).toNat % 64
      let n := (s.lo o.b).toNat / 64 % 64
      s.me.ready ([o.a.toNat, o.b.toNat] ++ (List.range n).map (f + ·)) = true → s.me.numbers [o.a.toNat, o.b.toNat] = true → s.me.prog = none →
      (s.lo o.a).getLsbD 0 = false → 1 ≤ f → f + n ≤ 56 →
      ∃ t, exec (.fork o) s = .next t ∧ t.me.pc = s.nextPc ∧ t.mem = s.mem ∧
        t.me.prog = some { pc := (s.lo o.a).setWidth 56, first := f, count := n } ∧
        (∀ k, f ≤ k → k < f + n → (t.me.reg k).pres = .leased ∧ (t.me.reg k).bits = (s.me.reg k).bits)) ∧
    (∀ s : State, (s.opsOf s.cur).all (fun e => e.fin && e.susp.isNone) = true → (∀ p, s.me.prog = some p → p.ended = true ∧ p.susp = none) →
      ∃ t, exec .rdv s = .next t ∧ t.me.pc = s.nextPc ∧ t.me.prog = none ∧ t.mem = s.mem ∧ t.opsOf s.cur = [] ∧
        (∀ n, (t.me.reg n).pres ≠ .leased) ∧
        t.me.fcs = s.me.fcs ||| (((s.opsOf s.cur).foldl (fun (f : Flags) e => f ||| e.flags) 0).setWidth 64 <<< 4)) ∧
    (∀ (o : Ops) (s : State), s.me.ready [o.d.toNat] = true → exec (.mstat o) s = .next (s.put o.d (s.engWord s.cur)).endNext) ∧
    (∀ s : State, ∃ t, exec .mstatAbort s = .next t ∧ t.me.pc = s.nextPc ∧ t.me.prog = none ∧ t.mem = s.mem ∧
      (∀ n, (t.me.reg n).pres ≠ .leased) ∧ ∀ e ∈ t.opsOf s.cur, e ∈ s.opsOf s.cur ∧ (e.fin = true ∨ (e.started = true ∧ e.susp = none)))) ∧
  (
    (∀ s : State, exec .endp s = .next (s.takeTrap s.cur .ill (illVal 0 9) false s.ilen)) ∧
    (∀ (o : Ops) (s : State), s.me.ready [o.a.toNat] = true → exec (.eloop o) s = .next (s.takeTrap s.cur .ill (illVal o.a.toNat 9) false s.ilen)) ∧
    (∀ (o : Ops) (s : State), s.me.ready [o.d.toNat, o.a.toNat, o.b.toNat] = true →
      exec (.ebump o) s = .next (s.takeTrap s.cur .ill (illVal o.a.toNat 9) false s.ilen)) ∧
    (∀ (s t : State) (p : Prog) (i : Instr) (n : Nat), s.me.prog = some p → p.ended = false → p.susp = none → s.opsOf s.cur = [] →
      s.fetch s.cur p.pc = (.instr i n, t) → t.ctxs = s.ctxs → t.cur = s.cur →
      (i = .endp → ∃ u q, exec (.engineProgramStep s.cur) s = .next u ∧ u.me.prog = some q ∧ q.ended = true) ∧
      (∀ o, i = .eloop o → 1 ≤ o.a.toNat → o.a.toNat < 56 → p.first ≤ o.a.toNat → o.a.toNat < p.first + p.count → (s.me.reg o.a.toNat).tag = .data →
        ∃ u q, exec (.engineProgramStep s.cur) s = .next u ∧ u.me.prog = some q ∧ (u.me.reg o.a.toNat).bits = (s.lo o.a - 1).setWidth 128 ∧
          q.pc = if s.lo o.a = 1 then p.pc + BitVec.ofNat 56 (2 * n) else p.pc + (2 * o.imm).setWidth 56) ∧
      (∀ o, i = .eloop o → o.a = 0 → ∃ u q, exec (.engineProgramStep s.cur) s = .next u ∧ u.me.prog = some q ∧ u.me.regs = s.me.regs ∧
        q.pc = p.pc + BitVec.ofNat 56 (2 * n)) ∧
      (∀ (o : Ops) (off : Nat), i = .ebump o → (∀ r ∈ [o.d, o.a, o.b], r.toNat < 56 ∧ p.first ≤ r.toNat ∧ r.toNat < p.first + p.count) → 1 ≤ o.d.toNat →
        (s.me.reg o.a.toNat).tag = .data → (s.me.reg o.b.toNat).tag = .data →
        off < 2 ^ 19 → (fld (s.bits o.a) 18 0 : Int) + (s.lo o.b).toInt = (off : Int) →
        ∃ u q, exec (.engineProgramStep s.cur) s = .next u ∧ u.me.prog = some q ∧ (u.me.reg o.d.toNat).bits = setFld (s.bits o.a) 18 0 off ∧
          q.pc = p.pc + BitVec.ofNat 56 (2 * n))))

namespace Sys2Proof.Spec

/-- A thread's operation is at work on a set and can run (R186, R191, R206): it has started, nothing has stopped it, the rows of its PEER operands
are staged, its tiles at other cores can be reached (R58), and its firing is the one its context holds. -/
def canComplete (s : State) (cid set : Nat) (op : EOp) : Prop :=
  (s.coreAt cid).atWork set = some op ∧ op.set = set ∧ op.cid = cid ∧ op.started = true ∧ op.susp = none ∧ op.fetch = none ∧
  op.nextRow = none ∧ op.task = none ∧ op.lives s = true ∧ op.reaches s = true

/-- An accumulator set of a core (R186). -/
def setOf (s : State) (cid n : Nat) : AccSet := if n = 1 then (s.coreAt cid).sets[1] else (s.coreAt cid).sets[0]

/-- The operation is complete, not yet joined, with these flags beside those it had; all of them are on their way to CFU (R139, R141), and the sets
that it does not name are as they were. -/
def completed (s t : State) (op : EOp) (fl : Flags) : Prop :=
  (∃ e ∈ (t.coreAt op.cid).equeue, e.id = op.id) ∧
  (∀ e ∈ (t.coreAt op.cid).equeue, e.id = op.id → e.fin = true ∧ e.flags = op.flags ||| fl) ∧
  (op.flags ||| fl ≠ 0 → ∃ x, (t.cluAt (op.g / 64)).flagsIn = (s.cluAt (op.g / 64)).flagsIn ++ [x] ∧ x.flags = op.flags ||| fl ∧
    x.core = op.g / 4 % 16) ∧
  (∀ n, n < 2 → n ≠ op.set → setOf t op.cid n = setOf s op.cid n)

/-- What a multiplication leaves in element (i, j) of its set, from the value that stood there (R187, R188): the sums of its chunks added one after
the other, each with one rounding in FP32 or modulo 2^32, and the flags of those additions. -/
def accumulated (op : EOp) (s : State) (int : Bool) (x : BitVec 32) (i j : Nat) : BitVec 32 × Flags :=
  (List.range ((op.kDense + 7) / 8 - op.chunk)).foldl (fun r n =>
    match op.dot s i j (op.chunkRow op.entries (op.chunk + n) i (op.width i j)) with
    | none => r
    | some y => ((addChunk int r.1 y).1, r.2 ||| (addChunk int r.1 y).2)) (x, 0)

/-- Every register that the operation has leased, if it still is, holds its value of `vs`, DATA and FULL; the context's other registers stay. -/
def leaseFilled (s t : State) (op : EOp) (vs : List Quad) : Prop :=
  (∀ (k r : Nat) (v : Quad), op.leased[k]? = some r → vs[k]? = some v → ((s.ctxAt op.g).regAt r).pres = .leased → (t.ctxAt op.g).regAt r = { bits := v }) ∧
  (∀ r, (r ∉ op.leased ∨ ((s.ctxAt op.g).regAt r).pres ≠ .leased) → (t.ctxAt op.g).regAt r = (s.ctxAt op.g).regAt r)

end Sys2Proof.Spec

open Sys2Proof.Spec in
/-- The engine's own events (R186, R187, R191, R198 to R201, R206). A queued operation of a set starts when nothing holds it back. MZERO
completes with every element of its set zero and its type set; MMA and MMAS with the sums of their chunks added to each element; MDRN with
the set drained into the tile's rows and scales, and cleared by .CLR; MDRN.R with sixteen elements in its leased window; MLDA with the
values of its tile in a set else zero; CMPR with the kept columns in its destination and the index set in its leased window; MXPD with the
dense rows, zero where an element was pruned. Flags are kept with the operation. A PEER row is asked for by one load packet for each 64-byte
block, and staged when the last packet has come. -/
def Obligations.EngineEvents : Prop :=
  (∀ (cid set : Nat) (s : State) (op : EOp), (s.coreAt cid).atWork set = some op → op.started = false →
    (op.task = none → (s.coreAt cid).heldBack op = false ∧ (s.coreAt cid).startsAfter op = false) →
    exec (.engineOpStart cid set) s = .next (s.updOp cid op.id (fun e => { e with started := true }))) ∧
  (∀ (cid set : Nat) (b : Bool) (s : State) (op : EOp), canComplete s cid set op →
    (∀ int, op.kind = .mzero int → set < 2 →
      ∃ t, exec (.engineOpComplete cid set b) s = .next t ∧ completed s t op 0 ∧ t.mem = s.mem ∧ t.ctxs = s.ctxs ∧ setOf t cid set = { int := int }) ∧
    ((op.kind = .mma ∨ ∃ sh u, op.kind = .mmas sh u) → set < 2 → (op.tile 1).rows ≤ 32 →
      (∀ c, op.chunk ≤ c → 8 * c < op.kDense → op.chunkFault s op.entries c = none) →
      let a := setOf s cid set
      ∃ t fl, exec (.engineOpComplete cid set b) s = .next t ∧ completed s t op fl ∧ t.mem = s.mem ∧ t.ctxs = s.ctxs ∧
        (setOf t cid set).int = a.int ∧
        (∀ i j, j < 32 → (setOf t cid set).elems.get 0 (i * 32 + j) =
          if i < (op.tile 0).rows ∧ j < (op.tile 1).rows then (accumulated op s a.int (a.elems.get 0 (i * 32 + j)) i j).1
          else a.elems.get 0 (i * 32 + j)) ∧
        (∀ k, fl.getLsbD k = true ↔ ∃ i j, i < (op.tile 0).rows ∧ j < (op.tile 1).rows ∧
          (accumulated op s a.int (a.elems.get 0 (i * 32 + j)) i j).2.getLsbD k = true)) ∧
    (∀ clr u, op.kind = .mdrn clr → set < 2 → (setOf s cid set).sumBad b = false →
      let a := setOf s cid set
      let home := (op.tile 0).home cid
      engWrites op.lid home (drainWrites a (op.tile 0) s home (op.fmts 0)).1 s = .ok u →
      ∃ t, exec (.engineOpComplete cid set b) s = .next t ∧ completed s t op (drainWrites a (op.tile 0) s home (op.fmts 0)).2 ∧ t.mem = u.mem ∧
        t.ctxs = s.ctxs ∧ setOf t cid set = if clr then { int := a.int } else a) ∧
    (∀ clr sel, op.kind = .mdrnR clr sel → set < 2 → (setOf s cid set).sumBad b = false → op.leased.Nodup →
      let a := setOf s cid set
      ∃ t, exec (.engineOpComplete cid set b) s = .next t ∧ completed s t op 0 ∧ t.mem = s.mem ∧
        leaseFilled s t op (laneRegs ((List.range 16).map (fun l => a.elems.get 0 (sel % 32 * 32 + 16 * (sel / 32) + l)))) ∧
        setOf t cid set = if clr then { int := a.int } else a) ∧
    (∀ int, op.kind = .mlda int → set < 2 → (op.tile 0).kx ≤ 32 → op.tileFault s 0 = none →
      let v (i j : Nat) : BitVec 32 × Flags := if int then (BitVec.ofInt 32 (numInt (op.value s 0 i j)), 0) else toF32 0 (op.value s 0 i j, 0)
      ∃ t fl, exec (.engineOpComplete cid set b) s = .next t ∧ completed s t op fl ∧ t.mem = s.mem ∧ t.ctxs = s.ctxs ∧
        (setOf t cid set).int = int ∧
        (∀ i j, j < 32 → (setOf t cid set).elems.get 0 (i * 32 + j) = if i < (op.tile 0).rows ∧ j < (op.tile 0).kx then (v i j).1 else 0) ∧
        (∀ k, fl.getLsbD k = true ↔ ∃ i j, i < (op.tile 0).rows ∧ j < (op.tile 0).kx ∧ (v i j).2.getLsbD k = true)) ∧
    (∀ sh u8 u, op.kind = .cmpr sh u8 → set = 2 → op.tileFault s 0 = none → op.leased.Nodup →
      let home := (op.tile 1).home cid
      engWrites op.lid home (tileRows (op.tile 1) s home (op.fmts 1) (op.pruned s sh u8)) s = .ok u →
      ∃ t, exec (.engineOpComplete cid set b) s = .next t ∧ completed s t op 0 ∧ t.mem = u.mem ∧
        leaseFilled s t op ((winRegs op.destLen (op.indexSet s sh u8)).map (·.1))) ∧
    (∀ sh u8 u, op.kind = .mxpd sh u8 → set = 2 → op.tileFault s 0 = none →
      let home := (op.tile 1).home cid
      engWrites op.lid home (tileRows (op.tile 1) s home (op.fmts 1) (op.dense s)) s = .ok u →
      ∃ t, exec (.engineOpComplete cid set b) s = .next t ∧ completed s t op 0 ∧ t.mem = u.mem ∧ t.ctxs = s.ctxs)) ∧
  (∀ (cid set i r x : Nat) (s : State) (op : EOp), (s.coreAt cid).atWork set = some op → op.cid = cid → op.started = true → op.susp = none →
    op.fetch = none → (s.coreAt cid).fenced = false → s.stopsRows op.lid = false → op.nextRow = some (i, r) →
    let gs := rowPackets (rowRuns (op.peerBytes i r))
    ∃ t msgs, exec (.peerRowFetch cid set x) s = .next t ∧ t.mem = s.mem ∧ t.ctxs = s.ctxs ∧ t.net = s.net ++ msgs ∧ msgs.length = gs.length ∧
      (∀ k m, msgs[k]? = some m → m.id = s.nextId + k ∧ m.g = op.g ∧ m.fire = op.fire ∧ m.pid = op.pid ∧ ∃ a, m.body = .acc a ∧ a.kind = .load ∧
        gs[k]? = some a.pieces ∧ a.row = some (cid, op.id)) ∧
      ∀ e ∈ (t.coreAt cid).equeue, e.id = op.id → e.fetch = some { operand := i, row := r, left := gs.length }) ∧
  (∀ (id oid cid : Nat) (s : State) (m : Msg) (a : Acc) (y : Answer) (op : EOp) (x : RowFetch), s.msg id = some m → m.body = .acc a →
    m.stage = .answered y → a.kind = .load → m.path = none → s.behindReply m = false → a.row = some (cid, oid) →
    (s.coreAt cid).equeue.find? (fun e => e.id == oid) = some op → op.cid = cid → op.fetch = some x → x.left = 1 → op.task = none →
    let as := op.peerBytes x.operand x.row
    (x.fault = none → a.faults = [] →
      ∃ t, exec (.loadReply id) s = .next t ∧ t.mem = s.mem ∧ t.ctxs = s.ctxs ∧ t.msg m.id = none ∧
        ∀ e ∈ (t.coreAt cid).equeue, e.id = oid → e.fetch = none ∧ ∃ e' ∈ (s.coreAt cid).equeue, e'.id = oid ∧
          e.rows = e'.rows ++ [(x.operand, x.row, rowBytesOf as.length (rowRuns as) (x.got ++ a.got))]) ∧
    (∀ n f, lowerFault x.fault a.faults = some (n, f) → op.lives s = true →
      ∃ t, exec (.loadReply id) s = .next t ∧ ∀ e ∈ (t.coreAt cid).equeue, e.id = oid → e.fetch = none ∧ e.susp = some f))

/-! ## Actors, tags, spawns and neighbour links (R49 to R73, R103 to R105) -/

/-- TEN, TDIS and TPND (R71) complete: they enable, disable or read the tags of the mask in gB, and give the old enables, or what is
pending. ACTDEF and ACTCTL (R72, R73) complete: a well-formed descriptor defines the actor with status 0; ENA, DIS and PRI change the entry
of a defined actor; STAT reports it; FLUSH empties the rings of a stopped one, as new rings (a ring into which a firing is producing goes on
at that firing's block, and the generation is the turn number: the model's choice, log 18); SPRI sets the spawn priority. SPAWN (R70) sends
one packet with the child's address, launch and argument registers, ABN staying ABN and every other tag, a capability's too, becoming DATA,
and waits; when the reply is here it completes with the status (that an odd address is sent with its bit 0 cleared is the model's choice:
log 48). NBW puts its window into the neighbour's buffer, NBARM makes its window EMPTY and armed (R103, R104). -/
def Obligations.ActorsSpawnsAndLinks : Prop :=
  (
    ∀ (o : Ops) (s : State), s.me.ready [o.d.toNat, o.b.toNat] = true → s.me.numbers [o.b.toNat] = true →
      let m : BitVec 16 := (s.lo o.b).setWidth 16
      exec (.ten o) s = .next ((s.updMyCore (fun k => { k with tagsEn := k.tagsEn ||| m })).put o.d (s.myCore.tagsEn.setWidth 64)).endNext ∧
      exec (.tdis o) s = .next ((s.updMyCore (fun k => { k with tagsEn := k.tagsEn &&& ~~~m })).put o.d (s.myCore.tagsEn.setWidth 64)).endNext ∧
      (∃ v : Word, exec (.tpnd o) s = .next (s.put o.d v).endNext ∧
        (∀ i, i < 16 → (v.getLsbD i = true ↔ (m.getLsbD i = true ∧ ∃ p ∈ s.myCore.edge, p.tag = i))) ∧ ∀ i, 16 ≤ i → v.getLsbD i = false)) ∧
  (
    ∀ (o : Ops) (s : State), s.me.numbers [o.a.toNat] = true →
      let i := (s.lo o.a).toNat
      (s.me.ready ([o.d.toNat, o.a.toNat] ++ span o.b 2) = true → s.me.holdsCap o.b = true → i ≤ 31 →
        s.reaches (s.capAt o.b) (s.capAt o.b).cur 80 [pRD] [0] 16 = true → s.free (s.capAt o.b).cur 80 false = true →
        ((s.myCore.actors.find i).bind (·.ctx)) = none → ∀ a, actorOf s.myCore i (ownRead s (s.capAt o.b).cur 80) = some a →
        exec (.actdef o) s = .next ((s.updMyCore (fun k => { k with actors := k.actors.put i a, rings := ringsAfter k i a s.turns })).put o.d 0).endNext) ∧
      (s.me.ready [o.d.toNat, o.a.toNat, o.b.toNat] = true → s.me.numbers [o.b.toNat] = true →
        exec (.actctlSpri o) s = .next ((s.updMyCore (fun k => { k with spri := (s.lo o.b).toNat % 8 })).put o.d 0).endNext ∧
        (∀ a, i ≤ 31 → s.myCore.actors.find i = some a →
          exec (.actctlEna o) s = .next ((s.putActor i { a with en := true }).put o.d 0).endNext ∧
          exec (.actctlDis o) s = .next ((s.putActor i { a with en := false }).put o.d 0).endNext ∧
          exec (.actctlPri o) s = .next ((s.putActor i { a with prio := (s.lo o.b).toNat % 8 }).put o.d 0).endNext ∧
          exec (.actctlStat o) s = .next (s.put o.d (actorWord s.myCore a)).endNext ∧
          (a.en = false → a.ctx = none → exec (.actctlFlush o) s = .next ((s.updMyCore (fun k => { k with
            rings := a.used.foldl (fun t f => t.put f.2.ring { head := if k.producing f.2.ring then (k.rings.get {} f.2.ring).head + (k.rings.get {} f.2.ring).occ else 0, gen := s.turns }) k.rings })).put o.d 0).endNext)))) ∧
  (
    (∀ (o : Ops) (s : State), s.me.phase = .idle →
      let w := s.bits o.a
      let n := fld w 78 75
      s.me.ready ([o.d.toNat, o.a.toNat] ++ span o.b n) = true → s.me.numbers [o.a.toNat] = true → o.b.toNat % 8 = 0 → n ≤ 8 →
      s.streamBusy s.cur = false → (fld w 74 64 = s.cid → s.queueOut = false) →
      ∃ t m, exec (.spawn o) s = .next t ∧ t.net = s.net ++ [m] ∧ t.me.phase = .sent m.id ∧ t.me.pc = s.me.pc ∧
        m.body = .spawn (fld w 74 64) (w.setWidth 56 &&& ~~~(1 : PcAddr)) s.me.lid
          ((s.win o.b n).map (fun v => (v.1, if v.2 = .abn then .abn else .data)))) ∧
    (∀ (o : Ops) (s : State) (a : Answer), s.me.phase = .done a → exec (.spawn o) s = .next (s.put o.d (a.data.setWidth 64)).endNext) ∧
    (∀ (o : Ops) (s : State) (k : Nat), s.me.ready (span o.a (2 ^ o.l.toNat) ++ [o.b.toNat]) = true → s.me.numbers [o.b.toNat] = true →
      let n := 2 ^ o.l.toNat
      let w := s.lo o.b
      let d := dirOf (w.toNat % 4)
      1 ≤ fld w 9 4 → fld w 9 4 ≤ 55 → fld w 9 4 % n = 0 → neighbour s.cid d = some k → (s.coreAt k).fenced = false →
      (s.coreAt k).resetting = false → (s.coreAt k).lid = s.me.lid → s.loadsOut = false → s.gate = false → s.storesTo k = false →
      (k = s.cid → s.queueOut = false) → s.myCore.fenced = false → s.net.any (fun x => x.g / 4 == s.cid && x.goesTo false k) = false →
      (s.coreAt k).links.find (dirCode (backDir d)) = none →
      exec (.nbw o) s = .next (s.updCore k (fun c => { c with links := c.links.put (dirCode (backDir d)) { ctx := fld w 3 2, first := fld w 9 4, vals := (s.win o.a n).map (fun v => (v.1, sentTag v.2)) } })).endNext) ∧
    (∀ (o : Ops) (s : State), s.me.ready (span o.d (2 ^ o.l.toNat) ++ [o.b.toNat]) = true → s.me.numbers [o.b.toNat] = true →
      (s.myCore.links.find (dirCode (dirOf ((s.lo o.b).toNat % 4)))) = none →
      ∃ t, exec (.nbarm o) s = .next t ∧ t.me.pc = s.nextPc ∧ t.mem = s.mem ∧
        ∀ n ∈ span o.d (2 ^ o.l.toNat), n ≠ 0 → n < 64 → (t.me.reg n).pres = .empty ∧ (t.me.reg n).armed = some (dirOf ((s.lo o.b).toNat % 4))))

/-! ## Cluster services (R235 to R250) -/

open Sys2Proof.Spec in
/-- MAPP and MRECV (R235, R236): MAPP sends one message to each core of the mask and waits (that it first waits for the context's own queued
stores is the model's choice: log 58); once all have answered it writes the accepted and refused masks. MRECV makes its registers EMPTY and
notes the pending receive. -/
def Obligations.Messages : Prop :=
  (∀ (o : Ops) (s : State), s.me.phase = .idle →
    let w := s.lo o.b
    let n := fld w 23 20
    s.me.ready ([o.c.toNat, o.b.toNat] ++ span o.a n) = true → s.me.numbers [o.b.toNat] = true → s.me.storable (span o.a n) = true →
    fld w 19 16 ≠ 0 → fld w 19 16 ≠ 15 → 1 ≤ n → n ≤ 8 → fld w 63 24 = 0 → (n ≤ 4 ∨ o.a.toNat % 8 = 0) → fld w 15 0 ≠ 0 →
    (∀ c ∈ maskCores (fld w 15 0), (s.coreAt (s.clu * 16 + c)).lid = s.me.lid) → s.streamBusy s.cur = false →
    s.queueOut = false →
    ∃ t, exec (.mapp o) s = .next t ∧ t.net.length = s.net.length + (maskCores (fld w 15 0)).length ∧ t.me.phase = .part s.nextId 0 ∧
      t.me.pc = s.me.pc ∧ ∀ c ∈ maskCores (fld w 15 0), ∃ m ∈ t.net, ∃ p, m.body = .packet p ∧ p.to_ = s.clu * 16 + c ∧ p.tag = fld w 19 16 ∧
        p.regs = (s.win o.a n).map (·.1)) ∧
  (∀ (o : Ops) (s : State) (k x : Nat), s.me.phase = .part k x → x % 2 ^ 16 ||| x / 2 ^ 16 = fld (s.lo o.b) 15 0 →
    exec (.mapp o) s = .next (s.put o.c (BitVec.ofNat 64 x)).endNext) ∧
  (∀ (o : Ops) (s : State), s.me.ready ([o.c.toNat] ++ span o.a 8 ++ [o.b.toNat]) = true → s.me.numbers [o.b.toNat] = true →
    s.me.recvs.length < 2 → o.a.toNat + 8 ≤ 56 → o.c.toNat < 56 →
    ∃ t, exec (.mrecv o) s = .next t ∧ t.me.pc = s.nextPc ∧ t.mem = s.mem ∧
      t.me.recvs = s.me.recvs ++ [{ hdr := o.c.toNat, pay := o.a.toNat, mask := fld (s.lo o.b) 15 0 }] ∧
      ∀ n ∈ o.c.toNat :: span o.a 8, n ≠ 0 → (t.me.reg n).pres = .empty)

namespace Sys2Proof.Spec

/-- The context has sent one request and waits for its answer at the same instruction, not in a blocked wait. -/
def asked (s t : State) (b : Body) : Prop :=
  (∃ m, t.net = s.net ++ [m] ∧ m.body = b ∧ m.g = s.cur ∧ m.fire = s.me.fire ∧ t.me.phase = .sent m.id) ∧ t.me.pc = s.me.pc ∧ t.me.wait = none ∧
  t.me.regs = s.me.regs ∧ t.mem = s.mem

end Sys2Proof.Spec

open Sys2Proof.Spec in
/-- The phaser instructions (R238, R239): PHREG, PHDROP and PHSIG send their request to the cluster unit, PHSIG once the context's earlier
accesses are performed, and stay at their instruction without a blocked wait; they complete, PHREG and PHDROP with the answer of the cluster
unit; PHSIG with the phase it has signalled; PHWAIT of a completed member with the combined value (a WAIT member's, the phase's last one);
PHADV, after its signal, as PHWAIT. That PHREG and PHDROP stay at their instruction without a blocked wait is the model's choice (log 19). -/
def Obligations.PhaserInstructions : Prop :=
  ∀ (o : Ops) (s : State), s.me.numbers [o.a.toNat, o.b.toNat] = true →
    let n := (s.lo o.a).toNat
    let w := s.lo o.b
    (s.me.ready [o.d.toNat, o.a.toNat, o.b.toNat] = true → n ≤ 63 → ∀ a, s.me.phase = .done a →
      (fld w 1 0 ≠ 0 → fld w 5 2 < 8 → fld w 63 7 = 0 →
        exec (.phreg o) s = .next (s.put o.d (a.data.setWidth 64)).endNext) ∧
      (∀ m, (s.phaser s.clu n).member s.cur = some m → (m.mode = 1 ∨ m.mode = 3) → a.data.getLsbD 64 = false →
        exec (.phsig o) s = .next (s.put o.d (a.data.setWidth 64)).endNext)) ∧
    (s.me.ready [o.d.toNat, o.a.toNat, o.b.toNat] = true → n ≤ 63 → s.me.phase = .idle →
      (fld w 1 0 ≠ 0 → fld w 5 2 < 8 → fld w 63 7 = 0 → ∃ t, exec (.phreg o) s = .next t ∧ asked s t (.phaser 0 n w)) ∧
      (∀ m, quiet s → (s.phaser s.clu n).member s.cur = some m → (m.mode = 1 ∨ m.mode = 3) →
        ∃ t, exec (.phsig o) s = .next t ∧ asked s t (.phaser 2 n w))) ∧
    (s.me.ready [o.d.toNat, o.b.toNat] = true → w.toNat ≤ 63 → s.me.phase = .idle → ∃ t, exec (.phdrop o) s = .next t ∧ asked s t (.phaser 1 w.toNat 0)) ∧
    (s.me.ready [o.d.toNat, o.a.toNat, o.b.toNat] = true → n ≤ 63 → ∀ m x, s.me.phase = .part 2 x →
      (s.phaser s.clu n).member s.cur = some m → m.mode = 3 → m.completed = true →
      ∃ t, exec (.phadv o) s = .next t ∧ t.me.pc = s.nextPc ∧ t.mem = s.mem ∧ (o.d ≠ 0 → (t.me.reg o.d.toNat).bits = m.val.setWidth 128)) ∧
    (s.me.ready [o.d.toNat, o.b.toNat] = true → w.toNat ≤ 63 →
      (∀ a, s.me.phase = .done a → exec (.phdrop o) s = .next (s.put o.d (a.data.setWidth 64)).endNext) ∧
      (∀ m, (s.phaser s.clu w.toNat).member s.cur = some m → (m.mode = 2 ∨ m.mode = 3 ∧ m.waited = false) → m.completed = true →
        s.loadsOut = false → s.gate = false → s.cluStoresOut = false → s.queueOut = false →
        ∃ t, exec (.phwait o) s = .next t ∧ t.me.pc = s.nextPc ∧ t.mem = s.mem ∧
          (o.d ≠ 0 → (t.me.reg o.d.toNat).bits = (if m.mode = 2 then (s.phaser s.clu w.toNat).last else m.val).setWidth 128)))

open Sys2Proof.Spec in
/-- The tile-task and wait-table instructions complete (R244, R247, R249): TQPUT of a record that is accepted enqueues the task with status
0; TQWAIT and TQWAIT.ALL join complete tasks; WAITT.READ reads an entry; WAITT.ARM by the supervisor sets the limit and gives the old one. -/
def Obligations.TasksAndWaitTable : Prop :=
  ∀ (o : Ops) (s : State),
    (let c := s.capAt o.b
     s.me.ready (o.d.toNat :: span o.b 2) = true → s.me.holdsCap o.b = true → s.reaches c c.cur 64 [pRD] [0, 1] 16 = true →
     s.isOwn c.spc c.cur = true → s.free c.cur 64 false = true → quiet s → tqStatus s (ownRead s c.cur 64) = 0 →
     ∃ t k, exec (.tqput o) s = .next t ∧ t.me.pc = s.nextPc ∧ t.mem = s.mem ∧ k ∈ (t.cluAt s.clu).tasks ∧ k.bytes = ownRead s c.cur 64 ∧
       k.lid = s.me.lid ∧ k.g = s.cur ∧ k.st = .pending ∧ k.joined = false ∧ (o.d ≠ 0 → (t.me.reg o.d.toNat).bits = 0)) ∧
    (s.me.numbers [o.b.toNat] = true → s.me.ready [o.d.toNat, o.b.toNat] = true →
      (∀ k, (s.cluAt s.clu).task s.me.lid ((s.lo o.b).toNat % 1024) = some k → k.st = .done → k.joined = false → s.loadsOut = false →
        s.gate = false → s.cluStoresOut = false → s.queueOut = false →
        ∃ t, exec (.tqwait o) s = .next t ∧ t.me.pc = s.nextPc ∧ t.mem = s.mem ∧ (o.d ≠ 0 → (t.me.reg o.d.toNat).bits = 0) ∧
          t.me.fcs = s.me.fcs ||| (k.flags.setWidth 64 <<< 4)) ∧
      exec (.waittRead o) s = .next (s.put o.d (s.waitEntry (s.clu * 64 + (s.lo o.b).toNat % 64))).endNext ∧
      (s.isSupervisor s.cid = true → exec (.waittArm o) s = .next ((s.updClu s.clu (fun u => { u with
        monLimit := fld (s.lo o.b) 39 0 })).put o.d (BitVec.ofNat 64 (s.cluAt s.clu).monLimit)).endNext)) ∧
    (s.me.ready [o.d.toNat] = true → s.myTasks.all (fun k => k.st == .done) = true → s.loadsOut = false → s.gate = false → s.cluStoresOut = false → s.queueOut = false →
      ∃ t, exec (.tqwaitAll o) s = .next t ∧ t.me.pc = s.nextPc ∧ t.mem = s.mem ∧
        (o.d ≠ 0 → (t.me.reg o.d.toNat).bits = BitVec.ofNat 128 (s.myTasks.length % 2 ^ 64)))

/-! ## Events of core edges and cluster units (R52, R58, R59, R63, R70, R105, R141, R229 to R251) -/

namespace Sys2Proof.Spec

/-- The packet p, in flight under a number, may be taken at its core's edge now (R58, R63, R81, R235): the target is reachable, the sender is
not fenced or the packet is a fault message, and nothing it follows is under way. -/
def mayArrive (s : State) (id : Nat) (m : Msg) (p : Packet) : Prop :=
  s.msg id = some m ∧ m.body = .packet p ∧ (p.isFault = true ∨ (s.coreAt (p.from_ / 4)).fenced = false) ∧ (s.coreAt p.to_).open_ = true ∧
  s.behindPacket m p.isFault p.to_ = false ∧ (p.msg = true → s.behindAccess m p.to_ = false) ∧
  (s.cluAt (p.from_ / 64)).returned.any (fun q => q.from_ / 4 == p.from_ / 4 && q.to_ == p.to_ && q.tag == p.tag) = false

end Sys2Proof.Spec

open Sys2Proof.Spec in
/-- Spawns, acceptance replies and receives (R70, R235, R236): an open core of the launch with tag 0 enabled and room takes a spawn and
answers 0, else it answers 1; the answers reach the instruction that waits; the oldest pending receive takes the oldest matching message. -/
def Obligations.SpawnAndReceiveEvents : Prop :=
  (∀ (s : State) (id target : Nat) (m : Msg) (pc : PcAddr) (lid : Word) (args : List (Quad × Tag)), s.msg id = some m →
    m.body = .spawn target pc lid args → (s.coreAt (m.g / 4)).fenced = false →
    ((s.coreAt target).open_ = true → s.behindAccess m target = false ∧ s.behindPacket m false target = false) →
    let k := s.coreAt target
    let ok := k.open_ && k.tagsEn.getLsbD 0 && decide (k.spawnFifo.length < 8) && k.lid == lid
    ∃ t r, exec (.spawnArrival id) s = .next t ∧ t.mem = s.mem ∧ r ∈ t.net ∧ r.g = m.g ∧ r.fire = m.fire ∧
      r.body = .spawnReply id (if ok then 0 else 1) ∧
      (t.coreAt target).spawnFifo = if ok then k.spawnFifo ++ [{ pc := pc, lid := lid, args := args }] else k.spawnFifo) ∧
  (∀ (s : State) (id req st : Nat) (m : Msg), s.msg id = some m → m.body = .spawnReply req st → (s.ctxAt m.g).fire = m.fire →
    (s.ctxAt m.g).phase = .sent req → s.behindReply m = false →
    ∃ t, exec (.spawnReply id) s = .next t ∧ (t.ctxAt m.g).phase = .done { data := BitVec.ofNat 128 st } ∧ t.msg id = none ∧ t.mem = s.mem) ∧
  (∀ (s : State) (id req core k x : Nat) (ok : Bool) (m : Msg), s.msg id = some m → m.body = .mappReply req core ok →
    (s.ctxAt m.g).fire = m.fire → (s.ctxAt m.g).phase = .part k x → k = req → s.behindReply m = false →
    ∃ t, exec (.mappAcceptanceReply id) s = .next t ∧ (t.ctxAt m.g).phase = .part k (x ||| 2 ^ (core % 16 + if ok then 0 else 16)) ∧ t.mem = s.mem) ∧
  (∀ (s : State) (g : Nat) (r : Recv) (rest : List Recv) (e : Nat × Nat), (s.ctxAt g).recvs = r :: rest →
    (s.coreAt (g / 4)).inbox.find? (fun e => r.mask == 0 || r.mask.testBit e.2) = some e →
    s.poisonedAt (spad (g / 4) ((s.coreAt (g / 4)).slotAt e.1)) 144 = none →
    ∃ t, exec (.mrecvDelivery g) s = .next t ∧ (t.ctxAt g).recvs = rest ∧ (t.coreAt (g / 4)).inbox = (s.coreAt (g / 4)).inbox.erase e ∧
      t.mem = s.mem ∧ ∀ i, i < 8 → 1 ≤ r.pay → r.pay + 8 ≤ 72 → (r.hdr < r.pay ∨ r.pay + 8 ≤ r.hdr) →
        (t.ctxAt g).regAt (r.pay + i) = { bits := BitVec.ofNat 128 (s.numAt (spad (g / 4) ((s.coreAt (g / 4)).slotAt e.1 + 16 * (i + 1))) 16) })

open Sys2Proof.Spec in
/-- Packets at a core's edge (R52, R63, R234): a packet for an enabled tag with room becomes a token or an inbox message; one that cannot be
delivered is held in arrival order; a held one is delivered when it can be; a returned one is offered again; a routed output's next token
leaves as one packet. That a packet taken by an edge, or delivered from it, restarts the cluster's hang count is the model's choice (log
18). heartbeats, timeouts and neighbour writes (R58, R59, R64, R105): a heartbeat that runs out fences the core and sends the fault message
of kind 1 to its supervisor, to each mesh neighbour, and as a copy to the command processor; a wait whose counter runs out raises WTO with
the clk waited; a write in a receive buffer lands on registers armed for its direction. That the pc in the fault message is the context's pc
is the model's choice (log 44); a counter misses once (R58). -/
def Obligations.EdgePacketsHeartbeatsAndLinks : Prop :=
  (
    (∀ (s : State) (id : Nat) (m : Msg) (p : Packet), mayArrive s id m p → (s.coreAt p.to_).holds p.tag = false →
      (∀ f, (s.coreAt p.to_).landing p = .fifo f → exec (.routedPacketArrival id) s = .next (((s.land p (.fifo f)).accepted p true).gone id)) ∧
      (∀ n, (s.coreAt p.to_).landing p = .slot n → exec (.inboxDelivery id) s = .next (((s.land p (.slot n)).accepted p true).gone id)) ∧
      ((s.coreAt p.to_).landing p = .no → ((s.coreAt p.to_).edge.filter (·.tag == p.tag)).length < 16 →
        exec (.routedPacketArrival id) s = .next ((((s.updCore p.to_ (fun k => { k with edge := k.edge ++ [p] })).updClu (p.to_ / 16)
          (fun u => { u with hang := 0 })).accepted p true).gone id))) ∧
    (∀ (s : State) (cid tag : Nat) (p : Packet), (s.coreAt cid).open_ = true → (s.coreAt cid).edge.find? (·.tag == tag) = some p →
      (s.coreAt cid).landing p ≠ .no →
      exec (.heldPacketDelivery cid tag) s = .next ((s.updCore cid (fun k => { k with edge := k.edge.eraseP (·.tag == tag) })).land p
        ((s.coreAt cid).landing p))) ∧
    (∀ (s : State) (cl cid tag : Nat) (p : Packet), (s.cluAt cl).returned.find? (fun p => p.to_ == cid && p.tag == tag) = some p →
      (s.coreAt cid).open_ = true → ((s.coreAt cid).edge.filter (·.tag == tag)).length < 16 →
      ∃ t, exec (.packetReoffer cl cid tag) s = .next t ∧ (t.coreAt cid).edge = (s.coreAt cid).edge ++ [p] ∧
        (t.cluAt cl).returned = (s.cluAt cl).returned.eraseP (fun p => p.to_ == cid && p.tag == tag) ∧ t.mem = s.mem) ∧
    (∀ (s : State) (cid act out : Nat) (a : Actor),
      let f := a.fifos.getD (4 + out % 4) default
      let r := (s.coreAt cid).rings.get {} f.ring
      (s.coreAt cid).actors.find act = some a → f.rate ≠ 0 → f.bind = 2 → r.flight < r.occ → (s.coreAt cid).open_ = true →
      ∃ t m, exec (.outputDrain cid act out) s = .next t ∧ t.net = s.net ++ [m] ∧ ((t.coreAt cid).rings.get {} f.ring).flight = r.flight + 1 ∧
        t.mem = s.mem ∧ m.body = .packet { from_ := 4 * cid, to_ := f.dst, tag := f.tag, token := some (cid, f.ring, r.gen), bytes := s.bytesAt (spad cid (f.ring + (r.head + r.flight) % f.cap * f.size)) f.size })) ∧
  (
    (∀ (s : State) (g : Nat), g < 8192 → (s.ctxAt g).busy = true → (s.ctxAt g).hb = 0 → (s.ctxAt g).missed = false →
      ∃ t bs, exec (.heartbeatMiss g) s = .next t ∧ (t.coreAt (g / 4)).fenced = true ∧ (t.ctxAt g).missed = true ∧ t.mem = s.mem ∧ faultText s g 1 0 bs ∧
        faultSent t g (if g / 4 % 16 = 0 then g / 4 + 1 else g / 4 / 16 * 16) bs ∧
        (∀ d k, neighbour (g / 4) d = some k → faultSent t g k bs) ∧ ∃ m ∈ t.net, m.g = g ∧ m.body = .faultCopy bs) ∧
    (∀ (s : State) (g : Nat) (w : Wait), (s.ctxAt g).wait = some w → w.left = 0 → (s.ctxAt g).waits = true →
      exec (.waitTimeout g) s = .next (s.takeTrap g .wto (BitVec.ofNat 64 w.waited) false w.ilen)) ∧
    (∀ (s : State) (cid : Nat) (d : Dir) (m : NbMsg) (v : Quad × Tag), (s.coreAt cid).resetting = false →
      (s.coreAt cid).links.find (dirCode d) = some m → m.vals = [v] → 1 ≤ m.first → m.first < 56 → (s.ctxAt (4 * cid + m.ctx)).busy = true →
      ((s.ctxAt (4 * cid + m.ctx)).regAt m.first).armed = some d →
      ∃ t, exec (.neighbourWriteLand cid d) s = .next t ∧ (t.ctxAt (4 * cid + m.ctx)).regAt m.first = { bits := v.1, tag := v.2 } ∧
        (t.ctxAt (4 * cid + m.ctx)).event = true ∧ (t.coreAt cid).links = (s.coreAt cid).links.drop (dirCode d) ∧ t.mem = s.mem))

open Sys2Proof.Spec in
/-- Phaser requests, tile tasks, hang detection and the flag union (R141, R238 to R250): a signal contributes to the open phase and is
answered with it, the requests of one core in the order sent; dropping answers 1 without a membership; a ready task with a free engine goes
to it; a task whose operations are complete is done; a cluster that hangs raises HANG; the oldest flag set reaches CFU. cluster reset
(R251): a requested reset leaves no firing, zero scratchpads, no task, phaser or flag in the cluster, and cores that refuse traffic; its
completion opens them. A scrub of a scratchpad or of DRAM changes nothing that an instruction can see (R178, R289). -/
def Obligations.ClusterUnitEventsAndReset : Prop :=
  (
    (∀ (s : State) (id n : Nat) (v : Word) (m : Msg) (x : Member), s.msg id = some m → m.body = .phaser 2 n v → s.behindPhaser m = false → (s.ctxAt m.g).fire = m.fire →
      (s.phaser (m.g / 64) n).member m.g = some x → x.counts = true → x.flag = false →
      exec (.phaserRequest id) s = .next (((s.gone id).putPhaser (m.g / 64) n ((s.phaser (m.g / 64) n).contribute m.g v)).reply m.g m.fire id
        { data := (s.phaser (m.g / 64) n).phase.setWidth 128 })) ∧
    (∀ (s : State) (id n : Nat) (v : Word) (m : Msg), s.msg id = some m → m.body = .phaser 1 n v → s.behindPhaser m = false → (s.ctxAt m.g).fire = m.fire →
      (s.phaser (m.g / 64) n).member m.g = none →
      exec (.phaserRequest id) s = .next ((s.gone id).reply m.g m.fire id { data := 1 })) ∧
    (∀ (s : State) (cl cid : Nat) (t : Task),
      let home := (stepTile t.bytes 0 0).home (cl * 16)
      let x := taskOps s cl t.bytes
      let ranges (o : Opnd) : List LRange := tileRanges o.1 (cl * 16) o.2.1 o.2.2
      let rs := stepRanges (x.1.map (fun e => ranges e.1)) ++ stepRanges (x.1.map (fun e => ranges e.2)) ++ stepRanges [ranges x.2]
      (s.cluAt cl).tasks.find? (s.cluAt cl).ready = some t →
      (home :: (List.range 16).map (cl * 16 + ·)).find? (fun c => s.engineFree c t.lid) = some cid → taskCheck s cl t.lid t.bytes = none → rs.any (fun r => s.anyQueued r.cid r.base r.len) = false →
      locksFree s (chainKeys (s.cluAt cl) (s.cluAt cl).tasks.length t) rs = true →
      ∃ u, exec (.tileTaskDispatch cl) s = .next u ∧ u.mem = s.mem ∧ (∀ k ∈ (u.cluAt cl).tasks, k.key = t.key → k.st = .running cid) ∧
        (u.coreAt cid).equeue.length = (s.coreAt cid).equeue.length + recSteps t.bytes + 2) ∧
    (∀ (s : State) (cl cid : Nat) (t : Task), (s.cluAt cl).tasks.find? (fun x => x.key == t.key) = some t → t.st = .running cid →
      ((s.coreAt cid).equeue.filter (fun e => e.task == some t.key)).all (·.fin) = true → cid / 16 = cl →
      ∃ u, exec (.tileTaskComplete cl t.key) s = .next u ∧ u.mem = s.mem ∧ (∀ k ∈ (u.cluAt cl).tasks, k.key = t.key → k.st = .done) ∧
        (u.coreAt cid).equeue = (s.coreAt cid).equeue.filter (fun e => e.task != some t.key)) ∧
    (∀ (s : State) (cl : Nat), (s.cluAt cl).monLimit ≠ 0 → (s.cluAt cl).monLimit ≤ (s.cluAt cl).hang →
      (∀ i, i < 64 → (s.ctxAt (cl * 64 + i)).waits = true → (s.ctxAt (cl * 64 + i)).doubleTrap = false) →
      ∃ t, exec (.hang cl) s = .next t ∧ (t.cluAt cl).monLimit = 0 ∧ t.mem = s.mem ∧
        ∀ i w, i < 64 → (s.ctxAt (cl * 64 + i)).waits = true → (s.ctxAt (cl * 64 + i)).wait = some w → 1 ≤ w.kind → w.kind ≤ 5 →
          (t.ctxAt (cl * 64 + i)).tcause = 0x1A ∧ (t.ctxAt (cl * 64 + i)).tval = s.waitEntry (cl * 64 + i) ∧ (t.ctxAt (cl * 64 + i)).level = .system) ∧
    (∀ (s : State) (cl : Nat) (x : FlagSet) (rest : List FlagSet), (s.cluAt cl).flagsIn = x :: rest →
      let bits : Word := (x.flags.setWidth 64 <<< 4) ||| BitVec.ofNat 64 (2 ^ (16 + x.core))
      exec (.flagUnionUpdate cl) s = .next (s.updClu cl (fun u => { u with
        flagsIn := rest, cfu := u.cfu ||| bits, came := (s.cyc.toNat, (if u.came.1 = s.cyc.toNat then u.came.2 else 0) ||| bits) })))) ∧
  (
    (∀ (s : State) (cl : Nat), (s.cluAt cl).resetReq = true → s.Inv → ∃ t, exec (.clusterReset cl) s = .next t ∧
      (∀ loc, spad (16 * cl) 0 ≤ loc → loc < spad (16 * cl + 16) 0 → Memory.read t.mem loc = 0) ∧
      (t.cluAt cl).tasks = [] ∧ (t.cluAt cl).phasers = [] ∧ (t.cluAt cl).cfu = 0 ∧ (t.cluAt cl).monLimit = 0 ∧ (t.cluAt cl).resetting = true ∧
      (∀ i, i < 16 → (t.coreAt (16 * cl + i)).open_ = false ∧ (t.coreAt (16 * cl + i)).tagsEn = 0 ∧ (t.coreAt (16 * cl + i)).equeue = []) ∧
      (∀ i, i < 64 → (t.ctxAt (64 * cl + i)).busy = false)) ∧
    (∀ (s : State) (cl : Nat), (s.cluAt cl).resetting = true → ∃ t, exec (.clusterResetComplete cl) s = .next t ∧ (t.cluAt cl).resetting = false ∧
      (∀ i, i < 16 → (t.coreAt (16 * cl + i)).open_ = true) ∧ t.mem = s.mem) ∧
    (∀ (s : State) (n : Nat), exec (.scratchpadScrub n) s = .next s ∧ exec (.dramScrub n) s = .next s))

open Sys2Proof.Spec in
/-- Accesses at their homes and their replies (R229 to R232, R87): a store of one piece that its home accepts writes the bytes and is
answered; a load of one piece is answered with the value; the reply fills the destination FULL, or records its fault on it; an
acknowledgement keeps the first refusal (a load of the own scratchpad, as a part of a longer value, waits for the queued stores that it
meets); an atomic reads and writes its word in one step, and its answer reaches the instruction that waits. -/
def Obligations.ClusterAccessEvents : Prop :=
  (∀ (s : State) (id home : Nat) (m : Msg) (a : Acc) (p : Piece), s.msg id = some m → m.body = .acc a → m.stage = .new → m.homeCore = some home →
    m.id = id → s.atHomeNow m home = true → a.pieces = [p] →
    let off := p.va.toNat % 2 ^ 19
    (home = m.g / 4 → s.queueMeets m.g off p.n = false) →
    (a.kind = .store → homeCheck s home off p.bytes.length true a.sys = .ok () →
      exec (.remoteAccessAtHome id) s = .next (((s.unpoison (spad home off) p.bytes.length).store m.lid (spad home off) p.bytes).updMsg id
        (fun x => { x with stage := .answered {}, from_ := 1 + home, done := s.turns, body := .acc { a with pieces := [] } }))) ∧
    (a.kind = .load → a.got = [] → a.faults = [] → homeCheck s home off p.n false a.sys = .ok () →
      exec (.remoteAccessAtHome id) s = .next (s.updMsg id (fun x => { x with
        stage := .answered {}, from_ := 1 + home, done := s.turns
        body := .acc { a with pieces := [], got := [(p.part, s.numAt (spad home off) p.n)] } })))) ∧
  (∀ (s : State) (id k n x : Nat) (sg : Bool) (m : Msg) (a : Acc) (ans : Answer) (l : Load), s.msg id = some m → m.body = .acc a →
    m.stage = .answered ans → a.kind = .load → a.row = none → m.path = none → s.behindReply m = false → (s.ctxAt m.g).fire = m.fire → (s.ctxAt m.g).loads = [l] → l.key = a.key →
    l.left = 1 → l.how = .raw n sg → l.dest = [k] → 1 ≤ k → k < 72 → l.got = [] → l.fault = none → l.flags = 0 → a.flags = 0 →
    (a.faults = [] → a.got = [(0, x)] →
      ∃ t, exec (.loadReply id) s = .next t ∧ (t.ctxAt m.g).regAt k = { bits := extend n sg x } ∧ (t.ctxAt m.g).loads = [] ∧ t.mem = s.mem) ∧
    (∀ f, a.faults = [(0, f)] →
      ∃ t, exec (.loadReply id) s = .next t ∧ ((t.ctxAt m.g).regAt k).pres = .empty ∧ ((t.ctxAt m.g).regAt k).fault = some f ∧ t.mem = s.mem)) ∧
  (∀ (s : State) (id : Nat) (m : Msg) (a : Acc) (ans : Answer), s.msg id = some m → m.body = .acc a → m.stage = .answered ans →
    a.kind = .store → a.space < 2 → s.behindReply m = false → (s.ctxAt m.g).fire = m.fire →
    ∃ t, exec (.clusterStoreAck id) s = .next t ∧ t.msg id = none ∧ t.mem = s.mem ∧
      (t.ctxAt m.g).clusterRef = match (s.ctxAt m.g).clusterRef with
        | some f => some f
        | none => match a.faults with | x :: _ => some x.2 | [] => ans.fault) ∧
  (∀ (s : State) (id home : Nat) (op : AmoOp) (m : Msg) (a : Atom), s.msg id = some m → m.body = .atom a → m.stage = .new → m.homeCore = some home →
    m.id = id → s.atHomeNow m home = true → a.kind = .amo op → op ≠ .fadd →
    atomHome s home (a.va.toNat % 2 ^ 19) a.n = .ok () →
    let loc := spad home (a.va.toNat % 2 ^ 19)
    exec (.clusterAtomicAtHome id false) s = .next ((s.store m.lid loc (leBytes a.n
      (amoValue op a.n (s.numAt loc a.n) (a.val.toNat % 256 ^ a.n)))).updMsg id
      (fun x => { x with stage := .answered { data := BitVec.ofNat 128 (s.numAt loc a.n) }, from_ := 1 + home, done := s.turns }))) ∧
  (∀ (s : State) (id : Nat) (m : Msg) (a : Atom) (ans : Answer), s.msg id = some m → m.body = .atom a → m.stage = .answered ans → a.nr = false →
    m.path = none → s.behindReply m = false → exec (.loadReply id) s = .next ((s.gone id).reply m.g m.fire id ans))

/-! ## Copies and streams (R275 to R284) -/

namespace Sys2Proof.Spec

/-- The scratchpad ranges that a copy request locks (R171, R275): its destination and source sides, and the scales of a conversion. -/
def copyRanges (bf : Nat → List Word) (g : Nat) (k : CopyKind) (w : Word) (d x : Nat × Word) : List LRange :=
  let sides := copySides bf g k w d x
  sides.1.flatMap (spadRanges g true) ++ sides.2.flatMap (spadRanges g false) ++
  (if k = .cpy ∧ converts bf g d x = true then scaleRange bf g true d (ctlLen w) ++ scaleRange bf g false x (ctlLen w) else [])

end Sys2Proof.Spec

open Sys2Proof.Spec in
/-- CPY, CPYM and CPYX with every request slot taken complete at once with the ticket whose BUSY bit, bit 80, is set (that its other fields
are 0 is the model's choice, log 64); otherwise a well-formed request enters the lowest free slot, its promise, which is not earlier than
now, and its engine the device's choice, and gC takes the ticket (R275, R276); a CPYM with an empty mask is complete at once (R277). -/
def Obligations.CopyIssue : Prop :=
  ∀ (o : Ops) (s : State) (i : Ops → Instr) (k : CopyKind),
    ((i = .cpy ∧ k = .cpy) ∨ (i = .cpym ∧ k = .cpym) ∨ ∃ sh u8, i = .cpyx sh u8 ∧ k = .cpyx sh u8) →
    s.me.ready ([o.c.toNat] ++ span o.a 2 ++ span o.b 2) = true → s.me.holdsCap o.a = true → s.me.holdsCap o.b = true →
    s.me.numbers [o.c.toNat] = true → s.me.phase = .idle →
    let w := s.lo o.c
    let d := ((s.capAt o.a).spc, (s.capAt o.a).cur)
    let x := ((s.capAt o.b).spc, (s.capAt o.b).cur)
    let bf := fun cid : Nat => (s.coreAt cid).bfmt.toList
    let sides := copySides bf s.cur k w d x
    (k = .cpy ∨ k = .cpym → fld w 63 48 = 0) → copyShapeBad bf s.cur k w d x = false →
    ((∀ n, n < 16 → (s.me.copies.get {} n).held = true) → exec (i o) s = .next (s.putQ o.c (BitVec.ofNat 128 (2 ^ 80))).endNext) ∧
    (∀ n, n < 16 → (s.me.copies.get {} n).held = false → (∀ m, m < n → (s.me.copies.get {} m).held = true) →
      let rs := copyRanges bf s.cur k w d x
      sideCaps s (s.capAt o.b) pRD [0, 1, 2] sides.2 = .ok () → sideCaps s (s.capAt o.a) pWR (if k = .cpym then [1] else [0, 1, 2]) sides.1 = .ok () →
      (∀ r ∈ rs, r.dst = true → (s.coreAt r.cid).resAt r.base r.len = none ∧ (s.coreAt r.cid).poolAt r.base r.len = none) →
      (k = .cpym → ∀ c ∈ maskCores (fld w 47 32), (s.coreAt (s.clu * 16 + c)).lid = s.me.lid) → locksFree s [] rs = true →
      (k = .cpy → converts bf s.cur d x = true → scaleBad bf s.cur x (ctlLen w) = none ∧ scaleBad bf s.cur d (ctlLen w) = none) →
      rs.any (fun r => (!r.dst && s.storesTo r.cid) || s.anyQueued r.cid r.base r.len) = false → s.loadsOut = false → s.gate = false →
      (sides.2.any (fun r => r.1 == 2) = true → s.devStores = 0) →
      (∀ e, (s.copyQueue s.die e).length < 64) → (s.myCore.fenced = false ∨ (k = .cpym ∧ fld w 47 32 = 0)) →
      let empty : Bool := k == .cpym && fld w 47 32 == 0
      ∃ t r, exec (i o) s = .next t ∧ t.me.pc = s.nextPc ∧ t.mem = s.mem ∧ t.me.copies.get {} n = r ∧ r.held = true ∧ r.queued = true ∧ r.kind = k ∧
        r.ctl = w ∧ r.dst = d ∧ r.src = x ∧ r.perf = empty ∧ r.doneAt = (if empty then some s.cyc else none) ∧ s.cyc.toNat ≤ r.promise.toNat ∧ r.gen = ((s.me.copies.get {} n).gen + 1) % 256 ∧
        (o.c ≠ 0 → (t.me.reg o.c.toNat).bits = ticket r n))

open Sys2Proof.Spec in
/-- CWAIT and CPOLL (R279, R280): a ticket that names no outstanding request gives 0, or 3; a completed request is joined: its slot is free,
its flags reach FCS, its fault is reported, and the result is the time of completion, or 1; CPOLL of one that runs gives 0, or 2 past its
promise. the copy engines at work (R277 to R279): the next part of a raw copy within a scratchpad takes its bytes there (a step reaches to
the next 64-byte boundary of either side: the model's choice, log 16), and the request is performed with the last, as an empty one is at
once; a CPYM gives its bytes to every core of its mask; a performed one completes with the time, the event bit and its flags; a promise that
CYC passes during a CWAIT raises PROM once. -/
def Obligations.CopyJoinAndEvents : Prop :=
  (
    ∀ (o : Ops) (s : State), s.me.ready [o.d.toNat, o.b.toNat] = true → s.me.numbers [o.b.toNat] = true →
      (s.copyOf (s.bits o.b) = none → exec (.cwait o) s = .next (s.put o.d 0).endNext ∧ exec (.cpoll o) s = .next (s.put o.d 3).endNext) ∧
      (∀ i r, s.copyOf (s.bits o.b) = some (i, r) →
        (∀ n, r.doneAt = some n →
          let t := (s.unlock r.key).updMe (fun c => { c with copies := c.copies.put i { gen := r.gen }, fcs := c.fcs ||| (r.flags.setWidth 64 <<< 4) })
          (r.fault = none → exec (.cwait o) s = .next (t.put o.d n).endNext ∧ exec (.cpoll o) s = .next (t.put o.d 1).endNext) ∧
          (∀ f, r.fault = some f → exec (.cwait o) s = .next (t.takeTrap t.cur f.cause f.val true t.ilen))) ∧
        (r.doneAt = none → exec (.cpoll o) s = .next (s.put o.d (if r.promise.toNat < s.cyc.toNat then 2 else 0)).endNext))) ∧
  (
    (∀ (s : State) (g slot : Nat), ((s.ctxAt g).copies.get {} slot).held = true → ((s.ctxAt g).copies.get {} slot).perf = true →
      ((s.ctxAt g).copies.get {} slot).doneAt = none → ((s.ctxAt g).copies.get {} slot).orphan = false → (s.coreAt (g / 4)).fenced = false →
      exec (.copyComplete g slot) s = .next ((s.unionFlags g ((s.ctxAt g).copies.get {} slot).flags).updCtx g (fun c => { c with
        event := true, copies := c.copies.put slot { (s.ctxAt g).copies.get {} slot with doneAt := some s.cyc } }))) ∧
    (∀ (s : State) (g slot : Nat), let r := (s.ctxAt g).copies.get {} slot
      let c := g / 4
      r.held = true → r.queued = true → r.perf = false → (s.copyQueue (g / 1024) r.eng).any (fun x => decide (x.order < r.order)) = false →
      (r.kind = .cpy → converts r.fmts g r.dst r.src = false →
        let len := ctlLen r.ctl
        let sva := r.src.2 + BitVec.ofNat 64 r.pos
        let dva := r.dst.2 + BitVec.ofNat 64 r.pos
        let n := min (len - r.pos) (min (64 - sva.toNat % 64) (64 - dva.toNat % 64))
        let from_ := spad c (sva.toNat % 2 ^ 19)
        let to_ := spad c (dva.toNat % 2 ^ 19)
        (len = 0 → ∃ t, exec (.copyRequestPerform g slot) s = .next t ∧ ((t.ctxAt g).copies.get {} slot).perf = true ∧
          ((t.ctxAt g).copies.get {} slot).fault = none ∧ t.mem = s.mem) ∧
        (s.Inv → r.pos < len → r.src.1 = 0 → r.dst.1 = 0 → (s.coreAt c).open_ = true → s.poisonedAt from_ n = none → s.poisonedAt to_ n = none →
          (s.coreAt c).poolAt (dva.toNat % 2 ^ 19) n = none →
          ∃ t, exec (.copyRequestPerform g slot) s = .next t ∧ t.bytesAt to_ n = s.bytesAt from_ n ∧ memKept s t to_ n ∧
            (r.pos + n = len → ((t.ctxAt g).copies.get {} slot).perf = true ∧ ((t.ctxAt g).copies.get {} slot).fault = none) ∧
            (r.pos + n ≠ len → ((t.ctxAt g).copies.get {} slot).perf = false ∧ ((t.ctxAt g).copies.get {} slot).pos = r.pos + n))) ∧
      (r.kind = .cpym → s.Inv → r.src.1 = 0 → (s.coreAt c).open_ = true →
        let len := ctlLen r.ctl
        let so := r.src.2.toNat
        let do_ := r.dst.2.toNat % 2 ^ 19
        so + len ≤ 2 ^ 19 → do_ + len ≤ 2 ^ 19 → s.poisonedAt (spad c so) len = none →
        (∀ k ∈ maskCores (fld r.ctl 47 32), (s.coreAt (g / 64 * 16 + k)).open_ = true ∧ (s.coreAt (g / 64 * 16 + k)).poolAt do_ len = none ∧
          s.poisonedAt (spad (g / 64 * 16 + k) do_) len = none) →
        ∃ t, exec (.copyRequestPerform g slot) s = .next t ∧ ((t.ctxAt g).copies.get {} slot).perf = true ∧
          ((t.ctxAt g).copies.get {} slot).fault = none ∧
          ∀ k ∈ maskCores (fld r.ctl 47 32), t.bytesAt (spad (g / 64 * 16 + k) do_) len = s.bytesAt (spad c so) len)) ∧
    (∀ (s : State) (g i : Nat) (w : Wait), let r := (s.ctxAt g).copies.get {} i
      (s.ctxAt g).wait = some w → (s.ctxAt g).phase = .part i (cwaitMark + r.gen) → r.held = true → r.doneAt = none → r.reported = false →
      r.promise.toNat < s.cyc.toNat →
      exec (.promiseMiss g) s = .next ((s.updCtx g (fun c => { c with copies := c.copies.put i { r with reported := true } })).takeTrap g .prom
        r.promise true w.ilen)))

open Sys2Proof.Spec in
/-- Streams (R281 to R284): SOPEN with a free route to an open core of the launch reserves it with status 0, and 1 while a stream is held;
SSEND sends its window as one message; SCLOSE gives the count and releases the route; a waiting SOPEN is served when its route is free; a
fenced router breaks a stream, and one over it is broken from the start. -/
def Obligations.Streams : Prop :=
  (∀ (o : Ops) (s : State), s.me.phase = .idle → s.me.ready [o.d.toNat, o.b.toNat] = true → s.me.numbers [o.b.toNat] = true →
    let w := s.lo o.b
    fld w 14 11 ≠ 0 → fld w 14 11 ≠ 15 → fld w 63 15 = 0 →
    (s.me.stream.isSome = true → exec (.sopen o) s = .next (s.put o.d 1).endNext) ∧
    (s.me.stream = none → (s.coreAt (fld w 10 0)).open_ = true → (s.coreAt (fld w 10 0)).lid = s.me.lid → s.routeFree s.cur (fld w 10 0) = true →
      exec (.sopen o) s = .next ((s.openStream s.cur (fld w 10 0) (fld w 14 11)).put o.d 0).endNext)) ∧
  (∀ (o : Ops) (s : State) (x : Stream), s.me.stream = some x → x.broken = false → s.streamBusy s.cur = false →
    (s.me.ready (span o.b (2 ^ o.l.toNat)) = true → s.loadsOut = false → s.gate = false → s.storesTo x.target = false →
      (x.target = s.cid → s.queueOut = false) →
      ∃ t m, exec (.ssend o) s = .next t ∧ t.me.pc = s.nextPc ∧ t.mem = s.mem ∧ t.net = s.net ++ [m] ∧ t.me.stream = some { x with count := x.count + 1 } ∧
        m.body = .packet { from_ := s.cur, fire := s.me.fire, to_ := x.target, tag := x.tag, msg := true, regs := (s.win o.b (2 ^ o.l.toNat)).map (·.1), id := s.nextId }) ∧
    (s.me.ready [o.d.toNat] = true → exec (.sclose o) s = .next ((s.dropStream s.cur).put o.d (BitVec.ofNat 64 x.count)).endNext)) ∧
  (∀ (s : State) (g target tag : Nat), (s.ctxAt g).phase = .part target (sopenMark + tag) → s.routeFree g target = true →
    ∃ t b, exec (.streamRouteRetry g) s = .next t ∧ (t.ctxAt g).stream = some { target := target, tag := tag, key := s.nextId, broken := b } ∧
      (b = true ↔ ∃ c ∈ strCores (g / 4) target, (s.coreAt c).open_ = false) ∧ (t.ctxAt g).phase = .done {} ∧ t.mem = s.mem) ∧
  (∀ (s : State) (g c : Nat) (x : Stream), (s.ctxAt g).stream = some x → c ∈ strCores (g / 4) x.target → (s.coreAt c).open_ = false →
    ∃ t, exec (.streamBreak g) s = .next t ∧ (t.ctxAt g).stream = some { x with broken := true } ∧ t.mem = s.mem)

/-! ## DEVICE memory (R258 to R291) -/

open Sys2Proof.Spec in
/-- A DEVICE load or store on its way (R261, R263, R264, R265): its station translates it to its home, behind the earlier requests of its
core; the home performs a piece in route order; an I/O page's access is performed by the application die; an acknowledgement records the
first refusal. DEVICE atomics (R269, R270): the home's atomic unit performs one read-modify-write and answers with the old value; two .NR
atomics of one operation on one word may become one that adds, or takes the extreme, of both. -/
def Obligations.DeviceEvents : Prop :=
  (
    (∀ (s t : State) (id phys : Nat) (leaf : Word) (m : Msg) (a : Acc), s.msg id = some m → m.id = id → m.body = .acc a → m.stage = .new → a.space = 2 →
      m.devAddr ≠ none → (s.coreAt (m.g / 4)).fenced = false →
      s.net.any (fun x => decide (x.id < m.id) && x.g / 4 == m.g / 4 && x.stage == .new && x.station == m.station) = false →
      s.net.any (fun x => x.stage == .held && s.samePage m x) = false →
      translate s (m.g / 1024) m.pid (m.devAddr.getD 0) [if a.kind.stores then lWR else lRD] = (some (leaf, .home phys), t) →
      exec (.translation id) s = .next (t.updMsg id (fun x => { x with stage := .home phys, span := t.spanOf m }))) ∧
    (∀ (s t : State) (id phys : Nat) (leaf : Word) (m : Msg) (a : Acc), s.msg id = some m → m.id = id → m.body = .acc a → m.stage = .held →
      (s.net.find? (fun x => x.stage == .held && s.samePage m x)).map (·.id) = some id →
      translate s (m.g / 1024) m.pid (m.devAddr.getD 0) [if a.kind.stores then lWR else lRD] = (some (leaf, .home phys), t) →
      exec (.heldRequestRelease id) s = .next (t.updMsg id (fun x => { x with stage := .home phys, span := t.spanOf m }))) ∧
    (∀ (s : State) (id phys : Nat) (m : Msg) (a : Acc) (p : Piece), s.msg id = some m → m.id = id → m.body = .acc a → m.stage = .home phys →
      a.pieces = [p] → s.behindRoute m phys = false → s.follows m = false → s.lineLocked s.pkgNo (pieceLoc phys p) p.n = false →
      (a.kind = .store → s.partPoison (pieceLoc phys p) p.bytes.length = none →
        exec (.deviceAccessAtHome id) s = .next ((((s.unpoison (pieceLoc phys p) p.bytes.length).store m.lid (pieceLoc phys p) p.bytes).noteVa
          m.lid p.va (pieceLoc phys p) p.bytes).updMsg id
          (fun x => { x with stage := .answered {}, from_ := 4096 + sliceOf (pieceLoc phys p), done := s.turns, body := .acc { a with pieces := [] } }))) ∧
      (a.kind = .load → a.got = [] → a.faults = [] → s.poisonedAt (pieceLoc phys p) p.n = none →
        exec (.deviceAccessAtHome id) s = .next (s.updMsg id (fun x => { x with
          stage := .answered {}, from_ := 4096 + sliceOf (pieceLoc phys p), done := s.turns
          body := .acc { a with pieces := [], got := [(p.part, s.numAt (pieceLoc phys p) p.n)] } })))) ∧
    (∀ (s : State) (id phys data : Nat) (m : Msg) (a : Acc) (p : Piece), s.msg id = some m → m.id = id → m.body = .acc a → m.stage = .io phys →
      a.pieces = [p] → a.kind = .load → a.got = [] → s.follows m = false →
      s.behindIo m phys = false →
      exec (.ioAccess id true data) s = .next (s.updMsg id (fun x => { x with
        stage := .answered {}, from_ := 16384, done := s.turns, body := .acc { a with pieces := [], got := [(p.part, data % 256 ^ p.n)] } }))) ∧
    (∀ (s : State) (id : Nat) (m : Msg) (a : Acc) (ans : Answer), s.msg id = some m → m.body = .acc a → m.stage = .answered ans → m.path = none →
      a.kind = .store → a.space = 2 → s.behindReply m = false → (s.ctxAt m.g).fire = m.fire →
      ∃ t, exec (.deviceStoreAck id) s = .next t ∧ t.msg id = none ∧ t.mem = s.mem ∧
        (t.ctxAt m.g).deviceRef = match (s.ctxAt m.g).deviceRef with
          | some f => some f
          | none => match a.faults with | x :: _ => some x.2 | [] => ans.fault)) ∧
  (
    (∀ (s : State) (id phys : Nat) (op : AmoOp) (m : Msg) (a : Atom), s.msg id = some m → m.id = id → m.body = .atom a → m.stage = .home phys →
      a.kind = .amo op → op ≠ .fadd → s.behindRoute m phys = false → s.follows m = false → s.lineLocked s.pkgNo phys a.n = false →
      s.poisonedAt phys a.n = none →
      let bs := leBytes a.n (amoValue op a.n (s.numAt phys a.n) (a.val.toNat % 256 ^ a.n))
      exec (.deviceAtomicAtHome id false) s = .next (((s.store m.lid phys bs).noteVa m.lid a.va phys bs).updMsg id
        (fun x => { x with stage := .answered { data := BitVec.ofNat 128 (s.numAt phys a.n) }, from_ := 4096 + sliceOf phys, done := s.turns }))) ∧
    (∀ (s : State) (id1 id2 p : Nat) (op : AmoOp) (m x : Msg) (a b : Atom), s.net = [m, x] → m.id = id1 → x.id = id2 → id1 < id2 →
      m.body = .atom a → x.body = .atom b → m.stage = .home p → x.stage = .home p → a.kind = .amo op → b.kind = .amo op →
      op = .add ∨ op = .minu ∨ op = .maxu → a.nr = true → b.nr = true → a.scp = .dev → b.scp = .dev → a.dbl = b.dbl → m.pid = x.pid →
      a.det = false → b.det = false →
      ∃ t m' a', exec (.routerMerge id1 id2) s = .next t ∧ t.net = [m'] ∧ m'.id = id1 ∧ m'.body = .atom a' ∧ t.mem = s.mem ∧
        a'.val = BitVec.ofNat 64 (amoValue op a.n (a.val.toNat % 256 ^ a.n) (b.val.toNat % 256 ^ a.n)) ∧ ({ g := x.g, fire := x.fire, lid := x.lid, va := b.va } : Issuer) ∈ a'.also))

/-! ## Spatial memory (R292 to R322) -/

namespace Sys2Proof.Spec

/-- The instruction has sent one spatial request and waits for its reply. -/
def spSent (s t : State) (x : SpReq) : Prop :=
  ∃ m, t.net = s.net ++ [m] ∧ m.body = .sp x ∧ m.g = s.cur ∧ m.fire = s.me.fire ∧ m.id = s.nextId ∧ t.me.phase = .sent s.nextId ∧
    t.me.pc = s.me.pc ∧ t.me.wait ≠ none ∧ t.mem = s.mem

/-- The instruction has sent one spatial request and is complete. -/
def spGone (s t : State) (x : SpReq) : Prop :=
  ∃ m, t.net = s.net ++ [m] ∧ m.body = .sp x ∧ m.g = s.cur ∧ m.fire = s.me.fire ∧ m.id = s.nextId ∧ t.me.pc = s.nextPc ∧ t.mem = s.mem

/-- Posted spatial operations of the current context that are not acknowledged. -/
def postedOut (s : State) : Nat := (s.net.filter (fun m => m.isPosted s.cur s.me.fire)).length

/-- The instruction acts on a field that its core has bound, through the capability in gB. -/
def onField (s : State) (o : Ops) (f : FSlot) : Prop :=
  s.me.holdsCap o.b = true ∧ s.myCore.fieldSlot s.me.pid.toNat (fld (s.capAt o.b).cur 63 56) = some f

/-- The capability in gB reaches the whole field. -/
def wholeField (s : State) (o : Ops) (perm : Nat) : Prop :=
  s.reaches (s.capAt o.b) (fieldBase (s.capAt o.b)) (2 ^ 56) [perm] [3] 1 = true

/-- What is in flight under a number is the spatial request x. -/
def spNow (t : State) (id : Nat) (x : SpReq) : Prop := ∃ m, t.spAt id = some (m, x)

/-- The copies of a core that a query with a stamp returns (R304, R316): born by then, not dead by then, in the region. -/
def returned (s : State) (f : FSlot) (q : Query) (stamp cid : Nat) : List (Nat × PoolSlot) :=
  ((s.coreAt cid).pool.filter (fun e => f.banks.contains (e.1 / 0x8000))).filter (fun e =>
    e.2.st != .inbound && decide (e.2.born ≤ stamp) && (e.2.st != .tomb || decide (stamp < e.2.died)) && q.matches_ (s.coords f cid e.1))

/-- The context of a request waits for the reply to request `id`, and its core takes packets (R58). -/
def awaits (s : State) (m : Msg) (id : Nat) : Prop :=
  (s.ctxAt m.g).fire = m.fire ∧ (s.ctxAt m.g).phase = .sent id ∧ (s.coreAt (m.g / 4)).fenced = false

/-- The request in flight under a number has ended, and its answer is on its way to the core that asked, from a place (R257). -/
def spDone (t : State) (id src : Nat) (a : Answer) : Prop :=
  ∃ m x st, t.spAt id = some (m, x) ∧ x.step = .ended st ∧ m.stage = .answered a ∧ m.from_ = src

end Sys2Proof.Spec

open Sys2Proof.Spec in
/-- The instructions that send spatial requests (R305, R306, R309 to R311, R313): SNEW sends the adjusted position to its owner; SPUT and
SDEL go by handle and wait; SPUT.NR and SST are posted; SLD empties its destination; and the reply completes SNEW, SPUT and SDEL with the
handle or status, or raises the fault it carries. -/
def Obligations.SpatialInstructions : Prop :=
  (∀ (o : Ops) (s : State) (f : FSlot), onField s o f →
    let c := s.capAt o.b
    let len := 2 ^ o.l.toNat
    (∀ x, f.adjust (s.position o.a) = .ok x → s.me.numbers (span o.a 2) = true →
      (s.me.phase = .idle → s.me.ready (o.d.toNat :: span o.a 2 ++ span o.b 2) = true →
        (wholeField s o pWR → ∃ t, exec (.snew o) s = .next t ∧
          spSent s t { op := .create x, fld := f.num, desc := f.desc, home := f.home, owner := f.owner x }) ∧
        (s.reaches c c.cur 1 [pWR] [3] 1 = true → ∃ t, exec (.sput o) s = .next t ∧ spSent s t (handleReq s f c.cur (.put x) false))) ∧
      (s.me.ready (span o.a 2 ++ span o.b 2) = true → s.reaches c c.cur 1 [pWR] [3] 1 = true → postedOut s < 16 →
        ∃ t, exec (.sputNr o) s = .next t ∧ spGone s t (handleReq s f c.cur (.put x) true))) ∧
    (s.me.phase = .idle → s.me.ready (o.d.toNat :: span o.b 2) = true → s.reaches c c.cur 1 [pWR] [3] 1 = true →
      ∃ t, exec (.sdel o) s = .next t ∧ spSent s t (handleReq s f c.cur .del false)) ∧
    (o.imm.toNat % 4 = 0 → o.imm.toNat + 16 * len ≤ f.size →
      (s.me.ready (span o.d len ++ span o.b 2) = true → s.reaches c c.cur 1 [pRD] [3] 1 = true → 0 ≤ o.imm.toInt →
        ∃ t, exec (.sld o) s = .next t ∧ spGone s t (handleReq s f c.cur (.read o.imm.toNat (16 * len) s.nextId) false) ∧
          ∀ n ∈ span o.d len, n ≠ 0 → n < 64 → (t.me.reg n).pres = .empty) ∧
      (s.me.ready (span o.a len ++ span o.b 2) = true → s.me.storable (span o.a len) = true → s.reaches c c.cur 1 [pWR] [3] 1 = true →
        8 + 4 * (f.crd : Int) ≤ o.imm.toInt → postedOut s < 16 →
        ∃ t, exec (.sst o) s = .next t ∧
          spGone s t (handleReq s f c.cur (.write o.imm.toNat ((s.win o.a len).flatMap (fun e => leBytes 16 e.1.toNat))) true)))) ∧
  (∀ (o : Ops) (s : State) (a : Answer), s.me.phase = .done a →
    exec (.snew o) s = .next (s.putQ o.d a.data).endNext ∧
    (a.fault = none → exec (.sput o) s = .next (s.putQ o.d a.data).endNext ∧ exec (.sdel o) s = .next (s.putQ o.d a.data).endNext) ∧
    (∀ f, a.fault = some f → exec (.sput o) s = .next (s.takeTrap s.cur f.cause f.val false s.ilen) ∧
      exec (.sdel o) s = .next (s.takeTrap s.cur f.cause f.val false s.ilen)))

open Sys2Proof.Spec in
/-- SHWAIT, the queries and the owner-side instructions (R313 to R320): SHWAIT with nothing outstanding gives the first failure with its
handle, raises HNDL as an asynchronous trap, or gives 0; SQBOX and SQRAD, with a ring outside pool and resident banks (of the latter the
model's choice, log 62), send the query take and complete with the ticket; SQTAKE empties its destination and asks for the next event; SQEND
tells the visited owners to stop, waits for each to acknowledge, then closes the query and gives what was delivered; SOWN gives the owner of
a position; SCOUNT and SSCAN count and list the LIVE copies of the core. binding (R296): SFLD.BIND of a slot in use gives 1; once a
well-formed descriptor is read, with its number and banks free on this core and its owners of this launch, and no store to the core's
scratchpad still queued, it gives 0 and the slot holds what the descriptor says; SFLD.DROP gives 1 for an empty slot, 6 while a copy, a
query or a posted operation is left, and 0 when it has emptied the slot. -/
def Obligations.SpatialQueriesAndBinding : Prop :=
  (
    (∀ (o : Ops) (s : State), s.me.ready [o.d.toNat, o.b.toNat] = true → s.me.numbers [o.b.toNat] = true → postedOut s = 0 →
      (s.me.spFail = none → exec (.shwait o) s = .next (s.putQ o.d 0).endNext) ∧
      (∀ st x, s.me.spFail = some (st, x) → s.lo o.b = 0 ∨ x = s.lo o.b →
        let t := s.updMe (fun c => { c with spFail := none })
        (st ≠ 16 → exec (.shwait o) s = .next (t.putQ o.d (x ++ BitVec.ofNat 64 st)).endNext) ∧
        (st = 16 → exec (.shwait o) s = .next (t.takeTrap t.cur .hndl x true t.ilen)))) ∧
    (∀ (o : Ops) (s : State) (f : FSlot) (radial : Bool), onField s o f →
      let w := s.lo o.c
      let ring := fld w 18 0
      let n := fld w 28 19 * f.size
      s.me.phase = .idle → s.me.ready (o.c.toNat :: span o.a 4 ++ span o.b 2) = true → s.me.numbers (span o.a 4 ++ [o.c.toNat]) = true →
      fld w 63 38 = 0 → fld w 28 19 ≠ 0 → ring % 32 = 0 → fld w 36 29 ≠ 0 → fld w 36 29 < 2 ^ f.crd → s.me.queries.find (fld w 37 37) = none →
      wholeField s o pRD → ring + n ≤ 0x80000 →
      (∀ b ∈ (s.myCore.fslots.toList.filter (·.bound)).flatMap (·.banks), ring + n ≤ b * 0x8000 ∨ (b + 1) * 0x8000 ≤ ring) →
      s.myCore.resAt ring n = none →
      (∀ i, i < 16 → f32Nan (s.me.lane o.a.toNat i) = false) → postedOut s = 0 →
      ∃ t q, exec (if radial then .sqrad o else .sqbox o) s = .next t ∧
        spSent s t { op := .take (fld w 37 37) q, fld := f.num, desc := f.desc, home := f.home } ∧ q.region = s.lanes o.a ∧ q.radial = radial ∧
        q.axes = fld w 36 29 ∧ q.ring = ring ∧ q.nent = fld w 28 19 ∧ q.owners = f.visited q ∧ q.started = false) ∧
    (∀ (o : Ops) (s : State) (a : Answer), s.me.phase = .done a →
      exec (.sqbox o) s = .next (s.putQ o.c a.data).endNext ∧ exec (.sqrad o) s = .next (s.putQ o.c a.data).endNext) ∧
    (∀ (o : Ops) (s : State) (q : Query), s.me.ready [o.d.toNat, o.b.toNat] = true → s.me.numbers [o.b.toNat] = true →
      let i := fld (s.bits o.b) 64 64
      s.me.queries.find i = some q →
      (s.me.take = none → ∃ t, exec (.sqtake o) s = .next t ∧ t.me.pc = s.nextPc ∧ t.mem = s.mem ∧ t.me.take = some (s.me.ix o.d.toNat, i) ∧
        t.me.queries.find i = some { q with taken := none } ∧ (o.d ≠ 0 → (t.me.reg o.d.toNat).pres = .empty)) ∧
      (q.acks = some [] → exec (.sqend o) s = .next ((s.closeQuery s.cur i).putQ o.d (BitVec.ofNat 128 q.delivered)).endNext) ∧
      (q.acks = none → q.started = false → exec (.sqend o) s = .next (((s.stopQuery s.cur i).closeQuery s.cur i).putQ o.d (BitVec.ofNat 128 q.delivered)).endNext) ∧
      (q.acks = none → q.started = true → q.owners ≠ [] → ∃ t, exec (.sqend o) s = .next t ∧ t.me.pc = s.me.pc ∧ t.mem = s.mem ∧ t.me.wait ≠ none ∧
        t.me.queries.find i = some { q with acks := some q.owners } ∧ t.net.length = s.net.length + q.owners.length)) ∧
    (∀ (o : Ops) (s : State) (f : FSlot), onField s o f → wholeField s o pRD →
      let live := s.myCore.liveCopies f
      (∀ x, f.adjust (s.position o.a) = .ok x → s.me.ready (o.d.toNat :: span o.a 2 ++ span o.b 2) = true → s.me.numbers (span o.a 2) = true →
        exec (.sown o) s = .next (s.putQ o.d (BitVec.ofNat 128 (f.owner x))).endNext) ∧
      (s.me.numbers [o.a.toNat] = true →
        (s.me.ready (span o.d 4 ++ o.a.toNat :: span o.b 2) = true →
          exec (.scount o) s = .next (s.putLanes o.d ((List.range 16).map (fun (i : Nat) => BitVec.ofNat 32 (live.filter (fun e =>
            f32Floor ((s.coords f s.cid e.1).getD 0 0) == (s.lo o.a).toInt + (i : Int))).length))).endNext) ∧
        (s.me.ready (span o.d 2 ++ o.a.toNat :: span o.b 2) = true →
          (∀ e, live.find? (fun e => decide ((s.lo o.a).toNat ≤ f.slotIndex e.1)) = some e →
            exec (.sscan o) s = .next (s.putL o.d [(e.2.handle.setWidth 128, .data), (BitVec.ofNat 128 (f.slotIndex e.1 + 1 + e.1 * 2 ^ 64), .data)]).endNext) ∧
          (live.all (fun e => decide (f.slotIndex e.1 < (s.lo o.a).toNat)) = true →
            exec (.sscan o) s = .next (s.putL o.d [(0, .data), (BitVec.ofNat 128 (2 ^ 127), .data)]).endNext))))) ∧
  (
    (∀ (o : Ops) (s : State), s.me.phase = .idle → s.me.ready (o.d.toNat :: span o.a 2 ++ [o.b.toNat]) = true → s.me.holdsCap o.a = true →
      s.me.numbers [o.b.toNat] = true → fld (s.lo o.b) 63 2 = 0 → (s.myCore.fslot (fld (s.lo o.b) 1 0)).bound = true →
      exec (.sfldBind o) s = .next (s.putQ o.d 1).endNext) ∧
    (∀ (o : Ops) (s : State) (a : Answer) (home : Nat), s.me.phase = .done a → a.fault = none → 64 < a.bytes.length →
      let c := s.capAt o.a
      let i := fld (s.lo o.b) 1 0
      let nodes := (List.range ((a.bytes.length - 64) / 16)).map (fun n => recDesc (a.bytes.drop 64) n)
      let f := slotOf a.bytes nodes s.cid s.me.pid.toNat home c.cur
      s.locOf c.cur = some home → s.anyQueued s.cid 0 (2 ^ 19) = false → (s.myCore.fslot i).bound = false → descriptorOk a.bytes nodes = true →
      (∀ x ∈ s.myCore.fslots.toList, x.bound = true → x.num ≠ f.num ∧ ∀ b ∈ f.banks, b ∉ x.banks) →
      (∀ b ∈ f.banks, fld (s.myCore.bfmt.toList.getD b 0) 4 0 = 0x0E) →
      (∀ q ∈ nodes, nodeAx q = 3 → (s.coreAt (nodeOwner q)).lid = s.me.lid) →
      ∃ t, exec (.sfldBind o) s = .next t ∧ t.me.pc = s.nextPc ∧ t.mem = s.mem ∧ t.myCore.fslot i = f ∧
        (∀ j, j < 4 → j ≠ i → t.myCore.fslot j = s.myCore.fslot j) ∧ (o.d ≠ 0 → (t.me.reg o.d.toNat).bits = 0)) ∧
    (∀ (o : Ops) (s : State), s.me.ready [o.d.toNat, o.b.toNat] = true → s.me.numbers [o.b.toNat] = true → fld (s.lo o.b) 63 2 = 0 →
      let i := fld (s.lo o.b) 1 0
      let f := s.myCore.fslot i
      let used := s.myCore.pool.any (fun e => f.banks.contains (e.1 / 0x8000)) || s.fieldBusy s.cid f.num
      (f.bound = false → exec (.sfldDrop o) s = .next (s.putQ o.d 1).endNext) ∧
      (f.bound = true → used = true → exec (.sfldDrop o) s = .next (s.putQ o.d 6).endNext) ∧
      (f.bound = true → used = false → ∃ t, exec (.sfldDrop o) s = .next t ∧ t.me.pc = s.nextPc ∧ t.mem = s.mem ∧
        (t.myCore.fslot i).bound = false ∧ (∀ j, j < 4 → j ≠ i → t.myCore.fslot j = s.myCore.fslot j) ∧
        (o.d ≠ 0 → (t.me.reg o.d.toNat).bits = 0))))

open Sys2Proof.Spec in
/-- Spatial requests at owners, directories and homes (R300 to R313): an owner without the copy forwards by its tombstone; the directory
names the owner or the request ends as HNDL; a creation takes the lowest free slot, then a reservation, then becomes LIVE with its directory
entry; writes act on the LIVE copy, posted or returning, and those that meet a haul are held in arrival order; a deletion marks the LIVE
copy, takes a reservation, and makes it a tombstone with that stamp and without a forward owner, whose handle the directory marks deleted; a
haul reserves a slot at the new owner, and with its reservation the copy is LIVE there and the old one a tombstone that forwards; a full
owner ends it with 2; reads copy the bytes in one step. The answer of what has ended travels back in reply order (R257): it reaches the
instruction that waits, fills the registers of an SLD or records its fault on them, or tells of a posted failure, which is kept; that the
load reply event brings the answers of SNEW, SPUT and SDEL too is the model's choice (log 84). That a write which meets a poisoned word of
the slot leaves that word and still ends with 0 is the model's choice (log 29). -/
def Obligations.SpatialRequestEvents : Prop :=
  ∀ (s : State) (id : Nat) (m : Msg) (x : SpReq), s.spAt id = some (m, x) →
    let key := fieldKey m.pid x.fld
    let home := s.homeOfField m x
    let sweep := s.numAt x.home 8
    (∀ f w, x.op.byHandle = true → s.atOwner m x = true → s.serving m x x.owner = some f → (s.coreAt x.owner).liveCopy f x.handle = none →
      ((s.coreAt x.owner).tombstone f x.handle).bind (·.fwd) = some w → x.hops < 4 →
      ∃ t, exec (.handleForward id) s = .next t ∧ t.mem = s.mem ∧ spNow t id { x with owner := w, hops := x.hops + 1, via := some x.owner, named := false }) ∧
    (x.step = .dir → s.spFirst m x = true → s.spBehind m x = false → (x.via.isSome = true ∨ (s.coreAt (m.g / 4)).open_ = true) →
      (∀ w, home.named x.handle = some w → ∃ t, exec (.directoryResolve id) s = .next t ∧ t.mem = s.mem ∧
        spNow t id { x with step := .owner, owner := w, hops := 0, via := none, named := true }) ∧
      (home.named x.handle = none → (x.op = .del ∨ ∃ pos, x.op = .put pos) →
        ∃ t, exec (.directoryResolve id) s = .next t ∧ t.mem = s.mem ∧ spDone t id (4096 + sliceOf x.home) { fault := some ⟨.hndl, x.handle⟩ })) ∧
    (s.lineLocked s.pkgNo x.home 8 = false → ∀ to_ slot, (x.step = .placed to_ slot ∨ x.step = .marked ∧ to_ = x.owner ∧ slot = 0) →
      ∃ t, exec (.sweepReservation id) s = .next t ∧ t.mem = s.mem ∧
      spNow t id { x with step := .stamped to_ slot sweep } ∧ (t.homes.get {} key).unsettled = home.unsettled ++ [sweep]) ∧
    (∀ v st, x.step = .settling v st → (x.op = .del ∨ ∃ pos, x.op = .put pos) → st ≠ 16 →
      ∃ t, exec (.reservationSettle id) s = .next t ∧ t.mem = s.mem ∧ (t.homes.get {} key).unsettled = home.unsettled.erase v ∧
        spDone t id x.source { data := BitVec.ofNat 128 st }) ∧
    (∀ pos f off, x.op = .create pos → x.step = .owner → s.away m x x.owner = false → (s.coreAt (m.g / 4)).open_ = true →
      s.creating m x = false → s.serving m x x.owner = some f → (s.coreAt (m.g / 4)).serials.get 0 key + 1 < 2 ^ 45 →
      (s.coreAt x.owner).freeOffset f = some off → s.unlocked x.owner off f.size = true →
      let h := handleOf x.fld (m.g / 4) ((s.coreAt (m.g / 4)).serials.get 0 key + 1)
      ∃ t, exec (.recordCreateAtOwner id) s = .next t ∧ spNow t id { x with handle := h, step := .placed x.owner off } ∧
        (t.coreAt x.owner).pool.find off = some { st := .inbound, handle := h } ∧
        t.mem = (s.poolWrite x.owner off (leBytes 8 h.toNat ++ coordBytes pos ++ List.replicate (f.size - 8 - 4 * pos.length) 0)).mem) ∧
    (∀ pos f w off v p, x.op = .create pos → x.step = .stamped w off v → s.away m x w = false → s.serving m x w = some f →
      (s.coreAt w).pool.find off = some p → p.st = .inbound → p.handle = x.handle →
      (home.dir.filter (fun e => s.hasCopy m.pid x.fld e.1)).length < 2 ^ f.dirk →
      ∃ t, exec (.recordCreateAtOwner id) s = .next t ∧ t.mem = s.mem ∧ spNow t id { x with step := .settling v 0 } ∧
        (t.coreAt w).pool.find off = some { p with st := .live, born := v } ∧ (t.homes.get {} key).dir = home.dir ++ [(x.handle, w, false)] ∧
        (t.coreAt (m.g / 4)).serials.get 0 key = (s.coreAt (m.g / 4)).serials.get 0 key + 1) ∧
    (∀ f off p, s.atOwner m x = true → s.serving m x x.owner = some f → (s.coreAt x.owner).liveCopy f x.handle = some (off, p) →
      (s.coreAt x.owner).pool.find off = some p →
      (p.serves id = false → id ∉ p.queue → (x.op = .del ∨ (∃ pos, x.op = .put pos) ∨ ∃ at_ bs, x.op = .write at_ bs) →
        ∃ t, exec (.spatialWriteAtOwner id) s = .next t ∧ t.mem = s.mem ∧ spNow t id x ∧
          (t.coreAt x.owner).pool.find off = some { p with queue := p.queue ++ [id] }) ∧
      (p.serves id = true → x.op = .del → ∃ t, exec (.spatialWriteAtOwner id) s = .next t ∧ t.mem = s.mem ∧ spNow t id { x with step := .marked } ∧
        ∃ q, (t.coreAt x.owner).pool.find off = some q ∧ q.busy = some id ∧ q.st = p.st) ∧
      (p.serves id = true → ∀ pos, x.op = .put pos → f.owner pos = x.owner →
        s.unlocked x.owner (off + 8) (4 * pos.length) = true →
        ∃ t, exec (.spatialWriteAtOwner id) s = .next t ∧ spDone t id x.source { data := 0 } ∧
          t.mem = (s.poolWrite x.owner (off + 8) (coordBytes pos)).mem) ∧
      (p.serves id = true → x.posted = true → ∀ at_ bs, x.op = .write at_ bs → s.unlocked x.owner (off + at_) bs.length = true → ∃ t, exec (.spatialWriteAtOwner id) s = .next t ∧ spNow t id { x with step := .ended 0 } ∧
        t.mem = (s.poolWrite x.owner (off + at_) bs).mem) ∧
      (p.serves id = true → x.posted = true → ∀ pos, x.op = .put pos → f.owner pos = x.owner → s.unlocked x.owner (off + 8) (4 * pos.length) = true →
        ∃ t, exec (.spatialWriteAtOwner id) s = .next t ∧ spNow t id { x with step := .ended 0 } ∧
        t.mem = (s.poolWrite x.owner (off + 8) (coordBytes pos)).mem) ∧
      (p.serves id = true → ∀ pos, x.op = .put pos → f.owner pos ≠ x.owner → ∃ t, exec (.haulSend id) s = .next t ∧ t.mem = s.mem ∧
        spNow t id { x with step := .moving (f.owner pos) } ∧ ∃ q, (t.coreAt x.owner).pool.find off = some q ∧ q.busy = some id)) ∧
    (∀ f o n v off p, x.op = .del → x.step = .stamped o n v → s.serving m x o = some f → (s.coreAt o).liveCopy f x.handle = some (off, p) →
      (s.coreAt o).pool.find off = some p → p.busy = some id → ∃ t, exec (.spatialWriteAtOwner id) s = .next t ∧ t.mem = s.mem ∧
        spNow t id { x with step := .settling v 0 } ∧
        (t.coreAt o).pool.find off = some { p with st := .tomb, died := v, fwd := none, busy := none, queue := [] } ∧
        ∀ e ∈ (t.homes.get {} key).dir, e.1 = x.handle → e.2.2 = true) ∧
    (∀ pos w f off p g n, x.op = .put pos → x.step = .moving w → s.away m x w = false → s.away m x x.owner = false →
      s.hauled m x = some (f, off, p) → s.serving m x w = some g →
      ((s.coreAt w).freeOffset g = some n → s.unlocked w n g.size = true →
        ∃ t, exec (.haulInstall id) s = .next t ∧ spNow t id { x with step := .placed w n } ∧
          (t.coreAt w).pool.find n = some { st := .inbound, handle := x.handle }) ∧
      ((s.coreAt w).freeOffset g = none → x.posted = true →
        ∃ t, exec (.haulFail id) s = .next t ∧ t.mem = s.mem ∧ spNow t id { x with step := .ended 2 })) ∧
    (∀ pos w f off p n v g q, x.op = .put pos → x.step = .stamped w n v → w ≠ x.owner → s.hauled m x = some (f, off, p) →
      s.reserved m x w n = some g → (s.coreAt x.owner).pool.find off = some p → (s.coreAt w).pool.find n = some q → p.queue = [] →
      ∃ t, exec (.haulInstall id) s = .next t ∧ t.mem = s.mem ∧ spNow t id { x with step := .settling v 1 } ∧
        (t.coreAt x.owner).pool.find off = some { p with st := .tomb, died := v, fwd := some w, busy := none, queue := [] } ∧
        (t.coreAt w).pool.find n = some { q with st := .live, born := v, queue := [] } ∧
        (∀ e ∈ (t.homes.get {} key).dir, e.1 = x.handle → e.2.1 = w)) ∧
    (∀ at_ n k f off p, x.op = .read at_ n k → s.atOwner m x = true → s.postedBefore m x = false →
      s.serving m x x.owner = some f → (s.coreAt x.owner).liveCopy f x.handle = some (off, p) → (p.busy.isSome = true ∨ p.queue = []) →
      s.poisonedAt (spad x.owner off) f.size = none →
      ∃ t, exec (.recordReadAtOwner id) s = .next t ∧ t = { s with cores := t.cores, draws := t.draws, net := t.net } ∧
        spDone t id x.source { bytes := s.bytesAt (spad x.owner (off + at_)) n }) ∧
    (∀ a, m.stage = .answered a → x.posted = false → s.behindReply m = false → (s.ctxAt m.g).fire = m.fire →
      ((x.op = .del ∨ (∃ pos, x.op = .put pos) ∨ ∃ pos, x.op = .create pos) → (s.ctxAt m.g).phase = .sent id →
        ∃ t, exec (.loadReply id) s = .next t ∧ t.mem = s.mem ∧ t.spAt id = none ∧ (t.ctxAt m.g).phase = .done a) ∧
      (∀ at_ n key l w, x.op = .read at_ n key → (s.ctxAt m.g).loads = [l] → l.key = key → l.how = .record w → l.flags = 0 → l.dest.Nodup →
        (∀ k ∈ l.dest, 1 ≤ k ∧ k < 72) →
        ∃ t, exec (.loadReply id) s = .next t ∧ t.mem = s.mem ∧ t.spAt id = none ∧ (t.ctxAt m.g).loads = [] ∧
          (a.fault = none → ∀ i k, i < w → l.dest[i]? = some k →
            (t.ctxAt m.g).regAt k = { bits := BitVec.ofNat 128 (leVal a.bytes / 2 ^ (128 * i)) }) ∧
          (∀ f, a.fault = some f → ∀ k ∈ l.dest, ((t.ctxAt m.g).regAt k).pres = .empty ∧ ((t.ctxAt m.g).regAt k).fault = some f ∧
            ((t.ctxAt m.g).regAt k).window = l.dest))) ∧
    (∀ st, x.step = .ended st → x.posted = true → 2 ≤ st → (s.ctxAt m.g).fire = m.fire → s.behindReply m = false → ∃ t, exec (.spatialPostedAck id) s = .next t ∧ t.mem = s.mem ∧ t.spAt id = none ∧
      (t.ctxAt m.g).spFail = match (s.ctxAt m.g).spFail with | some f => some f | none => some (st, x.handle))

open Sys2Proof.Spec in
/-- Queries at the field home and at owners (R303, R304, R308, R316, R317): a query takes the stamp and an active-query slot and the home
counts SWEEP up by one, and the reply of the home opens it; its visits leave once every reservation up to its stamp has settled; an owner
returns the copies live at the stamp that match; results enter the ring in order, and count as delivered when they do (the model's choice,
log 29; that a ring in a resident bank is not written, and the result still delivered, is log 62); an owner told to stop acknowledges;
SQTAKE receives the next result or the end; a tombstone that no active query pins is freed (its slot in a resident bank is not written: log
29). -/
def Obligations.SpatialQueryEvents : Prop :=
  (∀ (s : State) (id qi slot : Nat) (m : Msg) (x : SpReq) (q : Query), s.spAt id = some (m, x) → x.op = .take qi q → x.step = .owner →
    awaits s m id →
    (s.coreAt (m.g / 4)).open_ = true → s.lineLocked s.pkgNo x.home 8 = false →
    (List.range 64).find? (fun i => ((s.homeOfField m x).queries.find i).isNone) = some slot →
    let v := s.numAt x.home 8
    ∃ t, exec (.queryTake id) s = .next t ∧ t.mem = Memory.writeL s.mem x.home (leBytes 8 (v + 1)) ∧
      (t.homes.get {} (fieldKey m.pid x.fld)).queries.find slot = some v ∧ spNow t id { x with op := .take qi { q with stamp := v, slot := slot }, step := .ended 0 } ∧
      spDone t id (4096 + sliceOf x.home) { data := BitVec.ofNat 128 (v + qi * 2 ^ 64) }) ∧
  (∀ (s : State) (id qi : Nat) (m : Msg) (x : SpReq) (q : Query) (a : Answer), s.spAt id = some (m, x) → x.op = .take qi q → x.step = .ended 0 →
    x.posted = false → m.stage = .answered a → s.behindReply m = false → awaits s m id →
    ∃ t, exec (.loadReply id) s = .next t ∧ t.mem = s.mem ∧ t.spAt id = none ∧ (t.ctxAt m.g).queries.find qi = some q ∧ (t.ctxAt m.g).phase = .done a) ∧
  (∀ (s : State) (g qi : Nat) (q : Query), (s.ctxAt g).queries.find qi = some q → q.started = false → q.acks = none → (s.coreAt (g / 4)).open_ = true →
    (s.homes.get {} (fieldKey (s.ctxAt g).pid.toNat q.fld)).unsettled.all (fun v => decide (q.stamp < v)) = true →
    ∃ t, exec (.queryVisitStart g qi) s = .next t ∧ t.mem = s.mem ∧ t.net.length = s.net.length + q.owners.length ∧
      (t.ctxAt g).queries.find qi = some { q with started := true, pending := q.owners }) ∧
  (∀ (s : State) (id qi stamp : Nat) (m : Msg) (x : SpReq) (q : Query) (f : FSlot), s.spAt id = some (m, x) → x.op = .visit qi stamp → (s.coreAt (m.g / 4)).fenced = false →
    (s.ctxAt m.g).queries.find qi = some q → s.away m x x.owner = false → s.serving m x x.owner = some f →
    (∀ e ∈ (s.coreAt x.owner).pool, f.banks.contains (e.1 / 0x8000) = true → e.2.queue = []) →
    let found := returned s f q stamp x.owner
    found.all (fun e => (s.poisonedAt (spad x.owner e.1) f.size).isNone) = true → (found = [] ∨ s.ringFree m.g q = false) →
    exec (.queryOwnerScan id) s = .next ((s.gone id).updCtx m.g (fun c => { c with queries := c.queries.put qi { q with
      edge := q.edge ++ found.map (fun e => (e.2.handle, s.bytesAt (spad x.owner e.1) f.size))
      pending := q.pending.filter (· != x.owner) } }))) ∧
  (∀ (s : State) (id qi : Nat) (m : Msg) (x : SpReq) (q : Query) (l : List Nat), s.spAt id = some (m, x) → x.op = .stop qi → (s.coreAt (m.g / 4)).fenced = false →
    (s.ctxAt m.g).queries.find qi = some q → q.acks = some l → s.away m x x.owner = false →
    ∃ t, exec (.queryOwnerScan id) s = .next t ∧ t.mem = s.mem ∧ m ∉ t.net ∧
      (t.ctxAt m.g).queries.find qi = some { q with acks := some (l.filter (· != x.owner)) }) ∧
  (∀ (s : State) (g qi : Nat) (q : Query) (h : Word) (bs : List Byte) (rest : List (Word × List Byte)), (s.ctxAt g).queries.find qi = some q →
    q.edge = (h, bs) :: rest → s.ringFree g q = true →
    ∃ t, exec (.queryResultDelivery g qi) s = .next t ∧ t.mem = (if ((s.coreAt (g / 4)).resAt (q.ring + q.next * q.size) bs.length).isSome then s.mem
        else Memory.writeL s.mem (spad (g / 4) (q.ring + q.next * q.size)) bs) ∧
      (t.ctxAt g).queries.find qi = some { q with edge := rest, filled := q.filled ++ [(q.next, h)], next := (q.next + 1) % q.nent, delivered := q.delivered + 1 }) ∧
  (∀ (s : State) (g k qi : Nat) (q : Query), (s.ctxAt g).take = some (k, qi) → 1 ≤ k → k < 72 → (s.ctxAt g).queries.find qi = some q →
    (∀ n h rest, q.filled = (n, h) :: rest → ∃ t, exec (.queryEventDelivery g) s = .next t ∧ t.mem = s.mem ∧ (t.ctxAt g).take = none ∧
      (t.ctxAt g).regAt k = { bits := BitVec.ofNat 128 (h.toNat + (q.ring + n * q.size) * 2 ^ 64) } ∧
      (t.ctxAt g).queries.find qi = some { q with filled := rest, taken := some n }) ∧
    (q.filled = [] → q.started = true → q.pending = [] → q.edge = [] → ∃ t, exec (.queryEventDelivery g) s = .next t ∧ t.mem = s.mem ∧
      (t.ctxAt g).take = none ∧ (t.ctxAt g).regAt k = { bits := q.endEvent })) ∧
  (∀ (s : State) (cid slot : Nat) (p : PoolSlot) (f : FSlot), (s.coreAt cid).pool.find slot = some p →
    (s.coreAt cid).fslots.toList.find? (fun f => f.bound && f.banks.contains (slot / 0x8000)) = some f → p.st = .tomb →
    (s.homes.get {} (fieldKey f.pid f.num)).queries.all (fun e => decide (p.died ≤ e.2)) = true → s.unlocked cid slot f.size = true →
    ∃ t, exec (.tombstoneReclaim cid slot) s = .next t ∧ (t.coreAt cid).pool.find slot = none ∧
      t.mem = if ((s.coreAt cid).resAt slot f.size).isSome then s.mem else Memory.writeL s.mem (spad cid slot) (List.replicate f.size 0))

/-! ## Groups, reductions and peers (R369 to R408) -/

namespace Sys2Proof.Spec

/-- The current context owns the group that a gid names, with its index. -/
def owns (s : State) (gid : Word) (i : Nat) (x : Group) : Prop :=
  s.groupOf gid.toNat = some (i, x) ∧ x.g = s.cur ∧ x.fire = s.me.fire

/-- A destination's reading of a store or decision: the fabric key of a port. -/
def portKey (pkg port : Nat) : Nat := pkg * 32 + port

/-- What the coordinator has sent to a port, in flight under a number. -/
def told (s : State) (id : Nat) (op : GroupOp) (gid pkg port : Nat) : Prop :=
  ∃ m, s.msg id = some m ∧ m.id = id ∧ m.body = .group op gid pkg port ∧ port < 32 ∧ pkg ∉ s.peerTable

/-- The access in flight under a number is at a peer's home, with one piece to perform in package `pkg`. -/
def atPeerHome (s : State) (id pkg phys : Nat) (m : Msg) (a : Acc) (p : Piece) : Prop :=
  s.msg id = some m ∧ m.id = id ∧ m.body = .acc a ∧ m.path.isSome = true ∧ (∃ q r, m.stage = .peer q r phys) ∧ a.todo = [(pkg, [p])] ∧
  s.lineLocked pkg (pieceLoc phys p) p.n = false

end Sys2Proof.Spec

open Sys2Proof.Spec in
/-- The group instructions (R397, R398, R401, R405, R406): GOPEN raises ALIGN, XLAT or PERM, or gives its status 1 to 3 for a full package,
a full context or a record in use; otherwise it opens the lowest free index, sends the record's store and waits; it completes with the gid
once the record is written, and a failure of the store frees the index and raises FAB; STG through a page of this package sends one store
that the group counts and completes; GCOMMIT starts the coordinator once everything is acknowledged, waits, and completes with the result
that the coordinator has; GABORT likewise gives 0; both raise GRP for a group that is not open, or that another instruction commits; GSTAT
tells how the group stands, or 0. From a fenced core nothing of GOPEN, STG, GCOMMIT and GABORT leaves (R58). destinations and the
coordinator (R399 to R403): a store is staged or dooms its group there; PREPARE answers READY when all the stores sent there were received,
none doomed it and no other group's lock is in the way; PUBLISH writes the staged stores and ABORT discards them; a missing answer after 1
ms makes the coordinator try ABORT; a missing acknowledgement after 1 ms lets it finish; a prepared destination that hears nothing for 2 ms
resolves the group from its record, ends an OPEN one as ABORT itself, and keeps its locks while no copy can be reached; a draining group is
freed once all have acknowledged. That a destination's answer to PREPARE, and its acknowledgement, reach the coordinator in the step in
which it prepares, publishes or discards is the model's choice (log 40). -/
def Obligations.GroupInstructionsAndEvents : Prop :=
  (
    (∀ (o : Ops) (s : State) (r : Answer), s.me.phase = .done r → s.me.ready (o.d.toNat :: span o.b 2) = true → s.me.holdsCap o.b = true →
      s.reaches (s.capAt o.b) (s.capAt o.b).cur 16 [pRD, pWR, pAT] [2] 16 = true → r.fault = none →
      exec (.gopen o) s = .next (s.putQ o.d (BitVec.ofNat 128 (gidOf s.pkgNo r.data.toNat (s.groups.get {} r.data.toNat).gen))).endNext) ∧
    (∀ (o : Ops) (s u : State), s.me.ready (o.d.toNat :: span o.b 2) = true → s.me.holdsCap o.b = true →
      let a := (s.capAt o.b).cur
      let traps (t : State) (c : Cause) : Prop := exec (.gopen o) s = .next (t.takeTrap s.cur c a false s.ilen)
      let heard : Prop := s.me.phase = .idle ∧ s.myCore.fenced = false
      (s.reaches (s.capAt o.b) a 16 [pRD, pWR, pAT] [2] 1 = true → a.toNat % 16 ≠ 0 → traps s .align) ∧
      (s.reaches (s.capAt o.b) a 16 [pRD, pWR, pAT] [2] 16 = true →
        (∀ r f, s.me.phase = .done r → r.fault = some f → traps (s.updGroup r.data.toNat (fun x => { gen := x.gen })) .fab) ∧
        (heard → translate s s.die s.me.pid.toNat a [lWR] = (none, u) → traps s .xlat) ∧
        (∀ leaf w, heard → translate s s.die s.me.pid.toNat a [lWR] = (some (leaf, w), u) → w ≠ .moving →
          ((∀ pkg mir phys, w ≠ .peer pkg (some mir) phys) ∨ bitAt leaf 5 = false) → traps s .perm) ∧
        (∀ leaf pkg mir phys, heard → translate s s.die s.me.pid.toNat a [lWR] = (some (leaf, .peer pkg (some mir) phys), u) → bitAt leaf 5 = true →
          let busy := s.groups.filter (fun e => e.2.st != .free)
          let mine := busy.filter (fun e => e.2.g == s.cur && e.2.fire == s.me.fire && e.2.st != .draining)
          let inUse := busy.any (fun e => e.2.record.1 == pkg && e.2.record.2.2 == phys)
          let gives (n : Nat) : Prop := exec (.gopen o) s = .next (s.putQ o.d (BitVec.ofNat 128 (n * 2 ^ 64))).endNext
          (1024 ≤ busy.length → gives 1) ∧ (busy.length < 1024 → 8 ≤ mine.length → gives 2) ∧
          (busy.length < 1024 → mine.length < 8 → inUse = true → gives 3) ∧
          (∀ i, busy.length < 1024 → mine.length < 8 → inUse = false → i < 1024 → (s.groups.get {} i).st = .free →
            (∀ j, j < i → (s.groups.get {} j).st ≠ .free) → s.msg s.nextId = none →
            let gen := ((s.groups.get {} i).gen + 1) % 256
            ∃ t m b, exec (.gopen o) s = .next t ∧ t.me.pc = s.me.pc ∧ t.me.wait ≠ none ∧ t.me.phase = .sent s.nextId ∧ t.mem = s.mem ∧
              t.groups.get {} i = { gen := gen, st := .opened, g := s.cur, fire := s.me.fire, lid := s.me.lid, record := (pkg, mir, phys), recVa := a } ∧
              t.msg s.nextId = some m ∧ m.g = s.cur ∧ m.body = .acc b ∧ b.kind = .store ∧
              b.pieces = [{ part := 0, va := a, n := 16, bytes := leBytes 8 (gidOf s.pkgNo i gen) ++ leBytes 8 0 }])))) ∧
    (∀ (z : Sz) (o : Ops) (s u : State) (i : Nat) (x : Group) (leaf : Word) (phys : Nat),
      let a := (s.capAt o.b).cur + o.imm
      let n := szBytes z
      let gid := s.lo o.c
      let y := x.addDest none (s.pkgNo * 32 + portOf phys)
      s.me.ready (o.c.toNat :: o.a.toNat :: span o.b 2) = true → s.me.storable [o.a.toNat] = true → s.me.holdsCap o.b = true →
      s.me.numbers [o.c.toNat] = true → s.reaches (s.capAt o.b) a n [pWR] [2] n = true → owns s gid i x → x.st = .opened →
      s.myCore.fenced = false → translate s s.die s.me.pid.toNat a [lWR] = (some (leaf, .home phys), u) → y.sent.length ≤ 64 → s.msg s.nextId = none →
      ∃ t, exec (.stg z o) s = .next t ∧ t.me.pc = s.nextPc ∧ t.mem = s.mem ∧ t.groups.get {} i = { y with seq := x.seq + 1 } ∧
        ∃ m, t.msg s.nextId = some m ∧ m.g = s.cur ∧ m.va = a ∧ m.body = .stg { gid := gid.toNat, seq := x.seq, pkg := s.pkgNo, port := portOf phys, phys := phys, bytes := leBytes n (s.bits o.a).toNat, mir := none }) ∧
    (∀ (o : Ops) (s : State) (i : Nat) (x : Group), s.me.ready [o.d.toNat, o.b.toNat] = true → s.me.numbers [o.b.toNat] = true →
      let gid := s.lo o.b
      let heard : Prop := s.myCore.fenced = false
      owns s gid i x →
      (heard → x.st ≠ .opened → s.inCommit i = false →
        exec (.gcommit o) s = .next (s.takeTrap s.cur .grp gid false s.ilen) ∧ exec (.gabort o) s = .next (s.takeTrap s.cur .grp gid false s.ilen)) ∧
      (∀ r, heard → x.step = .finished r → x.st = .committing → s.inCommit i = true →
        (x.gabort = false → exec (.gcommit o) s = .next ((s.groupLeave i).put o.d r).endNext) ∧
        (x.gabort = true → exec (.gabort o) s = .next ((s.groupLeave i).put o.d r).endNext)) ∧
      (heard → x.step = .gather → x.st = .opened → s.stgOut gid.toNat = 0 →
        let u := (s.updGroup i (fun x => { x with st := .committing })).setPhase (.part groupMark i)
        (s.storesOut s.cur s.me.fire = false →
          (s.me.fabricRef = none → exec (.gcommit o) s = .next ((u.groupStart i).blocked 6 0 0)) ∧
          (∀ f, s.me.fabricRef = some f → exec (.gcommit o) s = .next (((u.updMe (fun c => { c with fabricRef := none })).updGroup i
            (fun x => { x with st := .opened, step := .gather })).takeTrap s.cur f.cause f.val true s.ilen))) ∧
        exec (.gabort o) s = .next ((((s.updGroup i (fun x => { x with st := .committing, gabort := true })).setPhase (.part groupMark i)).groupStart i).blocked 6 0 0)) ∧
      (x.st = .opened → exec (.gstat o) s = .next (s.put o.d (BitVec.ofNat 64 (1 + x.heard.toNat * 4 + x.sent.length % 256 * 2 ^ 8 +
        x.seq % 2 ^ 24 * 2 ^ 16 + s.stgOut gid.toNat % 2 ^ 16 * 2 ^ 40))).endNext)) ∧
    (∀ (o : Ops) (s : State), s.me.ready [o.d.toNat, o.b.toNat] = true → s.me.numbers [o.b.toNat] = true → s.groupOf (s.lo o.b).toNat = none →
      exec (.gstat o) s = .next (s.put o.d 0).endNext ∧
      (s.myCore.fenced = false → exec (.gcommit o) s = .next (s.takeTrap s.cur .grp (s.lo o.b) false s.ilen) ∧
        exec (.gabort o) s = .next (s.takeTrap s.cur .grp (s.lo o.b) false s.ilen)))) ∧
  (
    (∀ (s : State) (id : Nat) (m : Msg) (x : Stg) (p : Nat) (q : Option Nat) (r : Nat), s.msg id = some m → m.id = id → m.body = .stg x →
      m.stage = .peer p q r → m.path.isSome = true → x.pkg ≠ s.pkgNo →
      let key := portKey x.pkg x.port
      let port := s.ports.get {} key
      let e : Staged := { gid := x.gid, seq := x.seq, phys := x.phys, bytes := x.bytes, lid := m.lid, va := m.va }
      (x.gid ∉ port.doomed → port.entries.length < 8192 → ∃ t m', exec (.stgReceive id false) s = .next t ∧ t.mem = s.mem ∧
        (t.ports.get {} key).entries = port.entries ++ [e] ∧ (t.ports.get {} key).recv.get 0 x.gid = port.recv.get 0 x.gid + 1 ∧
        t.msg id = some m' ∧ m'.stage = .answered {}) ∧
      (∃ t m', exec (.stgReceive id true) s = .next t ∧ t.mem = s.mem ∧ x.gid ∈ (t.ports.get {} key).doomed ∧
        (∀ e ∈ (t.ports.get {} key).entries, e.gid ≠ x.gid) ∧ t.msg id = some m' ∧ m'.stage = .answered { data := 1 })) ∧
    (∀ (s : State) (id gid pkg port n i : Nat) (x : Group), told s id (.prepare n) gid pkg port → s.groupOf gid = some (i, x) →
      let key := portKey pkg port
      let p := s.ports.get {} key
      let ready := !p.doomed.contains gid && p.recv.get 0 gid == n
      (ready = true → (p.of gid).any (fun e => s.lineLocked pkg e.phys e.bytes.length) = true → exec (.prepare id) s = .next s) ∧
      ((ready = true → (p.of gid).any (fun e => s.lineLocked pkg e.phys e.bytes.length) = false) →
        ∃ t : State, exec (.prepare id) s = .next ((t.updGroup i (fun x => { x with answers := x.answers.put key ready })).groupPoke i) ∧ t.mem = s.mem ∧
          t.groups = s.groups ∧ (t.ports.get {} key).prepared = p.prepared ++ (if ready then [(gid, s.cyc.toNat, x.record)] else []))) ∧
    (∀ (s : State) (id gid pkg port i : Nat) (x : Group), s.groupOf gid = some (i, x) → x.step = .telling →
      let key := portKey pkg port
      let done (t : State) : Prop := t.msg id = none ∧ (t.groups.get {} i).acked = key :: x.acked.filter (· != key) ∧
        (∀ e ∈ (t.ports.get {} key).entries, e.gid ≠ gid) ∧ (t.ports.get {} key).prepared.all (fun e => e.1 != gid) = true
      (∃ d ∈ x.dests, d ≠ key ∧ d ∉ x.acked) →
      (told s id .publish gid pkg port → ∃ t, exec (.publish id) s = .next t ∧ done t ∧
        t.mem = ((s.ports.get {} key).of gid).foldl (fun m e => Memory.writeL m (s.pkgLoc pkg e.phys) e.bytes) s.mem) ∧
      (told s id .abort gid pkg port → ∃ t, exec (.groupAbortAtPort id) s = .next t ∧ done t ∧ t.mem = s.mem)) ∧
    (∀ (s : State) (gid i : Nat) (x : Group), s.groupOf gid = some (i, x) → x.since + 1200000 ≤ s.cyc.toNat →
      (x.step = .prepared → exec (.prepareAnswerTimeout gid) s = .next (s.groupDecide i 2 (if x.answers.any (fun e => !e.2) then 1 else 2))) ∧
      (x.step = .telling → exec (.publishAckTimeout gid) s = .next (s.groupFinish i))) ∧
    (∀ (s : State) (port gid since : Nat) (record : Nat × Nat × Nat), (s.ports.get {} port).prepared.find? (fun e => e.1 == gid) = some (gid, since, record) →
      since + 2400000 ≤ s.cyc.toNat → record.1 ∉ s.peerTable → s.numAt (s.pkgLoc record.1 record.2.2) 8 = gid → s.groupOf gid = none →
      s.recordLocked record = false →
      let held := s.numAt (s.pkgLoc record.1 record.2.2 + 8) 8
      let owner := gid / 2 ^ 10 % 2 ^ 13
      let ended (u : State) : Prop := ∃ t, exec (.preparedLockTimeout port gid) s = .next t ∧ { t with replies := s.replies } = u ∧
        (owner ≠ s.pkgNo → port / 32 = s.pkgNo → t.replies = s.replies ++ [(.group owner gid (port % 32), .told)])
      (held = 1 → ended (s.publishAt port gid)) ∧ (held = 2 → ended (s.updPort port (·.forget gid))) ∧
      (held = 0 → ∃ t, exec (.preparedLockTimeout port gid) s = .next t ∧ (t.ports.get {} port).prepared.all (fun e => e.1 != gid) = true ∧
        (∀ e ∈ (t.ports.get {} port).entries, e.gid ≠ gid) ∧
        t.mem = (record.1 :: [record.2.1].filter (fun p => !s.peerTable.contains p)).foldl
          (fun m p => Memory.writeL m (s.pkgLoc p record.2.2 + 8) (leBytes 8 2)) s.mem)) ∧
    (∀ (s : State) (port gid since : Nat) (record : Nat × Nat × Nat), (s.ports.get {} port).prepared.find? (fun e => e.1 == gid) = some (gid, since, record) →
      since + 2400000 ≤ s.cyc.toNat → s.groupOf gid = none →
      (record.1 ∈ s.peerTable → record.2.1 ∈ s.peerTable → ∃ t, exec (.preparedLockTimeout port gid) s = .next t ∧ t.mem = s.mem ∧
        (t.ports.get {} port).entries = (s.ports.get {} port).entries ∧
        (t.ports.get {} port).prepared.find? (fun e => e.1 == gid) = some (gid, s.cyc.toNat, record)) ∧
      (record.1 ∉ s.peerTable → s.recordLocked record = false → s.numAt (s.pkgLoc record.1 record.2.2) 8 ≠ gid →
        ∃ t, exec (.preparedLockTimeout port gid) s = .next t ∧ t.mem = s.mem ∧ (t.ports.get {} port).prepared.all (fun e => e.1 != gid) = true ∧
          ∀ e ∈ (t.ports.get {} port).entries, e.gid ≠ gid)) ∧
    (∀ (s : State) (gid i : Nat) (x : Group), s.groupOf gid = some (i, x) → x.st = .draining →
      (∀ d ∈ x.dests, d ∈ x.acked ∨ d / 32 ∈ s.peerTable) →
      ∃ t, exec (.groupDrainEnd gid) s = .next t ∧ t.groups.get {} i = { gen := x.gen } ∧ t.mem = s.mem))

namespace Sys2Proof.Spec

/-- The round of a collective that the switches have. -/
def theRound (s : State) (coll round : Nat) : Option Round := s.rounds.find? (fun r => r.coll == coll && r.round == round)

/-- A round with one contribution more. -/
def oneMore (r : Round) (member : Nat) (elems : List (BitVec 32)) (at_ : Nat) : Round :=
  { r with got := r.got ++ [(member, elems)], times := r.times ++ [at_] }

/-- When the contribution of a member arrived. -/
def arrival (r : Round) (member : Nat) : Option Nat := Tab.find ((r.got.map (·.1)).zip r.times) member

/-- The bytes of the combination with the last contribution (R390; which package hangs where is log 22). -/
def combined (c : Coll) (r : Round) (member : Nat) (elems : List (BitVec 32)) : List Byte :=
  (treeFold r.op r.det ((r.got ++ [(member, elems)]).map (fun e => (c.members.getD e.1 0, e.2)))).flatMap (fun v => leBytes 4 v.toNat)

/-- Every reduction of this package that has contributed to a round and has no answer yet gets the answer, and nothing else of it changes. -/
def answered (s t : State) (coll round : Nat) (a : Nat × Nat × List Byte) : Prop :=
  ∀ g i c x, s.ctxs.find g = some c → c.reds.find i = some x → x.held = true → x.sent = true → x.ans = none → x.coll = coll → x.round = round →
    (t.ctxAt g).reds.get {} i = { x with ans := some a }

end Sys2Proof.Spec

open Sys2Proof.Spec in
/-- Reductions (R389 to R392): FRED with every slot taken gives the ticket whose BUSY bit is set; otherwise it takes the lowest free slot
with the words of its source and its destination locked; FREDW gives 2 for a ticket of nothing outstanding and the status of an answered
one; the contributions of the members, this package's own among them, combine, as a tree of three levels over the package numbers (the
model's choice, log 22), and every contributor of this package that waits is answered; one whose operation, count or DET differs is answered
MISMATCH, a second one DUPLICATE; a round in which a switch lacks members 200 µs after its first came, by this package's CYC (the model's
choice, log 56), ends as INCOMPLETE for all that have contributed and for what comes later; an answer reaches the destination. -/
def Obligations.Reductions : Prop :=
  (∀ (o : Ops) (s : State) (self : Nat) (c : Coll),
    let w := s.lo o.c
    let n := fld w 38 32
    let x := s.capAt o.a
    let y := s.capAt o.b
    s.me.ready (o.c.toNat :: span o.a 2 ++ span o.b 2) = true → s.me.holdsCap o.a = true → s.me.holdsCap o.b = true → s.me.numbers [o.c.toNat] = true →
    fld w 15 12 = 0 → bitAt w 39 = false → fld w 63 44 = 0 → fld w 43 40 < 9 → 1 ≤ n → n ≤ 64 →
    s.reaches x x.cur (4 * n) [pRD] [0] 4 = true → s.reaches y y.cur (4 * n) [pWR] [0] 4 = true →
    s.free x.cur (4 * n) false = true → s.free y.cur (4 * n) true = true → s.colls.find (fld w 11 0) = some c → c.self = some self →
    ((∀ i, i < 4 → (s.me.reds.get {} i).held = true) → exec (.fred o) s = .next (s.putQ o.c (BitVec.ofNat 128 (2 ^ 16))).endNext) ∧
    (∀ i, i < 4 → (s.me.reds.get {} i).held = false → (∀ j, j < i → (s.me.reds.get {} j).held = true) → s.myCore.freeLocks ≠ 0 →
      ∃ t r, exec (.fred o) s = .next t ∧ t.me.pc = s.nextPc ∧ t.mem = s.mem ∧ t.me.reds.get {} i = r ∧ r.held = true ∧ r.coll = fld w 11 0 ∧
        r.round = fld w 31 16 ∧ r.op = fld w 43 40 ∧ r.sent = false ∧ r.ans = none ∧ r.gen = ((s.me.reds.get {} i).gen + 1) % 256 ∧
        r.elems = (List.range n).map (fun k => BitVec.ofNat 32 (s.mine.numAt (spad s.cid (x.cur.toNat % 2 ^ 19 + 4 * k)) 4)) ∧
        (o.c ≠ 0 → (t.me.reg o.c.toNat).bits = BitVec.ofNat 128 (i + r.gen * 2 ^ 8)))) ∧
  (∀ (o : Ops) (s : State), s.me.ready [o.d.toNat, o.b.toNat] = true → s.me.numbers [o.b.toNat] = true →
    let i := fld (s.lo o.b) 1 0
    let r := s.me.reds.get {} i
    (r.held = false → exec (.fredw o) s = .next (s.put o.d 2).endNext) ∧
    (∀ st k bs, r.held = true → r.gen = fld (s.lo o.b) 15 8 → r.ans = some (st, k, bs) → r.landed = true →
      exec (.fredw o) s = .next (((s.unlock r.key).updMe (fun c => { c with reds := c.reds.put i { gen := r.gen } })).put o.d
        (BitVec.ofNat 64 (st + (if st = 1 then k % 2 ^ 16 * 2 ^ 32 else 0)))).endNext)) ∧
  (∀ (s : State) (coll round member : Nat) (c : Coll) (k : RedContrib) (r : Round), s.colls.find coll = some c → member < c.members.length →
    c.self ≠ some member → theRound s coll round = some r → r.ended = false → r.late s = false → r.op = k.op → r.nel = k.nel →
    r.det = k.det → r.got.any (fun e => e.1 == member) = false →
    (r.got.length + 1 < c.members.length → ∃ t, exec (.reductionCombine coll round member k) s = .next t ∧
      t = { s with rounds := t.rounds } ∧ oneMore r member k.elems s.cyc.toNat ∈ t.rounds) ∧
    (r.got.length + 1 = c.members.length → ∃ t, exec (.reductionCombine coll round member k) s = .next t ∧ t.mem = s.mem ∧
      theRound t coll round = none ∧ answered s t coll round (0, 0, combined c r member k.elems))) ∧
  (∀ (s : State) (coll round member g i : Nat) (c : Coll) (k : RedContrib) (x : RedSlot), s.colls.find coll = some c → member < c.members.length →
    c.self = some member → s.nextRed coll round = some (g, i, x) → x.ans = none →
    let slot (t : State) : RedSlot := (t.ctxAt g).reds.get {} i
    (theRound s coll round = none → 1 < c.members.length → ∃ t, exec (.reductionCombine coll round member k) s = .next t ∧
      t = { s with rounds := t.rounds, ctxs := t.ctxs } ∧ slot t = { x with sent := true } ∧
      { coll := coll, round := round, op := x.op, nel := x.elems.length, det := x.det, got := [(member, x.elems)], times := [s.cyc.toNat] } ∈ t.rounds) ∧
    (∀ r, theRound s coll round = some r →
      ((r.ended = true ∨ r.late s = true) → ∃ t, exec (.reductionCombine coll round member k) s = .next t ∧ t.mem = s.mem ∧
        slot t = { x with sent := true, ans := some (1, r.got.length, r.bitmap x.elems.length) }) ∧
      (r.ended = false → r.late s = false → (r.op ≠ x.op ∨ r.nel ≠ x.elems.length ∨ r.det ≠ x.det) →
        ∃ t, exec (.reductionCombine coll round member k) s = .next t ∧ t = { s with ctxs := t.ctxs } ∧
          slot t = { x with sent := true, ans := some (4, 0, []) }) ∧
      (r.ended = false → r.late s = false → r.op = x.op → r.nel = x.elems.length → r.det = x.det →
        (r.got.any (fun e => e.1 == member) = true → ∃ t, exec (.reductionCombine coll round member k) s = .next t ∧ t = { s with ctxs := t.ctxs } ∧
          slot t = { x with sent := true, ans := some (3, 0, []) }) ∧
        (r.got.any (fun e => e.1 == member) = false → r.got.length + 1 < c.members.length →
          ∃ t, exec (.reductionCombine coll round member k) s = .next t ∧ t = { s with rounds := t.rounds, ctxs := t.ctxs } ∧
            slot t = { x with sent := true } ∧ oneMore r member x.elems s.cyc.toNat ∈ t.rounds) ∧
        (r.got.any (fun e => e.1 == member) = false → r.got.length + 1 = c.members.length →
          ∃ t, exec (.reductionCombine coll round member k) s = .next t ∧ t.mem = s.mem ∧ theRound t coll round = none ∧
            slot t = { x with sent := true, ans := some (0, 0, combined c r member x.elems) } ∧
            answered s t coll round (0, 0, combined c r member x.elems))))) ∧
  (∀ (s : State) (coll round : Nat) (r : Round), theRound s coll round = some r → r.ended = false → r.late s = true →
    ∃ t, exec (.reductionTimeout coll round) s = .next t ∧ t.mem = s.mem ∧ { r with ended := true } ∈ t.rounds ∧
      answered s t coll round (1, r.got.length, r.bitmap r.nel)) ∧
  (∀ (s : State) (r : Round) (c : Coll) (p q j h u : Nat), s.colls.find r.coll = some c → c.members[p]? = some j → c.members[q]? = some h →
    j / 64 = h / 64 → arrival r p = some u → arrival r q = none → u + 240000 ≤ s.cyc.toNat → r.late s = true) ∧
  (∀ (s : State) (r : Round), (∀ u ∈ r.times, s.cyc.toNat < u + 240000) → r.late s = false) ∧
  (∀ (s : State) (g slot st n : Nat) (bs : List Byte), let r := (s.ctxAt g).reds.get {} slot
    r.held = true → r.ans = some (st, n, bs) → r.landed = false → r.orphan = false → bs ≠ [] → (s.coreAt (g / 4)).fenced = false →
    ∃ t, exec (.reductionAnswer g slot) s = .next t ∧ (t.ctxAt g).reds.get {} slot = { r with landed := true } ∧
      t.mem = Memory.writeL s.mem (spad (g / 4) r.dst) bs) ∧
  (∀ (s : State) (coll : Nat) (members : List Nat) (self : Option Nat), ∃ t, exec (.collectiveSetup coll members self) s = .next t ∧
    t = { s with colls := t.colls } ∧ t.colls.find coll = some { members := members, self := self })

open Sys2Proof.Spec in
/-- Accesses to peers (R372 to R388): FNCP with nothing on its way completes; PCNT and PCNT.ISS count by path; the home of a peer page
performs or refuses a piece; a peer's own load and store are performed here when a window grants them, and refused otherwise; an answer of
the generation sent ends the store, another, or a late one, is dropped; 600,000 clk without an answer fail the access with FAB, but a load
of a mirrored page goes to the mirror and a store to one whose missing copies are not lost is sent again (under the next generation, modulo
16: the model's choice, log 17); a lost package enters the peer table and leaves it when admitted again. -/
def Obligations.PeerAccesses : Prop :=
  (∀ (s : State), s.net.any (fun m => (m.g == s.cur && m.toPeer) || m.mayLeave s.cur s.me.fire) = false →
    (s.me.fabricRef = none → exec .fncp s = .next s.endNext) ∧
    (∀ f, s.me.fabricRef = some f → exec .fncp s = .next ((s.updMe (fun c => { c with fabricRef := none })).takeTrap s.cur f.cause f.val true s.ilen))) ∧
  (∀ (o : Ops) (s : State), s.me.ready [o.d.toNat] = true →
    exec (.pcnt o) s = .next (s.putQ o.d (BitVec.ofNat 128 (fourHalves (s.outOn s.cur) + s.ofHeld s.cur % 2 ^ 16 * 2 ^ 64))).endNext ∧
    exec (.pcntIss o) s = .next (s.put o.d (BitVec.ofNat 64 (fourHalves (fun p => ((s.me.issued[p]?).getD 0).toNat)))).endNext) ∧
  (∀ (s : State) (id pkg phys : Nat) (m : Msg) (a : Acc) (p : Piece), atPeerHome s id pkg phys m a p →
    let loc := peerLoc pkg (pieceLoc phys p)
    (a.kind = .store → s.partPoison loc p.bytes.length = none → ∃ t m', exec (.peerIngress (.ours id pkg true)) s = .next t ∧
      t.mem = Memory.writeL s.mem loc p.bytes ∧ t.msg id = some m' ∧ m'.stage = .answered {}) ∧
    (a.kind = .load → a.got = [] → s.poisonedAt loc p.n = none → ∃ t m' b, exec (.peerIngress (.ours id pkg true)) s = .next t ∧ t.mem = s.mem ∧
      t.msg id = some m' ∧ m'.stage = .answered {} ∧ m'.body = .acc b ∧ b.got = [(p.part, s.numAt loc p.n)]) ∧
    (∃ t m' b, exec (.peerIngress (.ours id pkg false)) s = .next t ∧ t.mem = s.mem ∧ t.msg id = some m' ∧ m'.stage = .answered {} ∧
      m'.body = .acc b ∧ b.faults = a.faults ++ [(p.part, ⟨.fab, m.va⟩)])) ∧
  (∀ (s : State) (pkg part gen phys n : Nat) (bs : List Byte),
    let answers (t : State) (r : Reply) : Prop := t.replies = s.replies ++ [(.peer pkg gen, r)]
    (pkg ∉ s.peerTable → s.winGrants part phys bs.length [79] = true → s.lineLocked s.pkgNo phys bs.length = false →
      s.partPoison phys bs.length = none →
      ∃ t, exec (.peerIngress (.store pkg part gen phys bs)) s = .next t ∧ t.mem = Memory.writeL s.mem phys bs ∧ answers t (.data [])) ∧
    (pkg ∉ s.peerTable → s.winGrants part phys n [78] = true → s.lineLocked s.pkgNo phys n = false → s.poisonedAt phys n = none →
      ∃ t, exec (.peerIngress (.load pkg part gen phys n)) s = .next t ∧ t = { s with replies := t.replies } ∧ answers t (.data (s.bytesAt phys n))) ∧
    ((pkg ∈ s.peerTable ∨ s.winGrants part phys n [78] = false) →
      ∃ t, exec (.peerIngress (.load pkg part gen phys n)) s = .next t ∧ t.mem = s.mem ∧ answers t (.fault .fab) ∧
        t.plug = (s.latch 1 (BitVec.ofNat 64 phys)).plug)) ∧
  (∀ (s : State) (id gen : Nat) (m : Msg) (a : Acc), s.msg id = some m → m.body = .acc a → m.path.isSome = true → m.unperformed = false →
    (m.gen ≠ gen ∨ m.sent + 600000 ≤ s.cyc.toNat → exec (.peerReply id gen) s = .next s) ∧
    (s.cyc.toNat < m.sent + 600000 → (s.coreAt (m.g / 4)).fenced = false → m.gen = gen → a.kind = .store → a.key = 0 → m.refusal = none → exec (.peerReply id gen) s = .next (s.gone id)) ∧
    (s.cyc.toNat < m.sent + 600000 → (s.coreAt (m.g / 4)).fenced = false → ∀ f, m.gen = gen → a.kind = .store → a.key = 0 → m.refusal = some f → (s.ctxAt m.g).fire = m.fire → (s.ctxAt m.g).fabricRef = none →
      ∃ t, exec (.peerReply id gen) s = .next t ∧ (t.ctxAt m.g).fabricRef = some ⟨.fab, m.va⟩ ∧ t.msg id = none ∧ t.mem = s.mem)) ∧
  (∀ (s : State) (id pkg phys q : Nat) (m : Msg) (a : Acc), s.msg id = some m → m.id = id → m.body = .acc a → m.path.isSome = true →
    m.sent + 600000 ≤ s.cyc.toNat →
    (m.stage = .peer pkg none phys → a.kind = .store → a.key = 0 → (s.ctxAt m.g).fire = m.fire → (s.ctxAt m.g).fabricRef = none →
      ∃ t, exec (.fabricTimeout id) s = .next t ∧ t.msg id = none ∧ (t.ctxAt m.g).fabricRef = some ⟨.fab, m.va⟩ ∧ t.mem = s.mem) ∧
    (m.stage = .peer pkg (some q) phys → a.kind = .load → q ∉ s.peerTable →
      ∃ t m' b, exec (.fabricTimeout id) s = .next t ∧ t.mem = s.mem ∧ t.msg id = some m' ∧ m'.stage = .peer q none phys ∧ m'.body = .acc b ∧ b.todo = [(q, a.pieces)]) ∧
    (m.stage = .peer pkg (some q) phys → a.kind = .store → (∀ e ∈ a.todo, e.1 ∉ s.peerTable) →
      ∃ t m', exec (.mirrorResend id) s = .next t ∧ t.mem = s.mem ∧ t.msg id = some m' ∧ m'.sent = s.cyc.toNat ∧ m'.gen = (m.gen + 1) % 16)) ∧
  (∀ (s : State) (id pkg phys : Nat) (op : AmoOp) (m : Msg) (a : Atom), s.msg id = some m → m.id = id → m.body = .atom a → m.stage = .peer pkg none phys →
    m.path.isSome = true → a.kind = .amo op → op ≠ .fadd → s.lineLocked pkg phys a.n = false → s.poisonedAt (peerLoc pkg phys) a.n = none →
    let loc := peerLoc pkg phys
    ∃ t m', exec (.sysAtomicAtHome id false) s = .next t ∧ t.msg id = some m' ∧ m'.stage = .answered { data := BitVec.ofNat 128 (s.numAt loc a.n) } ∧
      t.mem = Memory.writeL s.mem loc (leBytes a.n (amoValue op a.n (s.numAt loc a.n) (a.val.toNat % 256 ^ a.n)))) ∧
  (∀ (s : State) (id p : Nat) (m : Msg), s.msg id = some m → m.ordered = true → m.path = none → m.toPeer = true → s.net.all (fun x => decide (m.id ≤ x.id)) = true →
    s.pathFor m.g = some p → ∃ t, exec (.ofStoreRelease id) s = .next t ∧ t = s.leave m ∧ t.mem = s.mem) ∧
  (∀ (s : State) (pkg : Nat),
    (s.net = [] → pkg ≠ s.pkgNo → pkg ∉ s.peerTable → ∃ t, exec (.peerLoss pkg) s = .next t ∧ pkg ∈ t.peerTable ∧ t.mem = s.mem) ∧
    (∃ t, exec (.peerReadmit pkg) s = .next t ∧ t = { s with peerTable := t.peerTable } ∧ ∀ q, q ∈ t.peerTable ↔ q ∈ s.peerTable ∧ q ≠ pkg))

/-! ## Launches (R53 to R57, R329 to R354) -/

namespace Sys2Proof.Spec

/-- Nothing that FIN joins or waits for is left in the current context (R56). -/
def nothingLeft (s : State) : Prop :=
  quiet s ∧ s.opsOf s.cur = [] ∧ s.me.prog = none ∧ s.me.copies.all (fun e => !e.2.held) = true ∧ s.myTasks = [] ∧
  s.me.reds.all (fun e => !e.2.held) = true ∧ s.me.spFail = none ∧ postedOut s = 0 ∧ s.me.stream = none

/-- A launch with the identifier lid, as the states of its life know it. -/
def known (s : State) (lid : Nat) (l : Launch) : Prop := s.launch (BitVec.ofNat 64 lid) = some l ∧ l.lid = BitVec.ofNat 64 lid

/-- The new state differs only in its launches and in launch queue q. -/
def onlyQueue (s t : State) (q : Nat) : Prop :=
  t = { s with queues := t.queues, launches := t.launches, arrivals := t.arrivals } ∧ ∀ r, r ≠ q → t.queue r = s.queue r

end Sys2Proof.Spec

open Sys2Proof.Spec in
/-- Firings (R53 to R57, R76): a running launch's core starts the candidate in its lowest free context, at its entry address, at user level;
a spawn starts at its address; a block that would run over its ring's end is laid in one piece first; FIN with nothing left frees the
context and moves the tokens of its actor, or, in a firing that a spawn started, moves none; with ABT at system level the firing is
abandoned; RET on an empty stack ends as FIN. Three points are the model's choices: how that block comes to lie in one piece (log 18), the
actor after which the candidates of a core are first taken in turn (log 8), and that the fault message of a FIN with ABT carries TCAUSE's
cause byte (log 31). -/
def Obligations.Firings : Prop :=
  (∀ (s : State) (cid i p a : Nat) (l : Launch), (List.range 4).find? (fun i => !(s.ctxAt (4 * cid + i)).busy) = some i →
    (s.coreAt cid).candidate (Config.firstActor cid) = some (p, a) → s.launch (s.coreAt cid).lid = some l → l.st = .running → (s.coreAt cid).resetting = false → l.lid ∉ s.blocks →
    let g := 4 * cid + i
    (∀ x, a < 32 → (s.coreAt cid).actors.find a = some x → ∃ t, exec (.firingStart cid) s = .next t ∧ t.mem = (s.turnRings cid x).mem ∧
      ((∀ e ∈ x.used, (s.coreAt cid).oneBlock e = true) → t.mem = s.mem) ∧ (t.ctxAt g).busy = true ∧
      (t.ctxAt g).pc = x.entry ∧ (t.ctxAt g).level = .user ∧ (t.ctxAt g).lid = l.lid ∧
      (t.coreAt cid).actors.find a = some { x with serial := x.serial + 1, ctx := some i } ∧ ∀ h, h ≠ g → t.ctxAt h = s.ctxAt h) ∧
    (∀ e : Nat × Fifo, e.2.rate ≤ e.2.cap → (4 ≤ e.1 → 0 < e.2.rate ∧ ((s.coreAt cid).rings.get {} e.2.ring).occ + e.2.rate ≤ e.2.cap) →
      ((s.turnRing cid e).coreAt cid).oneBlock e = true) ∧
    (∀ r rest, a = 32 → (s.coreAt cid).spawnFifo = r :: rest → ∃ t, exec (.firingStart cid) s = .next t ∧ t.mem = s.mem ∧
      (t.ctxAt g).busy = true ∧ (t.ctxAt g).pc = r.pc ∧ (t.ctxAt g).level = .user ∧ (t.coreAt cid).spawnFifo = rest)) ∧
  (∀ (s : State) (n : Nat) (a : Actor), nothingLeft s → ¬(s.me.level = .system ∧ bitAt s.me.tsav 5 = true) →
    s.groups = [] → s.me.queries = [] → s.myCore.actors.find? (fun e => e.2.ctx == some (s.cur % 4)) = some (n, a) →
    ∃ t, exec .fin s = .next t ∧ t.mem = s.mem ∧ (t.ctxAt s.cur).busy = false ∧ (t.coreAt s.cid).rings = (s.myCore.moveTokens a).rings ∧
      (t.coreAt s.cid).actors.find n = some { a with ctx := none } ∧ ∀ h, h ≠ s.cur → (t.ctxAt h).regs = (s.ctxAt h).regs) ∧
  (∀ s : State, nothingLeft s → ¬(s.me.level = .system ∧ bitAt s.me.tsav 5 = true) → s.groups = [] → s.me.queries = [] →
    s.myCore.actors.find? (fun e => e.2.ctx == some (s.cur % 4)) = none →
    ∃ t, exec .fin s = .next t ∧ t.mem = s.mem ∧ (t.ctxAt s.cur).busy = false ∧ (t.coreAt s.cid).rings = s.myCore.rings ∧
      (t.coreAt s.cid).actors = s.myCore.actors ∧ ∀ h, h ≠ s.cur → (t.ctxAt h).regs = (s.ctxAt h).regs) ∧
  (∀ s : State, s.me.level = .system → bitAt s.me.tsav 5 = true → exec .fin s = .next (s.abandon s.cur 2 (fld s.me.tcause 7 0))) ∧
  (∀ s : State, s.me.rstack = [] → s.me.sp.toNat = s.me.rsbBase → exec .ret s = exec .fin s)

open Sys2Proof.Spec in
/-- Launch queues (R334 to R336, R349, R353, R354): a doorbell or an LQPUT entry for an open queue with room and a good DCB becomes a
pending launch with a new identifier and status 0; a disabled queue gives 2; LQPUT completes with identifier and status; CANCEL sends its
request and completes with the answer; entries and cancellations of one core arrive in the order sent (R257), and what reads a line locked
for a group waits (R402); the command processor answers one that has arrived (a free bit, log 2) before its next dispatch decision, and QCAN
at once, with 0 for a launch that has not been dispatched, which ends with status 2, 1 for one that runs, 2 for one that is not there, 3 for
another partition's; that a disabled queue gives 2 also for an entry that would be refused is the model's choice (the order of log 31);
software's read pointer and Feather's registers take what is written. -/
def Obligations.LaunchQueues : Prop :=
  (∀ (s : State) (q slot : Nat) (e : Word), s.plug.step = 6 → q < 256 →
    let k := s.queue q
    let bs := s.bytesAt (fld e 41 0) 64
    let lid := BitVec.ofNat 64 (q + slot * 2 ^ 8 + (k.serial + 1) * 2 ^ 14)
    s.freeEntry q = some slot → s.lineLocked s.pkgNo (fld e 41 0) 64 = false → s.entryLocked bs = false →
    (bitAt k.cfg 0 = true → ((s.ofQueue q).filter (fun l => l.st == .pending)).length < 64 → recNat bs 0 8 < 2 ^ 42 →
      (bs.drop 32).all (· == 0) = true → s.dcbOk (recNat bs 0 8) = true →
      ∃ t l, exec (.qdoor q e) s = .next t ∧ onlyQueue s t q ∧ t.launches = s.launches ++ [l] ∧ l.lid = lid ∧ l.st = .pending ∧ l.dcb = recNat bs 0 8 ∧
        l.deadline = (if recNat bs 8 8 = 0 then 2 ^ 64 - 1 else recNat bs 8 8) ∧ l.tag = BitVec.ofNat 64 (recNat bs 24 8) ∧ (t.queue q).last = 0 ∧
        (t.queue q).lid = lid) ∧
    (bitAt k.cfg 0 = false → exec (.qdoor q e) s = .next (s.updQueue q (fun k => { k with door := e &&& 0x3FFFFFFFFFF, last := 2 })))) ∧
  (∀ (o : Ops) (s : State) (x : Answer), s.me.phase = .done x → x.fault = none → x.bytes = [] →
    exec (.lqput o) s = .next (s.putQ o.d x.data).endNext) ∧
  (∀ (o : Ops) (s : State), s.me.phase = .idle → quiet s → s.me.ready (o.d.toNat :: o.a.toNat :: span o.b 2) = true → s.me.numbers [o.a.toNat] = true →
    s.me.holdsCap o.b = true → s.reaches (s.capAt o.b) (s.capAt o.b).cur 64 [pRD] [0, 1, 2] 64 = true → s.isOwn (s.capAt o.b).spc (s.capAt o.b).cur = true →
    s.free (s.capAt o.b).cur 64 false = true →
    ∃ t m, exec (.lqput o) s = .next t ∧ t.net = s.net ++ [m] ∧ m.body = .entry (fld (s.lo o.a) 7 0) (ownRead s (s.capAt o.b).cur 64) ∧
      t.me.phase = .sent m.id ∧ t.me.pc = s.me.pc ∧ t.mem = s.mem) ∧
  (∀ (s u : State) (id q st : Nat) (lid : Word) (bs : List Byte) (m : Msg), s.msg id = some m → m.body = .entry q bs → awaits s m id →
    s.behindOrder m = false → s.entryLocked bs = false →
    s.enqueue q bs (some (m.pid, (s.partOf.find m.pid).getD 0)) = (st, lid, u) → u.ctxs = s.ctxs → u.net = s.net →
    ∃ t, exec (.lqputEntryArrival id) s = .next t ∧ t.msg id = none ∧ t.launches = u.launches ∧
      (t.ctxAt m.g).phase = .done { data := BitVec.ofNat 128 (lid.toNat + st * 2 ^ 64) }) ∧
  (∀ (o : Ops) (s : State),
    (s.me.phase = .idle → s.me.ready [o.d.toNat, o.b.toNat] = true → s.me.numbers [o.b.toNat] = true →
      ∃ t m, exec (.cancel o) s = .next t ∧ t.net = s.net ++ [m] ∧ m.body = .cancel (s.lo o.b) s.myPart ∧ m.id = s.nextId ∧ m.g = s.cur ∧
        m.fire = s.me.fire ∧ t.me.phase = .sent s.nextId ∧ t.me.pc = s.me.pc ∧ t.mem = s.mem ∧ t.launches = s.launches) ∧
    (∀ a, s.me.phase = .done a → exec (.cancel o) s = .next (s.putQ o.d a.data).endNext)) ∧
  (∀ (s : State) (m : Msg) (lid : Word) (part : Nat), s.plug.step = 6 → s.decision ≤ s.cyc.toNat → s.net = [m] → m.body = .cancel lid part → s.owed = [] →
    awaits s m m.id →
    ∃ t, exec .dispatchDecision s = .next t ∧ (Config.freeBit s.draws = false → m ∈ t.net) ∧ (Config.freeBit s.draws = true → m ∉ t.net ∧
      (s.launch lid = none → (t.ctxAt m.g).phase = .done { data := 2 }) ∧
      (∀ l, s.launch lid = some l → (l.part ≠ part → (t.ctxAt m.g).phase = .done { data := 3 }) ∧
        (l.part = part → l.st = .pending → (t.ctxAt m.g).phase = .done { data := 0 }) ∧
        (l.part = part → l.st = .running → (t.ctxAt m.g).phase = .done { data := 1 })))) ∧
  (∀ (s : State) (q : Nat) (v : Word), q < 256 → s.plug.step = 6 →
    let answers (t : State) (st : Nat) : State := t.updQueue q (fun k => { k with can := v, cres := st })
    let part := fld (s.queue q).cfg 15 8
    (s.launch v = none → exec (.qcan q v) s = .next (answers s 2)) ∧
    (∀ l, s.launch v = some l →
      (l.part ≠ part → exec (.qcan q v) s = .next (answers s 3)) ∧
      (l.part = part → l.st = .pending → exec (.qcan q v) s = .next (answers (s.finish v 2) 0)) ∧
      (l.part = part → l.st = .placing → l.decided = s.cyc.toNat → exec (.qcan q v) s = .next (answers (s.finish v 2) 0)) ∧
      (l.part = part → l.st = .running → exec (.qcan q v) s = .next (answers (s.updLaunch v (fun l => { l with
        st := .stopping, status := 2, asked := s.cyc.toNat })) 1)) ∧
      (l.part = part → l.st = .stopping ∨ l.st = .done → exec (.qcan q v) s = .next (answers s 2))) ∧
    exec (.qch q v) s = .next (s.updQueue q (fun k => { k with head := v.setWidth 32 })) ∧
    (s.plug.feather = true → ∃ t, exec (.controlPageWrite q 0 v true) s = .next t ∧ onlyQueue s t q ∧ t.launches = s.launches ∧
      (t.queue q).cfg = ((s.queue q).cfg &&& ~~~0xFF07) ||| (v &&& 0xFF07)) ∧
    (∀ off, exec (.controlPageWrite q off v false) s = .next s))

open Sys2Proof.Spec in
/-- A launch from the queue to its completion record (R337, R343, R345 to R347): there is one dispatch decision for each clk, after that
clk's cancellations and the accounting; it dispatches the first pending launch in the order of R337 when that can be placed, and one whose
DCB has gone bad ends with status 4, while its partition has clusters; in a later clk a placement that the image allows makes it run,
another ends it with 4; a core with nothing left gives its share; with every share in the launch is complete, and its record enters the
queue's ring, with the MSI-X that QCFG.IRQ asks for; a full ring makes the record wait. A launch whose DCB or PLACE record lies in a line
locked for a group is passed over, and a placement that meets one waits (R402; the former the model's choice, log 83). misses, budgets,
pre-emption, saving and stopping (R338 to R342, R348 to R352): a deadline miss is counted once; the cluster-time of a launch is charged to
every DCB above it; while the tiers short of their reservations lack more than is idle or being freed, a running launch of another tier is
saved; a quiet launch that is asked for is saved and its contexts are free; one that is stopped ends; after 5 ms the clusters that could not
be saved are to be reset; a saved launch resumes with its contexts as they were; a fault message ends its launch; the ramp window follows
what was used within its step. Three points are the model's choices: idle and freed clusters count against what all the tiers together lack,
and every cluster of a launch is to be reset when only its save is late (both log 31), and a launch itself holds the state that was saved
(log 25). -/
def Obligations.LaunchLifeAndStops : Prop :=
  (
    (∀ (s : State), s.plug.step < 6 ∨ s.cyc.toNat < s.decision → exec .dispatchDecision s = .next s) ∧
    (∀ (s : State) (l : Launch), s.plug.step = 6 → s.decision ≤ s.cyc.toNat → (∀ m ∈ s.net, ∀ lid part, m.body ≠ .cancel lid part) →
      (∀ x ∈ s.launches, x.holds = false) → s.owed = [] → l ∈ s.launches → l.st = .pending → (∀ x ∈ s.launches, x.st = .pending → x ≠ l → l.before x = true) →
      s.launches.Nodup →
      let t : State := { s with decision := s.cyc.toNat + 1 }
      let u : State := { t with draws := s.draws + 1 }
      (∀ cs, t.dcbOk l.dcb = true → t.placeable (t.readDcb l) = some cs →
        exec .dispatchDecision s = .next (u.updLaunch l.lid (fun l => { t.readDcb l with
          st := .placing, clusters := cs, acct := s.cyc.toNat, decided := s.cyc.toNat }))) ∧
      (t.dcbOk l.dcb = false → t.dcbLocked l.dcb = false → t.nclup l.part ≠ 0 → exec .dispatchDecision s = .next (u.finish l.lid 4))) ∧
    (∀ (s : State) (lid : Nat) (l : Launch), known s lid l →
      (l.st = .placing → l.decided < s.cyc.toNat → l.clusters ≠ [] → s.peersKnown l = true → s.placeLocked l = false →
        (∀ t, s.place l = some t → t.owed = s.owed → exec (.launchPlacement lid) s = .next t) ∧
        (s.place l = none → l.status = 0 → s.cyc.toNat < l.acct + 1200 → (l.missed = true ∨ s.cyc.toNat ≤ l.deadline) →
          ∃ t, exec (.launchPlacement lid) s = .next t ∧ t.mem = s.mem ∧
            t.launch l.lid = some { l with st := .done, status := 4, clusters := [], saved := [], ended := s.cyc.toNat })) ∧
      (l.st = .placing → s.cyc.toNat ≤ l.decided → exec (.launchPlacement lid) s = .next s) ∧
      (l.st = .placing → l.clusters ≠ [] → (s.placeLocked l = true ∨ ∃ t, s.place l = some t ∧ t.owed ≠ s.owed) → exec (.launchPlacement lid) s = .next s) ∧
      (∀ cid, l.st = .running → cid ∈ l.cids → cid ∉ l.shares → s.shareDone l cid = true →
        exec (.shareComplete lid cid) s = .next (s.updLaunch l.lid (fun l => { l with shares := l.shares ++ [cid] }))) ∧
      (let q := lidQueue l.lid
       let k := s.queue q
       let n := 2 ^ (fld k.ring 55 52 + 4)
       (l.st = .done →
        ((k.tail - k.head).toNat < n → s.lineLocked s.pkgNo (fld k.ring 41 0 + 32 * (k.tail.toNat % n)) 32 = false → ∃ t, exec (.completionRecord lid) s = .next t ∧ (t.queue q).tail = k.tail + 1 ∧
          t.launches = s.launches.filter (fun x => x.lid != l.lid) ∧ t.msix = s.msix ++ (if bitAt k.cfg 2 then [q] else []) ∧
          t.mem = Memory.writeL s.mem (fld k.ring 41 0 + 32 * (k.tail.toNat % n)) (recordBytes l)) ∧
        (n ≤ (k.tail - k.head).toNat → exec (.completionRecord lid) s = .next s)) ∧
       (l.st = .running → l.cids.all (fun c => l.shares.contains c && s.shareDone l c) = true → n ≤ (k.tail - k.head).toNat →
        ∃ t x, exec (.completionRecord lid) s = .next t ∧ t.launch l.lid = some x ∧ x.st = .done ∧ x.clusters = [] ∧ x.ended = s.cyc.toNat)))) ∧
  (
    (∀ (s : State) (lid : Nat) (l : Launch), known s lid l →
      (l.missed = false → l.st ≠ .done → l.deadline < s.cyc.toNat → ∃ t, exec (.deadlineMiss lid) s = .next t ∧
        t.launch l.lid = some { l with missed := true } ∧ (t.queue (lidQueue l.lid)).miss = (s.queue (lidQueue l.lid)).miss + 1) ∧
      (l.missed = true → exec (.deadlineMiss lid) s = .next s) ∧
      (s.launchQuiet l = true → s.late l = false →
        (l.st = .saving → (∀ k, k < l.clusters.length → s.lineLocked s.pkgNo (l.save + k * 0x880000) 0x880000 = false) → ∃ t, exec (.contextSave lid) s = .next t ∧ (∀ x, t.launch l.lid = some x → x.st = .saved ∧ x.saved = l.clusters.map s.saveCluster) ∧
          ∀ g ∈ l.ctxs, (t.ctxAt g).busy = false) ∧
        (l.st = .stopping → exec (.contextSave lid) s = .next ((s.dropLaunch l).finish l.lid l.status))) ∧
      ((l.st = .saving ∨ l.st = .stopping) → l.asked + 6000000 < s.cyc.toNat →
        l.clusters.all (fun c => !(s.cluAt c).resetReq && !(s.cluAt c).resetting) = true →
        ∃ t, exec (.saveTimeout lid) s = .next t ∧ ∀ c ∈ l.clusters, s.clusterQuiet l c = false ∨ l.clusters.all (s.clusterQuiet l) = true →
          (t.cluAt c).resetReq = true) ∧
      (∀ c, l.st = .saved → s.plug.step = 6 → l.saved = [c] → s.cluFree c.cl = true → (s.cluAt c.cl).rsid = c.clu.rsid → s.budgetOk l l.clusters.length = true →
        l.clusters.length + s.keptFor l.part l.tier ≤ s.idle l.part → (c.ctxs.map (·.1)).Nodup →
        ∃ t, exec (.launchResume lid) s = .next t ∧ (∀ x, t.launch l.lid = some x → x.st = .running ∧ x.saved = []) ∧
          ∀ e ∈ c.ctxs, t.ctxAt e.1 = { e.2 with floor := max e.2.floor (s.ctxAt e.1).fire })) ∧
    (∀ (s : State) (dcb : Nat) (l : Launch), s.launches.filter (fun l => (s.dcbChain l.dcb).contains dcb) = [l] → s.launch l.lid = some l → l.holds = true →
      let us := (s.cyc.toNat - l.acct) / 1200
      us ≠ 0 → (∀ a ∈ s.dcbChain l.dcb, s.lineLocked s.pkgNo (a + 56) 8 = false) → ∃ t, exec (.ctbExhausted dcb) s = .next t ∧ t.launch l.lid = some { l with acct := l.acct + us * 1200 } ∧
        t.mem = (s.dcbChain l.dcb).foldl (fun m a => Memory.writeL m (a + 56) (leBytes 8 (leVal (Memory.readL m (a + 56) 8) + us * l.clusters.length))) s.mem) ∧
    (∀ (s : State) (part tier : Nat) (l : Launch), s.waiting part tier = true →
      s.tierHeld part tier < s.reservation part tier →
      s.idle part + s.held (fun l => l.part == part && (l.st == .saving || l.st == .stopping)) < s.lacking part →
      s.victim part tier false = some l →
      exec (.preemptionRequest part tier) s = .next (s.updLaunch l.lid (fun l => { l with st := .saving, asked := s.cyc.toNat }))) ∧
    (∀ (s : State) (id : Nat) (m : Msg) (bs : List Byte) (l : Launch), s.msg id = some m → m.body = .faultCopy bs → recNat bs 2 1 ≠ 1 →
      s.launch (BitVec.ofNat 64 (recNat bs 16 8)) = some l → l.st = .running → l.fdom = 0 → l.cause = 0 → l.kind = 0 →
      ∃ t, exec (.faultMessageReceipt id) s = .next t ∧ t.msg id = none ∧ t.mem = s.mem ∧ t.launch l.lid = some { l with
        st := .stopping, status := 1, asked := s.cyc.toNat, cause := recNat bs 3 1, kind := recNat bs 2 1, cid := recNat bs 0 2 }) ∧
    (∀ (s : State) (die used : Nat), let d := s.plug.options.get 4 1 * 1200 / 64
      let r := (s.dieAt die).ramp
      used ≤ 1200 → r ≤ 1200 → ∃ t, exec (.rampWindow die used) s = .next t ∧ t = { s with dies := t.dies } ∧
        (t.dieAt die).ramp ≤ r + d ∧ r ≤ (t.dieAt die).ramp + d ∧ (r ≤ used + d → used ≤ r + d → (t.dieAt die).ramp = used)))

/-! ## Plug, Feather and spares (R16, R355 to R368) -/

open Sys2Proof.Spec in
/-- Boot, partitions and the firewall (R333, R355 to R362): a package reset with accepted images leaves no launch and no firing, releases
the command processor and never lowers the rollback floor; a refused image stops it at its step; an attestation report has 2,676 bytes; a
partition request that Plug accepts, and that writes no line locked for a group (it waits for such a line, R402), makes, resizes or removes
the partition and is answered, a refused one changes nothing else; a refused access is latched with its count. The cause codes of a boot
that stops are the model's (log 27), and so is the removal of a partition that has no launch left (log 37). watchdogs, liveness and spares
(R16, R364 to R368): Feather's watchdog, after FWD ms without a signal, stops only Feather, and its restart ends that; four missing beats
fail a cluster and ask for its reset; a failed core is replaced once, a second failure retires the cluster, which CLRET of HEALTH counts;
the lanes of a die-to-die link have two spares, a fabric port (links 0 to 31, the model's numbering, log 34) has none and its second lost
lane counts in PDIS; cache ways have four spares, and a DRAM page whose bank has used its 64 row spares is marked, counted and reported.
That the replacement of a core leaves its state as it is, is the model's choice (log 46); that HEALTH stays as it is while a spare is left,
and its REPL is set only when one is needed and none is left, is log 34 (the model's choice). -/
def Obligations.TrustAndSpares : Prop :=
  (
    (∀ (s : State) (f : FlashImage), ∃ t, exec (.packageReset f) s = .next t ∧ t.launches = [] ∧ t.ctxs = [] ∧ t.net = [] ∧ s.plug.floor ≤ t.plug.floor ∧
      let floor := max s.plug.floor f.plug.svn
      let stops (n : Nat) : Prop := t.plug.step = n ∧ t.plug.feather = false ∧ ∃ c, Report.boot n c ∈ t.plug.told
      (f.plug.accepted 1 s.plug.floor = false → stops 1) ∧
      (f.plug.accepted 1 s.plug.floor = true → f.feather.accepted 2 floor = false ∨ f.loader.accepted 3 floor = false → stops 3) ∧
      (f.plug.accepted 1 s.plug.floor = true → f.feather.accepted 2 floor = true → f.loader.accepted 3 floor = true →
        (f.trained = false → stops 4) ∧
        (f.trained = true → rootOk f = false → stops 5) ∧
        (f.trained = true → rootOk f = true → f.windows.all windowShape = true →
          t.plug.step = 6 ∧ t.plug.feather = true ∧ t.plug.floor = floor ∧ t.pkgNo = f.pkg ∧ t.plug.root = f.root))) ∧
    (∀ s : State, ∃ t, exec .plugWatchdogExpiry s = .next t ∧ t.launches = [] ∧ t.ctxs = [] ∧ t.plug = { floor := s.plug.floor, told := s.plug.told ++ [.watchdog] }) ∧
    (∀ (s : State) (nonce : List Byte), s.plug.step = 6 → ∃ t r, exec (.attestationRequest nonce) s = .next t ∧
      t = { s with plug := { s.plug with reports := s.plug.reports ++ [r] } } ∧ r.length = 2676 ∧ (nonce.length = 32 → (r.drop 8).take 32 = nonce)) ∧
    (∀ (s : State) (mgmt : Bool) (req : PartReq), s.plug.step = 6 → s.plug.feather = true → s.partLocked req = false →
      (s.partition req = none → exec (.partitionRequest mgmt req) s = .next { s with plug := { s.plug with answers := s.plug.answers ++ [false] } }) ∧
      (∀ t, s.partition req = some t → ∃ u, exec (.partitionRequest mgmt req) s = .next u ∧ u.mem = t.mem ∧ u.windows = t.windows ∧ u.partOf = t.partOf ∧
        u.plug.parts = t.plug.parts ∧ u.plug.answers = t.plug.answers ++ [true]) ∧
      (∀ part, req = .remove part → (s.plug.parts.find part).isSome = true → s.launches.all (fun l => l.part != part) = true →
        ∃ u, exec (.partitionRequest mgmt req) s = .next u ∧ u.plug.parts.find part = none ∧ u.partOf.all (fun e => e.2 != part) = true)) ∧
    (∀ (s : State) (agent n part : Nat) (a : Word) (wr : Bool), s.firewallAdmits agent a.toNat n part wr = false →
      s.plug.latched.any (fun e => e.1 == agent && e.2.1 == a) = false →
      exec (.firewallRefusal agent a n part wr) s = .next { s with plug := { s.plug with latched := s.plug.latched ++ [(agent, a, 1)] } })) ∧
  (
    ∀ s : State,
      (s.plug.feather = true → s.plug.fed + s.plug.options.get 100 5 * 1200000 < s.cyc.toNat →
        exec .featherWatchdogExpiry s = .next { s with plug := { s.plug with feather := false } }) ∧
      (s.cyc.toNat ≤ s.plug.fed + s.plug.options.get 100 5 * 1200000 → exec .featherWatchdogExpiry s = .next s) ∧
      (s.plug.step = 6 → s.plug.feather = false →
        exec .featherRestartComplete s = .next { s with plug := { s.plug with feather := true, fed := s.cyc.toNat } }) ∧
      (s.plug.feather = true → exec .featherRestartComplete s = .next s) ∧
      (∀ cl, (s.cyc.toNat ≤ (s.cluAt cl).beat + 96000 → exec (.livenessBeat cl) s = .next (s.updClu cl (fun u => { u with beat := s.cyc.toNat }))) ∧
        ((s.cluAt cl).beat + 96000 < s.cyc.toNat → exec (.livenessBeat cl) s = .next s)) ∧
      (∀ cl, (s.cluAt cl).failed = false → (s.cluAt cl).retired = false → (s.cluAt cl).beat + 96000 < s.cyc.toNat →
        ∃ t, exec (.clusterFailed cl false) s = .next t ∧ (t.cluAt cl).failed = true ∧ (t.cluAt cl).resetReq = true ∧
          (s.launches = [] → t.mem = s.mem)) ∧
      (∀ cid, (s.cluAt (cid / 16)).spareUsed = false → exec (.coreSpare cid) s = .next (s.updClu (cid / 16) (fun u => { u with spareUsed := true }))) ∧
      (∀ cl, (s.cluAt cl).spareUsed = true → (s.cluAt cl).retired = false → s.plug.parts = [] → s.launches = [] →
        ∃ t, exec (.clusterRetire cl) s = .next t ∧ (t.cluAt cl).retired = true ∧ bitAt t.plug.health 0 = true ∧
          fld t.plug.health 15 8 = (fld s.plug.health 15 8 + 1) % 256 ∧ t.mem = s.mem) ∧
      (∀ link, exec (.linkReplay link false) s = .next s ∧
        (32 ≤ link → s.plug.lanes.get 0 link < 2 → exec (.linkReplay link true) s = .next { s with plug := { s.plug with lanes := s.plug.lanes.put link (s.plug.lanes.get 0 link + 1) } }) ∧
        ((link < 32 ∨ 2 ≤ s.plug.lanes.get 0 link) → ∃ t, exec (.linkReplay link true) s = .next t ∧ bitAt t.plug.health 0 = true) ∧
        (link < 32 → s.plug.lanes.get 0 link = 1 → ∃ t, exec (.linkReplay link true) s = .next t ∧
          fld t.plug.health 23 16 = (fld s.plug.health 23 16 + 1) % 256)) ∧
      (∀ page, 64 ≤ s.plug.rows.get 0 (Config.dramBank page) → page ∉ s.plug.failedPages →
        ∃ t, exec (.dramPageFail page) s = .next t ∧ bitAt t.plug.health 0 = true ∧ page ∈ t.plug.failedPages ∧
          fld t.plug.health 31 24 = min 255 t.plug.failedPages.length ∧ t.plug.told = s.plug.told ++ [.page page] ∧ t.mem = s.mem) ∧
      (∀ page, s.plug.rows.get 0 (Config.dramBank page) < 64 → exec (.dramPageFail page) s = .next s) ∧
      (∀ slice, (s.plug.ways.get 0 slice < 4 → exec (.sliceCacheWayFail slice) s = .next { s with plug := { s.plug with ways := s.plug.ways.put slice (s.plug.ways.get 0 slice + 1) } }) ∧
        (4 ≤ s.plug.ways.get 0 slice → ∃ t, exec (.sliceCacheWayFail slice) s = .next t ∧ bitAt t.plug.health 0 = true)))

/-! ## Decoding, the step, reset and the invariant (R6, R24 to R48, R62, R139 to R141) -/

namespace Sys2Proof.Spec

/-- The op6 values of each page that R45 lists as reserved. -/
def reservedOp (pg op : Nat) : Bool :=
  decide (op < 0x3C) && (match pg with
    | 0 => decide (0x3A ≤ op)
    | 1 => decide (0x28 ≤ op)
    | 2 => decide (0x0F ≤ op)
    | 3 => decide (0x17 ≤ op) || op == 0x0E || op == 0x0F
    | 4 => decide (0x0F ≤ op)
    | 5 => decide (0x0E ≤ op)
    | 6 => decide (0x0C ≤ op)
    | 7 => decide (0x10 ≤ op)
    | _ => false)

/-- The base halfword of an op6 with a payload below. -/
def baseWord (op r : Nat) : Half := BitVec.ofNat 16 (op * 1024 + r)

/-- The PX.PAGE halfword of a page with xop x (R31, R33). -/
def pageWord (pg x : Nat) : Half := BitVec.ofNat 16 (0xF800 + x * 8 + pg)

/-- A prefix, and its rank in the order of R36: PX.PAGE, PX.REG, PX.MOD, PX.IMM. -/
def isPx (h : Half) : Prop := 0xF000 ≤ h.toNat
def rankOf (h : Half) : Nat := match h.toNat / 1024 with | 0x3E => 1 | 0x3D => 2 | 0x3F => 3 | _ => 4

/-- A row of prefixes that R36 allows, with no PX.PAGE of page 0. -/
def legalRow (ps : List Half) : Prop :=
  ps.length ≤ 4 ∧ (∀ h ∈ ps, isPx h ∧ (rankOf h = 1 → h.toNat % 8 ≠ 0)) ∧ ps.Pairwise (fun x y => rankOf x < rankOf y ∨ rankOf y = 4)

/-- The page and the xop that a row of prefixes names (R33). -/
def pageOf (ps : List Half) : Nat := match ps with | h :: _ => if rankOf h = 1 then h.toNat % 8 else 0 | [] => 0
def xopOf (ps : List Half) : Nat := match ps with | h :: _ => if rankOf h = 1 then h.toNat / 8 % 128 else 0 | [] => 0

/-- The page, op6 and variant bits of a chain; a Z sub-operation stands in the base word (R45 to R48). -/
def codeAt (ps : List Half) (w : Half) : Nat × Nat × Nat :=
  let op := w.toNat / 1024
  (pageOf ps, op, if pageOf ps = 0 ∧ op = 0 then w.toNat % 1024 else xopOf ps)

/-- A PX.MOD that the instruction does not use, or that sets a field it does not use (R34, R35). -/
def unusedMod (f : Form) (m : Half) : Prop :=
  let v := m.toNat
  (f.a.reads = false ∧ f.b.reads = false ∧ f.msk = false ∧ f.scp = false ∧ f.near = false ∧ f.of = false) ∨
  (f.msk = false ∧ v / 128 % 8 ≠ 0) ∨ (f.a.reads = false ∧ v / 64 % 2 ≠ 0) ∨ (f.b.reads = false ∧ v / 32 % 2 ≠ 0) ∨
  (f.a.reads = false ∧ f.b.reads = false ∧ v / 16 % 2 ≠ 0) ∨ (f.scp = false ∧ v / 4 % 4 ≠ 0) ∨ (f.near = false ∧ v / 2 % 2 ≠ 0) ∨
  (f.of = false ∧ v % 2 ≠ 0)

/-- A PX.REG halfword with its fields (R32). -/
def regWord (c ah bh l : Nat) : Half := BitVec.ofNat 16 (0xF400 + c * 16 + ah * 8 + bh * 4 + l)

end Sys2Proof.Spec

open Sys2Proof.Spec in
/-- Reserved encodings (R30, R37, R38, R45): a reserved op6 value, on every page and whatever the xop and the fields, raises ILL with TVAL =
the base word and the length of the chain, and so does a Z sub-operation from 7 on; PX.PAGE with PG = 0 raises PFX. The first prefix that is
a fifth one, or out of order or repeated (R36), raises PFX; a page, op6 and xop that no instruction has (R48), or a base field that the
instruction does not use, raises ILL; a PX.REG, PX.MOD or PX.IMM that a good chain does not use, or a PX.MOD field, raises PFX with that
prefix; L = 3, and L = 2 on a varifloat instruction, raise WIN with 0x3F; a misaligned window raises WIN with its register, in the order c,
a, b. -/
def Obligations.ReservedEncodings : Prop :=
  (∀ (op r : Nat) (rest : List Half), reservedOp 0 op = true → r < 1024 →
    decode (baseWord op r :: rest) = .trap .ill (offend (baseWord op r) 1) 1) ∧
  (∀ (pg op r x : Nat) (rest : List Half), 1 ≤ pg → reservedOp pg op = true → r < 1024 → x < 128 →
    decode (pageWord pg x :: baseWord op r :: rest) = .trap .ill (offend (baseWord op r) 2) 2) ∧
  (∀ (r : Nat) (rest : List Half), 7 ≤ r → r < 1024 → decode (baseWord 0 r :: rest) = .trap .ill (offend (baseWord 0 r) 1) 1) ∧
  (∀ (op r x : Nat) (rest : List Half), op < 0x3C → r < 1024 → x < 128 →
    decode (pageWord 0 x :: baseWord op r :: rest) = .trap .pfx (offend (pageWord 0 x) 1) 1) ∧
  (∀ (ps rest : List Half) (h : Half), legalRow ps → isPx h → ¬ legalRow (ps ++ [h]) → (ps.length = 4 ∨ ∃ w ∈ rest, ¬ isPx w) →
    decode (ps ++ h :: rest) = .trap .pfx (offend h (ps.length + 1)) (ps.length + 1)) ∧
  (∀ (ps rest : List Half) (w : Half), legalRow ps → ¬ isPx w →
    let n := ps.length + 1
    let ill : Prop := decode (ps ++ w :: rest) = .trap .ill (offend w n) n
    ((∀ i, codeOf i ≠ some (codeAt ps w)) → ill) ∧
    (∀ i, codeOf i = some (codeAt ps w) →
      ((formOf i).fmt = .a → (formOf i).b = .no → w.toNat % 32 ≠ 0 → ill) ∧
      (((formOf i).fmt = .a ∨ (formOf i).fmt = .i) → (formOf i).a = .no → ((formOf i).d = .no ∨ ∃ h ∈ ps, rankOf h = 2) →
        w.toNat / 32 % 32 ≠ 0 → ill))) ∧
  (∀ (i : Instr) (ps qs rest : List Half) (h w : Half), i.isEvent = false → i.wellFormed = true → encode i = some (ps ++ qs ++ [w]) →
    ps.length + qs.length < 4 → (∀ x ∈ ps, rankOf x < rankOf h) → (∀ x ∈ qs, rankOf h < rankOf x ∨ rankOf x = 4) → isPx h →
    let pfx : Prop := decode (ps ++ h :: qs ++ w :: rest) = .trap .pfx (offend h (ps.length + 1)) (ps.length + 1)
    (rankOf h = 4 → (formOf i).imm = .no → pfx) ∧ (rankOf h = 3 → unusedMod (formOf i) h → pfx) ∧
    (rankOf h = 2 → (formOf i).a = .no → (formOf i).b = .no → (formOf i).c = .no → (formOf i).d = .no → pfx)) ∧
  (∀ (i : Instr) (ps qs rest : List Half) (c ah bh l l' : Nat) (w : Half), i.isEvent = false → i.wellFormed = true →
    encode i = some (ps ++ regWord c ah bh l :: qs ++ [w]) → c < 64 → ah < 2 → bh < 2 → l < 4 →
    ((formOf i).a = .var ∨ (formOf i).b = .var ∨ (formOf i).c = .var ∨ (formOf i).d = .var) →
    (l' = 3 ∨ (l' = 2 ∧ pageOf ps = 3 ∧ w.toNat / 1024 ≤ 0x0D)) →
    decode (ps ++ regWord c ah bh l' :: qs ++ w :: rest) = .trap .win 0x3F (ps.length + qs.length + 2)) ∧
  (∀ (c a b : Nat) (rest : List Half), c < 64 → a < 64 → b < 64 →
    let ws (op : Nat) : List Half := regWord c (a / 32) (b / 32) 0 :: baseWord op (a % 32 * 32 + b % 32) :: rest
    let o : Ops := { d := BitVec.ofNat 6 c, a := BitVec.ofNat 6 a, b := BitVec.ofNat 6 b }
    let win (r n : Nat) : Dec := .trap .win (BitVec.ofNat 64 r) n
    decode (pageWord 1 0 :: ws 0) =
      (if c % 4 ≠ 0 then win c 3 else if a % 4 ≠ 0 then win a 3 else if b % 4 ≠ 0 then win b 3 else .ok (.vadd false false .i32 o) 3) ∧
    decode (ws 0x31) = (if c % 2 ≠ 0 then win c 2 else if a % 2 ≠ 0 then win a 2 else .ok (.cinc o) 2))

/-- Decoding and encoding agree, for every well-formed instruction that an encoding spells: its words decode to it, with every operand,
whatever stands after them, and there are no more than five (R24, R36). -/
def Obligations.EncodeDecode : Prop :=
  ∀ (i : Instr) (rest : List Half), i.isEvent = false → i.wellFormed = true →
    ∃ ws, encode i = some ws ∧ decode (ws ++ rest) = .ok i ws.length ∧ 1 ≤ ws.length ∧ ws.length ≤ 5

/-- Words of the spec decode to the instructions that their listings name (R39, R66, R77, R96 to R99, R109, R123). -/
def Obligations.DecodeWords : Prop :=
  decode [0x0000] = .ok .nop 1 ∧
  decode [0x1523] = .ok (.bz { a := 9, imm := 3 }) 1 ∧
  decode [0xF680, 0x5509] = .ok (.sub { d := 40, a := 8, b := 9 }) 2 ∧
  decode [0x44A3] = .ok (.shri { d := 5, a := 5, imm := 3 }) 1 ∧
  decode [0xA8A9] = .ok (.clz { d := 5, b := 9 }) 1 ∧
  decode [0xF430, 0xB085] = .ok (.sel { d := 3, a := 4, b := 5 }) 2 ∧
  decode [0x3CDF] = .ok (.xori { d := 6, a := 6, imm := BitVec.ofInt 64 (-1) }) 1 ∧
  decode [0xF091, 0x2CB4] = .ok (.li { d := 5, imm := 0x1234 }) 2 ∧
  decode [0xF680, 0x2C1F] = .ok (.li { d := 40, imm := BitVec.ofInt 64 (-1) }) 2 ∧
  decode [0xE407] = .ok (.trap { imm := 7 }) 1 ∧
  decode [0xD8A8] = .ok (.tagof { d := 5, b := 8 }) 1 ∧
  decode [0xF811, 0xF680, 0x0D0C] = .ok (.vfma false false .f32 { d := 40, a := 8, b := 12 }) 3 ∧
  decode [0xF801, 0x8C62] = .ok (.mnot { d := 3, b := 2 }) 2

open Sys2Proof.Spec in
/-- One step runs the decoded instruction (R26, R37, R43): when a context's turn comes and its bytes at the pc decode, the step gives what
exec of that instruction gives, with its length noted; an event that takes place is exec of it; a turn of time passes the clk, one of the
store queue performs a store, and a physical fault or another agent acts. After each, the waits that it has ended are marked as over (R59),
which changes contexts' waits alone. Whose turn it is, is the free schedule's choice (log 1). -/
def Obligations.StepRunsDecoded : Prop :=
  (∀ (s u : State) (g n phys : Nat) (i : Instr), s.nextTurn = (.ctx g, u) →
    let v : State := { u with cur := g }
    v.me.busy = true → v.held_ v.me = false → v.restarts = false → v.me.hb ≠ 0 → (v.me.waits = true → (v.me.wait.map (·.left)) ≠ some 0) → v.me.stepping ≠ .due →
    v.texts = [] → (∀ k, k < n → v.poisonedAt (phys + 2 * k) 2 = none ∧ ∃ leaf,
      translate v (g / 1024) v.me.pid.toNat ((v.me.pc + BitVec.ofNat 56 (2 * k)).setWidth 64) [lEX] = (some (leaf, .home (phys + 2 * k)), v)) →
    decodeBytes (Memory.readL v.mem phys (2 * n)) = .ok i n →
    ∀ t, exec i { v with ilen := n } = .next t → step s = .next t.refresh) ∧
  (∀ (s u t : State) (i : Instr), s.nextTurn = (.event i, u) → i.isEvent = true → exec i u = .next t → step s = .next t.refresh) ∧
  (∀ (s u : State),
    (∀ n, s.nextTurn = (.tick n, u) → step s = .next (u.tick n).refresh) ∧
    (∀ g, s.nextTurn = (.drain g, u) → step s = .next (u.drain g).refresh) ∧
    (∀ x, s.nextTurn = (.fault x, u) → step s = .next (u.physical x).refresh) ∧
    (∀ r, s.nextTurn = (.agent r, u) → step s = .next (u.agentTurn r).refresh)) ∧
  (∀ (s : State) (t : Turn) (rest : List Turn), s.agenda = t :: rest → s.nextTurn = (t, { s with agenda := rest, turns := s.turns + 1 })) ∧
  (∀ s : State, s.refresh = { s with ctxs := s.refresh.ctxs } ∧
    ∀ g, ∃ w, s.refresh.ctxAt g = { s.ctxAt g with wait := w } ∧ w.isSome = (s.ctxAt g).wait.isSome)

/-- The machine right after reset (R6, R62, R73, R102, R140, R146, R162, R170, R186, R233, R249, R374): CYC is 0, no context holds a firing,
and the registers of cores and clusters hold their reset values. That memory reads 0, and what the registers hold that the spec gives no
value, and that the units the spec gives no reset value are empty, are the model's choices (log 4, 5, 42). -/
def Obligations.ResetState : Prop :=
  State.reset.cyc = 0 ∧ State.reset.net = [] ∧ State.reset.launches = [] ∧ State.reset.groups = [] ∧ State.reset.peerTable = [] ∧
  (∀ g, (State.reset.ctxAt g).busy = false ∧ (State.reset.ctxAt g).event = false ∧ (State.reset.ctxAt g).verdict.isOpen = false ∧
    ∀ n, (State.reset.ctxAt g).reg n = {}) ∧
  (∀ cid, (State.reset.coreAt cid).tagsEn = 0 ∧ (State.reset.coreAt cid).spri = 4 ∧ (State.reset.coreAt cid).ild = 0 ∧
    (State.reset.coreAt cid).path = 0xF ∧ (State.reset.coreAt cid).fenced = false ∧ (State.reset.coreAt cid).edge = [] ∧
    (∀ i, i < 16 → (State.reset.coreAt cid).bfmt.toList.getD i 1 = 0 ∧ (State.reset.coreAt cid).locks.toList.getD i (some default) = none) ∧
    (State.reset.coreAt cid).sets.toList = [{ int := false }, { int := false }]) ∧
  (∀ cl, (State.reset.cluAt cl).cfu = 0 ∧ (State.reset.cluAt cl).monLimit = 0 ∧ (State.reset.cluAt cl).tasks = []) ∧
  (∀ a, Memory.read State.reset.mem a = 0)

/-- Memory is in its canonical form after reset, so the invariant that every step keeps holds of the first state. -/
def Obligations.ResetInvariant : Prop := State.reset.Inv ∧ ∀ bs, (State.reset.placeCode bs).Inv

/-- Every step keeps memory in its canonical form: addresses strictly rising, and no entry that reads as an unlisted address does. -/
def Obligations.MemoryInvariant : Prop := ∀ s t : State, s.Inv → step s = .next t → t.Inv

open Sys2Proof.Spec in
/-- Flags (R138 to R141): SetFlags with a non-empty set ORs it into FCS[8:4] and sends it to the cluster union with the core's number; an
empty set does nothing; a write of CFU clears the bits written when the cluster supervisor makes it, but for what arrived in the same clk,
and nothing from another core; a flag set is at CFU once more than 32 clk have passed since it was raised. -/
def Obligations.FlagSets : Prop :=
  (∀ (s : State) (f : Flags), f ≠ 0 →
    let t := s.setFlags f
    t.me.fcs = s.me.fcs ||| (f.setWidth 64 <<< 4) ∧ (t.cluAt s.clu).flagsIn = (s.cluAt s.clu).flagsIn ++ [{ core := s.cid % 16, flags := f, born := s.cyc.toNat }] ∧
    (t.cluAt s.clu).cfu = (s.cluAt s.clu).cfu ∧ t.mem = s.mem ∧ t.me.regs = s.me.regs ∧ (∀ h, h ≠ s.cur → t.ctxAt h = s.ctxAt h) ∧
    (∀ cl, cl ≠ s.clu → t.cluAt cl = s.cluAt cl)) ∧
  (∀ s : State, s.setFlags 0 = s) ∧
  (∀ (s : State) (v : Word), s.isSupervisor s.cid = false → s.writeSreg 0x10 v = s) ∧
  (∀ (s : State) (v : Word), s.isSupervisor s.cid = true → (s.cluAt s.clu).came.1 ≠ s.cyc.toNat →
    ((s.writeSreg 0x10 v).cluAt s.clu).cfu = (s.cluAt s.clu).cfu &&& ~~~(v &&& 0xFFFF01F0) ∧
    (s.writeSreg 0x10 v).sreg 0x10 = (s.cluAt s.clu).cfu &&& ~~~(v &&& 0xFFFF01F0) ∧ (s.writeSreg 0x10 v).me.fcs = s.me.fcs) ∧
  (∀ (s : State) (v w : Word), s.isSupervisor s.cid = true → (s.cluAt s.clu).came = (s.cyc.toNat, w) →
    ((s.writeSreg 0x10 v).cluAt s.clu).cfu = (s.cluAt s.clu).cfu &&& ~~~(v &&& 0xFFFF01F0 &&& ~~~w)) ∧
  (∀ (s : State) (n cl : Nat) (x : FlagSet), s.cyc.toNat + n < 2 ^ 64 → x ∈ (s.cluAt cl).flagsIn → x.born + 32 < s.cyc.toNat + n →
    (((s.tick n).cluAt cl).cfu &&& x.bits) = x.bits)

/-- LDW, LDD, STW and STD (R110) complete through a LOCAL capability that covers the aligned bytes at its cursor plus the immediate: a load
zero-extends the little-endian value as the context sees it (R177), a store queues the low bytes of gA. the frame of STW and STD: the store
joins the store queue of its context (R177) with the n bytes at the address of the access, and none does when the address is refused;
memory, the tag and poison bits, every register and every other context are unchanged. a turn of the store queue (R177) performs the oldest
store of a context: its bytes stand at its offset of the core's scratchpad, every byte outside them reads as before, the tag bits of the
granules they touch are clear (R95), and the younger stores still wait. a load after a store to the same place gives the value stored
(R110): STD then LDD through one capability and offset. -/
def Obligations.LocalAccesses : Prop :=
  (
    ∀ (o : Ops) (s : State) (n : Nat), (n = 4 ∨ n = 8) →
      s.me.holdsCap o.b = true →
      (let a := (s.capAt o.b).cur + o.imm
       (s.me.ready (o.d.toNat :: span o.b 2) = true → s.reaches (s.capAt o.b) a n [pRD] [0] n = true → s.free a n false = true →
         exec (if n = 4 then .ldw o else .ldd o) s = .next (s.put o.d (BitVec.ofNat 64 (leVal (ownRead s a n)))).endNext) ∧
       (s.me.ready (o.a.toNat :: span o.b 2) = true → s.me.storable [o.a.toNat] = true → s.reaches (s.capAt o.b) a n [pWR] [0] n = true →
         s.free a n true = true →
         exec (if n = 4 then .stw o else .std o) s = .next (ownWrite s a (leBytes n (s.lo o.a).toNat)).endNext))) ∧
  (
    ∀ (o : Ops) (s t : State) (n : Nat), (n = 4 ∨ n = 8) → exec (if n = 4 then .stw o else .std o) s = .next t →
      s.me.doubleTrap = false → s.me.phase = .idle →
      (∀ a, localAccess o s n true = .ok a → t.me.storeq = s.me.storeq ∨
        t.me.storeq = s.me.storeq ++ [{ lid := s.me.lid, off := a.toNat % 2 ^ 19, bytes := leBytes n (s.lo o.a).toNat }]) ∧
      (∀ e, localAccess o s n true = .error e → t.me.storeq = s.me.storeq) ∧
      t.mem = s.mem ∧ t.tagged = s.tagged ∧ t.poison = s.poison ∧
      s.me.regsKept t.me [] ∧ s.me.excKept t.me ∧ s.me.masks = t.me.masks ∧ ∀ h, h ≠ s.cur → t.ctxAt h = s.ctxAt h) ∧
  (
    ∀ (s : State) (g : Nat) (e : QStore) (rest : List QStore), s.Inv → (s.ctxAt g).storeq = e :: rest → e.kind = .bytes →
      let t := s.drain g
      (t.ctxAt g).storeq = rest ∧ memKept s t (spad (g / 4) e.off) e.bytes.length ∧
      t.bytesAt (spad (g / 4) e.off) e.bytes.length = e.bytes ∧
      (∀ k, k ∈ t.tagged ↔ k ∈ s.tagged ∧ (spad (g / 4) e.off + e.bytes.length ≤ k * 32 ∨ (k + 1) * 32 ≤ spad (g / 4) e.off))) ∧
  (
    ∀ (o : Ops) (s : State), s.Inv → s.me.ready ([o.d.toNat, o.a.toNat] ++ span o.b 2) = true → s.me.storable [o.a.toNat] = true →
      s.me.holdsCap o.b = true →
      (let a := (s.capAt o.b).cur + o.imm
       s.reaches (s.capAt o.b) a 8 [pRD, pWR] [0] 8 = true → s.free a 8 true = true → s.free a 8 false = true →
       ∃ t, exec (.std o) s = .next t ∧ exec (.ldd o) t = .next (t.put o.d (s.lo o.a)).endNext))

/-- Odd targets (R25): JR, CALLR and ERET to a target whose bit 0 is 1 raise ALIGN with TVAL = the target, and control does not transfer;
the displacement of a branch, jump or call counts halfwords, so from an even address it never reaches an odd one. -/
def Obligations.OddTargets : Prop :=
  (∀ (o : Ops) (s : State), s.me.ready [o.a.toNat] = true → s.me.numbers [o.a.toNat] = true → (s.lo o.a).getLsbD 0 = true →
    exec (.jr o) s = .next (s.takeTrap s.cur .align (((s.lo o.a).setWidth 56).setWidth 64) false s.ilen) ∧
    ((∃ t, push s s.nextPc = .ok t) →
      exec (.callr o) s = .next (s.takeTrap s.cur .align (((s.lo o.a).setWidth 56).setWidth 64) false s.ilen))) ∧
  (∀ s : State, s.me.level = .system → s.me.tpc.getLsbD 0 = true →
    exec .eret s = .next (s.takeTrap s.cur .align s.me.tpc false s.ilen)) ∧
  (∀ (o : Ops) (s t : State), s.me.pc.getLsbD 0 = false → s.me.rstack.length < 8 →
    (exec (.b o) s = .next t ∨ exec (.call o) s = .next t ∨
      (s.me.ready [o.a.toNat] = true ∧ s.me.numbers [o.a.toNat] = true ∧ ∃ i ∈ [Instr.bz, .bnz, .bltz, .bgez], exec (i o) s = .next t) ∨
      ∃ i ∈ [Instr.many, .mall], exec (i o) s = .next t) →
    t.me.pc.getLsbD 0 = false)
end

