-- ==== Sys2Proof/Laws/Checks.lean ====
section
/-! SUPPORT. Checks.lean: when the register, tag, permission and scratchpad checks pass (R85, R88, R94, R110). -/

namespace Sys2Proof.Machine

theorem ready_iff (c : Ctx) (ns : List Nat) :
    c.ready ns = true ↔ ∀ n ∈ ns, (c.reg n).pres = .full ∧ (c.reg n).fault = none := by
  simp [Ctx.ready, List.all_eq_true]

theorem ready_append (c : Ctx) (a b : List Nat) : c.ready (a ++ b) = true ↔ c.ready a = true ∧ c.ready b = true := by
  simp only [ready_iff, List.mem_append]
  exact ⟨fun h => ⟨fun n hn => h n (.inl hn), fun n hn => h n (.inr hn)⟩, fun h n hn => hn.elim (h.1 n) (h.2 n)⟩

theorem ready_sub (c : Ctx) {a b : List Nat} (h : c.ready b = true) (hs : ∀ n ∈ a, n ∈ b) : c.ready a = true := by
  rw [ready_iff] at *
  exact fun n hn => h n (hs n hn)

/-- The checks of R88 pass on registers that are ready. -/
theorem check88_ok (s : State) (l : List Rd) (h : ∀ r ∈ rdRegs l, (s.me.reg r.1).pres = .full ∧ (s.me.reg r.1).fault = none) :
    check88 s l = .ok () := by
  have h1 : (rdRegs l).find? (fun r => (s.me.reg r.1).pres == .leased) = none := by
    rw [List.find?_eq_none]; intro r hr; simp [(h r hr).1]
  have h2 : (rdRegs l).find? (fun r => (s.me.reg r.1).fault.isSome) = none := by
    rw [List.find?_eq_none]; intro r hr; simp [(h r hr).2]
  have h3 : (rdRegs l).find? (fun r => r.2.src && r.2.trap && (s.me.reg r.1).pres == .empty) = none := by
    rw [List.find?_eq_none]; intro r hr; simp [(h r hr).1]
  have h4 : ((rdRegs l).filter (·.2.src) ++ rdRegs l).find? (fun r => (s.me.reg r.1).pres == .empty) = none := by
    rw [List.find?_eq_none]; intro r hr
    have : r ∈ rdRegs l := by
      rcases List.mem_append.1 hr with h | h
      · exact (List.mem_filter.1 h).1
      · exact h
    simp [(h r this).1]
  simp [check88, h1, h2, h3, h4]

/-- The same, with the registers named by `ready`. -/
theorem check88_ready (s : State) (l : List Rd) (h : s.me.ready ((rdRegs l).map (·.1)) = true) : check88 s l = .ok () := by
  rw [ready_iff] at h
  exact check88_ok s l (fun r hr => h r.1 (List.mem_map_of_mem hr))

theorem rdRegs_cons (r : Rd) (l : List Rd) :
    rdRegs (r :: l) = (List.range r.len).map (fun i => (r.n + i, r)) ++ rdRegs l := by simp [rdRegs]

theorem rdRegs_nil : rdRegs [] = [] := rfl

theorem numTag_ok (s : State) (n : Nat) (h : (s.me.reg n).tag = .data) : numTag s n = .ok () := by simp [numTag, h]

theorem numbers_iff (c : Ctx) (ns : List Nat) : c.numbers ns = true ↔ ∀ n ∈ ns, (c.reg n).tag = .data := by
  simp [Ctx.numbers, List.all_eq_true]

theorem numTags_ok (s : State) (ns : List Nat) (h : s.me.numbers ns = true) : numTags s ns = .ok () := by
  rw [numbers_iff] at h
  induction ns with
  | nil => rfl
  | cons n t ih =>
    simp only [numTags, numTag_ok s n (h n (by simp))]
    exact ih (fun m hm => h m (by simp [hm]))

theorem numWin_ok (s : State) (n : RegNo) (len : Nat) (h : s.me.numbers (span n len) = true) : numWin s n len = .ok () :=
  numTags_ok s _ h

theorem dataTags_ok (s : State) (ns : List Nat) (h : s.me.storable ns = true) : dataTags s ns = .ok () := by
  induction ns with
  | nil => rfl
  | cons n t ih =>
    simp only [Ctx.storable, List.all_cons, Bool.and_eq_true, Bool.or_eq_true, beq_iff_eq] at h
    have hd : dataTag s n = .ok () := by rcases h.1 with h | h <;> simp [dataTag, h]
    simp only [dataTags, hd]
    exact ih (by simpa [Ctx.storable] using h.2)

theorem capTag_ok (s : State) (n : RegNo) (h : s.me.holdsCap n = true) : capTag s n = .ok () := by
  simp only [Ctx.holdsCap, Bool.and_eq_true, beq_iff_eq] at h
  simp [capTag, h.1, h.2]

/-- The checks 2 to 5 of R94 and the alignment pass for what `reaches` says. -/
theorem reach_ok (s : State) (c : Cap) (a : Word) (n al : Nat) (need spaces : List Nat) (h : s.reaches c a n need spaces al = true) :
    capPerm s c a need = .ok () ∧ capSpace c a spaces = .ok () ∧ capBound c a n = .ok () ∧ (a.toNat % al == 0) = true := by
  simp only [State.reaches, Bool.and_eq_true] at h
  obtain ⟨⟨⟨⟨⟨⟨h1, h2⟩, h3⟩, h4⟩, h5⟩, h6⟩, h7⟩ := h
  refine ⟨?_, ?_, ?_, h7⟩
  · simp only [capPerm, check, h4, h1, h2]; rfl
  · simp only [capSpace, check, h3]; rfl
  · simp only [capBound, check, h5, h6]; rfl

theorem ownCheck_ok (s : State) (a : Word) (n : Nat) (w : Bool) (h : s.free a n w = true) : ownCheck s a n w = .ok () := by
  simp only [State.free, Bool.and_eq_true] at h
  have h1 : s.gate = false := by simpa using h.1
  have h2 := h.2
  simp only [ownCheck, h1]
  cases hc : homeCheck s.mine s.cid (a.toNat % 2 ^ 19) n w (s.me.level == .system) with
  | ok u => rfl
  | error e => rw [hc] at h2; simp at h2

end Sys2Proof.Machine
end

