-- ==== Sys2Proof/Laws/State.lean ====
section
/-! SUPPORT. State.lean: what each update of the state leaves alone, field by field, and what it reads back as: units of the state, registers
and masks of a context. -/

namespace Sys2Proof

/-! ## Tables -/

theorem Tab.get_put_self {V : Type} (d : V) (t : Tab V) (n : Nat) (v : V) : Tab.get d (t.put n v) n = v := by
  induction t with
  | nil => simp [Tab.put, Tab.get]
  | cons e t ih =>
    obtain ⟨k, u⟩ := e
    simp only [Tab.put]
    split
    · simp [Tab.get]
    · split
      · simp [Tab.get]
      · next h1 h2 => simp [Tab.get, h2, ih]

theorem Tab.get_put_ne {V : Type} (d : V) (t : Tab V) (n m : Nat) (v : V) (h : m ≠ n) : Tab.get d (t.put n v) m = Tab.get d t m := by
  induction t with
  | nil => simp [Tab.put, Tab.get, Ne.symm h]
  | cons e t ih =>
    obtain ⟨k, u⟩ := e
    simp only [Tab.put]
    split
    · simp [Tab.get, Ne.symm h]
    · split
      · next h1 h2 => subst h2; simp [Tab.get, Ne.symm h]
      · simp [Tab.get, ih]

theorem Tab.find_put_self {V : Type} (t : Tab V) (n : Nat) (v : V) : (t.put n v).find n = some v := by
  induction t with
  | nil => simp [Tab.put, Tab.find]
  | cons e t ih =>
    obtain ⟨k, u⟩ := e
    simp only [Tab.put]
    split
    · simp [Tab.find]
    · split
      · simp [Tab.find]
      · next h1 h2 => simp [Tab.find, h2, ih]

theorem Tab.find_put_ne {V : Type} (t : Tab V) (n m : Nat) (v : V) (h : m ≠ n) : (t.put n v).find m = t.find m := by
  induction t with
  | nil => simp [Tab.put, Tab.find, Ne.symm h]
  | cons e t ih =>
    obtain ⟨k, u⟩ := e
    simp only [Tab.put]
    split
    · simp [Tab.find, Ne.symm h]
    · split
      · next h1 h2 => subst h2; simp [Tab.find, Ne.symm h]
      · simp [Tab.find, ih]

theorem Tab.get_drop_self {V : Type} (d : V) (t : Tab V) (n : Nat) : Tab.get d (t.drop n) n = d := by
  induction t with
  | nil => rfl
  | cons e t ih => obtain ⟨k, u⟩ := e; by_cases h : k = n <;> simp [Tab.drop, Tab.get, h, ih]

theorem Tab.get_drop_ne {V : Type} (d : V) (t : Tab V) (n m : Nat) (h : m ≠ n) : Tab.get d (t.drop n) m = Tab.get d t m := by
  induction t with
  | nil => rfl
  | cons e t ih =>
    obtain ⟨k, u⟩ := e
    by_cases hk : k = n
    · subst hk; simp [Tab.drop, Tab.get, Ne.symm h, ih]
    · simp [Tab.drop, Tab.get, hk, ih]

theorem Tab.find_drop_self {V : Type} (t : Tab V) (n : Nat) : (t.drop n).find n = none := by
  induction t with
  | nil => rfl
  | cons e t ih => obtain ⟨k, u⟩ := e; by_cases h : k = n <;> simp [Tab.drop, Tab.find, h, ih]

theorem Tab.find_drop_ne {V : Type} (t : Tab V) (n m : Nat) (h : m ≠ n) : (t.drop n).find m = t.find m := by
  induction t with
  | nil => rfl
  | cons e t ih =>
    obtain ⟨k, u⟩ := e
    by_cases hk : k = n
    · subst hk; simp [Tab.drop, Tab.find, Ne.symm h, ih]
    · simp [Tab.drop, Tab.find, hk, ih]

end Sys2Proof

namespace Sys2Proof.Machine


/-! ### updCtx -/

@[simp] theorem updCtx_cyc (s : State) (g : Nat) (f : Ctx → Ctx) : (s.updCtx g f).cyc = s.cyc := rfl
@[simp] theorem updCtx_pkgNo (s : State) (g : Nat) (f : Ctx → Ctx) : (s.updCtx g f).pkgNo = s.pkgNo := rfl
@[simp] theorem updCtx_mem (s : State) (g : Nat) (f : Ctx → Ctx) : (s.updCtx g f).mem = s.mem := rfl
@[simp] theorem updCtx_tagged (s : State) (g : Nat) (f : Ctx → Ctx) : (s.updCtx g f).tagged = s.tagged := rfl
@[simp] theorem updCtx_poison (s : State) (g : Nat) (f : Ctx → Ctx) : (s.updCtx g f).poison = s.poison := rfl
@[simp] theorem updCtx_tagPoison (s : State) (g : Nat) (f : Ctx → Ctx) : (s.updCtx g f).tagPoison = s.tagPoison := rfl
@[simp] theorem updCtx_net (s : State) (g : Nat) (f : Ctx → Ctx) : (s.updCtx g f).net = s.net := rfl
@[simp] theorem updCtx_cores (s : State) (g : Nat) (f : Ctx → Ctx) : (s.updCtx g f).cores = s.cores := rfl
@[simp] theorem updCtx_clusters (s : State) (g : Nat) (f : Ctx → Ctx) : (s.updCtx g f).clusters = s.clusters := rfl
@[simp] theorem updCtx_dies (s : State) (g : Nat) (f : Ctx → Ctx) : (s.updCtx g f).dies = s.dies := rfl
@[simp] theorem updCtx_strLinks (s : State) (g : Nat) (f : Ctx → Ctx) : (s.updCtx g f).strLinks = s.strLinks := rfl
@[simp] theorem updCtx_texts (s : State) (g : Nat) (f : Ctx → Ctx) : (s.updCtx g f).texts = s.texts := rfl
@[simp] theorem updCtx_heldText (s : State) (g : Nat) (f : Ctx → Ctx) : (s.updCtx g f).heldText = s.heldText := rfl
@[simp] theorem updCtx_levelZero (s : State) (g : Nat) (f : Ctx → Ctx) : (s.updCtx g f).levelZero = s.levelZero := rfl
@[simp] theorem updCtx_partOf (s : State) (g : Nat) (f : Ctx → Ctx) : (s.updCtx g f).partOf = s.partOf := rfl
@[simp] theorem updCtx_windows (s : State) (g : Nat) (f : Ctx → Ctx) : (s.updCtx g f).windows = s.windows := rfl
@[simp] theorem updCtx_peerTable (s : State) (g : Nat) (f : Ctx → Ctx) : (s.updCtx g f).peerTable = s.peerTable := rfl
@[simp] theorem updCtx_groups (s : State) (g : Nat) (f : Ctx → Ctx) : (s.updCtx g f).groups = s.groups := rfl
@[simp] theorem updCtx_ports (s : State) (g : Nat) (f : Ctx → Ctx) : (s.updCtx g f).ports = s.ports := rfl
@[simp] theorem updCtx_colls (s : State) (g : Nat) (f : Ctx → Ctx) : (s.updCtx g f).colls = s.colls := rfl
@[simp] theorem updCtx_rounds (s : State) (g : Nat) (f : Ctx → Ctx) : (s.updCtx g f).rounds = s.rounds := rfl
@[simp] theorem updCtx_lateFab (s : State) (g : Nat) (f : Ctx → Ctx) : (s.updCtx g f).lateFab = s.lateFab := rfl
@[simp] theorem updCtx_resGrant (s : State) (g : Nat) (f : Ctx → Ctx) : (s.updCtx g f).resGrant = s.resGrant := rfl
@[simp] theorem updCtx_homes (s : State) (g : Nat) (f : Ctx → Ctx) : (s.updCtx g f).homes = s.homes := rfl
@[simp] theorem updCtx_queues (s : State) (g : Nat) (f : Ctx → Ctx) : (s.updCtx g f).queues = s.queues := rfl
@[simp] theorem updCtx_launches (s : State) (g : Nat) (f : Ctx → Ctx) : (s.updCtx g f).launches = s.launches := rfl
@[simp] theorem updCtx_arrivals (s : State) (g : Nat) (f : Ctx → Ctx) : (s.updCtx g f).arrivals = s.arrivals := rfl
@[simp] theorem updCtx_decision (s : State) (g : Nat) (f : Ctx → Ctx) : (s.updCtx g f).decision = s.decision := rfl
@[simp] theorem updCtx_msix (s : State) (g : Nat) (f : Ctx → Ctx) : (s.updCtx g f).msix = s.msix := rfl
@[simp] theorem updCtx_replies (s : State) (g : Nat) (f : Ctx → Ctx) : (s.updCtx g f).replies = s.replies := rfl
@[simp] theorem updCtx_pages (s : State) (g : Nat) (f : Ctx → Ctx) : (s.updCtx g f).pages = s.pages := rfl
@[simp] theorem updCtx_peerPages (s : State) (g : Nat) (f : Ctx → Ctx) : (s.updCtx g f).peerPages = s.peerPages := rfl
@[simp] theorem updCtx_blocks (s : State) (g : Nat) (f : Ctx → Ctx) : (s.updCtx g f).blocks = s.blocks := rfl
@[simp] theorem updCtx_owed (s : State) (g : Nat) (f : Ctx → Ctx) : (s.updCtx g f).owed = s.owed := rfl
@[simp] theorem updCtx_plug (s : State) (g : Nat) (f : Ctx → Ctx) : (s.updCtx g f).plug = s.plug := rfl
@[simp] theorem updCtx_cur (s : State) (g : Nat) (f : Ctx → Ctx) : (s.updCtx g f).cur = s.cur := rfl
@[simp] theorem updCtx_ilen (s : State) (g : Nat) (f : Ctx → Ctx) : (s.updCtx g f).ilen = s.ilen := rfl
@[simp] theorem updCtx_turns (s : State) (g : Nat) (f : Ctx → Ctx) : (s.updCtx g f).turns = s.turns := rfl
@[simp] theorem updCtx_agenda (s : State) (g : Nat) (f : Ctx → Ctx) : (s.updCtx g f).agenda = s.agenda := rfl
@[simp] theorem updCtx_nextId (s : State) (g : Nat) (f : Ctx → Ctx) : (s.updCtx g f).nextId = s.nextId := rfl
@[simp] theorem updCtx_draws (s : State) (g : Nat) (f : Ctx → Ctx) : (s.updCtx g f).draws = s.draws := rfl

/-! ### updMe -/

@[simp] theorem updMe_cyc (s : State) (f : Ctx → Ctx) : (s.updMe f).cyc = s.cyc := rfl
@[simp] theorem updMe_pkgNo (s : State) (f : Ctx → Ctx) : (s.updMe f).pkgNo = s.pkgNo := rfl
@[simp] theorem updMe_mem (s : State) (f : Ctx → Ctx) : (s.updMe f).mem = s.mem := rfl
@[simp] theorem updMe_tagged (s : State) (f : Ctx → Ctx) : (s.updMe f).tagged = s.tagged := rfl
@[simp] theorem updMe_poison (s : State) (f : Ctx → Ctx) : (s.updMe f).poison = s.poison := rfl
@[simp] theorem updMe_tagPoison (s : State) (f : Ctx → Ctx) : (s.updMe f).tagPoison = s.tagPoison := rfl
@[simp] theorem updMe_net (s : State) (f : Ctx → Ctx) : (s.updMe f).net = s.net := rfl
@[simp] theorem updMe_cores (s : State) (f : Ctx → Ctx) : (s.updMe f).cores = s.cores := rfl
@[simp] theorem updMe_clusters (s : State) (f : Ctx → Ctx) : (s.updMe f).clusters = s.clusters := rfl
@[simp] theorem updMe_dies (s : State) (f : Ctx → Ctx) : (s.updMe f).dies = s.dies := rfl
@[simp] theorem updMe_strLinks (s : State) (f : Ctx → Ctx) : (s.updMe f).strLinks = s.strLinks := rfl
@[simp] theorem updMe_texts (s : State) (f : Ctx → Ctx) : (s.updMe f).texts = s.texts := rfl
@[simp] theorem updMe_heldText (s : State) (f : Ctx → Ctx) : (s.updMe f).heldText = s.heldText := rfl
@[simp] theorem updMe_levelZero (s : State) (f : Ctx → Ctx) : (s.updMe f).levelZero = s.levelZero := rfl
@[simp] theorem updMe_partOf (s : State) (f : Ctx → Ctx) : (s.updMe f).partOf = s.partOf := rfl
@[simp] theorem updMe_windows (s : State) (f : Ctx → Ctx) : (s.updMe f).windows = s.windows := rfl
@[simp] theorem updMe_peerTable (s : State) (f : Ctx → Ctx) : (s.updMe f).peerTable = s.peerTable := rfl
@[simp] theorem updMe_groups (s : State) (f : Ctx → Ctx) : (s.updMe f).groups = s.groups := rfl
@[simp] theorem updMe_ports (s : State) (f : Ctx → Ctx) : (s.updMe f).ports = s.ports := rfl
@[simp] theorem updMe_colls (s : State) (f : Ctx → Ctx) : (s.updMe f).colls = s.colls := rfl
@[simp] theorem updMe_rounds (s : State) (f : Ctx → Ctx) : (s.updMe f).rounds = s.rounds := rfl
@[simp] theorem updMe_lateFab (s : State) (f : Ctx → Ctx) : (s.updMe f).lateFab = s.lateFab := rfl
@[simp] theorem updMe_resGrant (s : State) (f : Ctx → Ctx) : (s.updMe f).resGrant = s.resGrant := rfl
@[simp] theorem updMe_homes (s : State) (f : Ctx → Ctx) : (s.updMe f).homes = s.homes := rfl
@[simp] theorem updMe_queues (s : State) (f : Ctx → Ctx) : (s.updMe f).queues = s.queues := rfl
@[simp] theorem updMe_launches (s : State) (f : Ctx → Ctx) : (s.updMe f).launches = s.launches := rfl
@[simp] theorem updMe_arrivals (s : State) (f : Ctx → Ctx) : (s.updMe f).arrivals = s.arrivals := rfl
@[simp] theorem updMe_decision (s : State) (f : Ctx → Ctx) : (s.updMe f).decision = s.decision := rfl
@[simp] theorem updMe_msix (s : State) (f : Ctx → Ctx) : (s.updMe f).msix = s.msix := rfl
@[simp] theorem updMe_replies (s : State) (f : Ctx → Ctx) : (s.updMe f).replies = s.replies := rfl
@[simp] theorem updMe_pages (s : State) (f : Ctx → Ctx) : (s.updMe f).pages = s.pages := rfl
@[simp] theorem updMe_peerPages (s : State) (f : Ctx → Ctx) : (s.updMe f).peerPages = s.peerPages := rfl
@[simp] theorem updMe_blocks (s : State) (f : Ctx → Ctx) : (s.updMe f).blocks = s.blocks := rfl
@[simp] theorem updMe_owed (s : State) (f : Ctx → Ctx) : (s.updMe f).owed = s.owed := rfl
@[simp] theorem updMe_plug (s : State) (f : Ctx → Ctx) : (s.updMe f).plug = s.plug := rfl
@[simp] theorem updMe_cur (s : State) (f : Ctx → Ctx) : (s.updMe f).cur = s.cur := rfl
@[simp] theorem updMe_ilen (s : State) (f : Ctx → Ctx) : (s.updMe f).ilen = s.ilen := rfl
@[simp] theorem updMe_turns (s : State) (f : Ctx → Ctx) : (s.updMe f).turns = s.turns := rfl
@[simp] theorem updMe_agenda (s : State) (f : Ctx → Ctx) : (s.updMe f).agenda = s.agenda := rfl
@[simp] theorem updMe_nextId (s : State) (f : Ctx → Ctx) : (s.updMe f).nextId = s.nextId := rfl
@[simp] theorem updMe_draws (s : State) (f : Ctx → Ctx) : (s.updMe f).draws = s.draws := rfl

/-! ### updCore -/

@[simp] theorem updCore_cyc (s : State) (c : Nat) (f : Core → Core) : (s.updCore c f).cyc = s.cyc := rfl
@[simp] theorem updCore_pkgNo (s : State) (c : Nat) (f : Core → Core) : (s.updCore c f).pkgNo = s.pkgNo := rfl
@[simp] theorem updCore_mem (s : State) (c : Nat) (f : Core → Core) : (s.updCore c f).mem = s.mem := rfl
@[simp] theorem updCore_tagged (s : State) (c : Nat) (f : Core → Core) : (s.updCore c f).tagged = s.tagged := rfl
@[simp] theorem updCore_poison (s : State) (c : Nat) (f : Core → Core) : (s.updCore c f).poison = s.poison := rfl
@[simp] theorem updCore_tagPoison (s : State) (c : Nat) (f : Core → Core) : (s.updCore c f).tagPoison = s.tagPoison := rfl
@[simp] theorem updCore_net (s : State) (c : Nat) (f : Core → Core) : (s.updCore c f).net = s.net := rfl
@[simp] theorem updCore_ctxs (s : State) (c : Nat) (f : Core → Core) : (s.updCore c f).ctxs = s.ctxs := rfl
@[simp] theorem updCore_clusters (s : State) (c : Nat) (f : Core → Core) : (s.updCore c f).clusters = s.clusters := rfl
@[simp] theorem updCore_dies (s : State) (c : Nat) (f : Core → Core) : (s.updCore c f).dies = s.dies := rfl
@[simp] theorem updCore_strLinks (s : State) (c : Nat) (f : Core → Core) : (s.updCore c f).strLinks = s.strLinks := rfl
@[simp] theorem updCore_texts (s : State) (c : Nat) (f : Core → Core) : (s.updCore c f).texts = s.texts := rfl
@[simp] theorem updCore_heldText (s : State) (c : Nat) (f : Core → Core) : (s.updCore c f).heldText = s.heldText := rfl
@[simp] theorem updCore_levelZero (s : State) (c : Nat) (f : Core → Core) : (s.updCore c f).levelZero = s.levelZero := rfl
@[simp] theorem updCore_partOf (s : State) (c : Nat) (f : Core → Core) : (s.updCore c f).partOf = s.partOf := rfl
@[simp] theorem updCore_windows (s : State) (c : Nat) (f : Core → Core) : (s.updCore c f).windows = s.windows := rfl
@[simp] theorem updCore_peerTable (s : State) (c : Nat) (f : Core → Core) : (s.updCore c f).peerTable = s.peerTable := rfl
@[simp] theorem updCore_groups (s : State) (c : Nat) (f : Core → Core) : (s.updCore c f).groups = s.groups := rfl
@[simp] theorem updCore_ports (s : State) (c : Nat) (f : Core → Core) : (s.updCore c f).ports = s.ports := rfl
@[simp] theorem updCore_colls (s : State) (c : Nat) (f : Core → Core) : (s.updCore c f).colls = s.colls := rfl
@[simp] theorem updCore_rounds (s : State) (c : Nat) (f : Core → Core) : (s.updCore c f).rounds = s.rounds := rfl
@[simp] theorem updCore_lateFab (s : State) (c : Nat) (f : Core → Core) : (s.updCore c f).lateFab = s.lateFab := rfl
@[simp] theorem updCore_resGrant (s : State) (c : Nat) (f : Core → Core) : (s.updCore c f).resGrant = s.resGrant := rfl
@[simp] theorem updCore_homes (s : State) (c : Nat) (f : Core → Core) : (s.updCore c f).homes = s.homes := rfl
@[simp] theorem updCore_queues (s : State) (c : Nat) (f : Core → Core) : (s.updCore c f).queues = s.queues := rfl
@[simp] theorem updCore_launches (s : State) (c : Nat) (f : Core → Core) : (s.updCore c f).launches = s.launches := rfl
@[simp] theorem updCore_arrivals (s : State) (c : Nat) (f : Core → Core) : (s.updCore c f).arrivals = s.arrivals := rfl
@[simp] theorem updCore_decision (s : State) (c : Nat) (f : Core → Core) : (s.updCore c f).decision = s.decision := rfl
@[simp] theorem updCore_msix (s : State) (c : Nat) (f : Core → Core) : (s.updCore c f).msix = s.msix := rfl
@[simp] theorem updCore_replies (s : State) (c : Nat) (f : Core → Core) : (s.updCore c f).replies = s.replies := rfl
@[simp] theorem updCore_pages (s : State) (c : Nat) (f : Core → Core) : (s.updCore c f).pages = s.pages := rfl
@[simp] theorem updCore_peerPages (s : State) (c : Nat) (f : Core → Core) : (s.updCore c f).peerPages = s.peerPages := rfl
@[simp] theorem updCore_blocks (s : State) (c : Nat) (f : Core → Core) : (s.updCore c f).blocks = s.blocks := rfl
@[simp] theorem updCore_owed (s : State) (c : Nat) (f : Core → Core) : (s.updCore c f).owed = s.owed := rfl
@[simp] theorem updCore_plug (s : State) (c : Nat) (f : Core → Core) : (s.updCore c f).plug = s.plug := rfl
@[simp] theorem updCore_cur (s : State) (c : Nat) (f : Core → Core) : (s.updCore c f).cur = s.cur := rfl
@[simp] theorem updCore_ilen (s : State) (c : Nat) (f : Core → Core) : (s.updCore c f).ilen = s.ilen := rfl
@[simp] theorem updCore_turns (s : State) (c : Nat) (f : Core → Core) : (s.updCore c f).turns = s.turns := rfl
@[simp] theorem updCore_agenda (s : State) (c : Nat) (f : Core → Core) : (s.updCore c f).agenda = s.agenda := rfl
@[simp] theorem updCore_nextId (s : State) (c : Nat) (f : Core → Core) : (s.updCore c f).nextId = s.nextId := rfl
@[simp] theorem updCore_draws (s : State) (c : Nat) (f : Core → Core) : (s.updCore c f).draws = s.draws := rfl

/-! ### updMyCore -/

@[simp] theorem updMyCore_cyc (s : State) (f : Core → Core) : (s.updMyCore f).cyc = s.cyc := rfl
@[simp] theorem updMyCore_pkgNo (s : State) (f : Core → Core) : (s.updMyCore f).pkgNo = s.pkgNo := rfl
@[simp] theorem updMyCore_mem (s : State) (f : Core → Core) : (s.updMyCore f).mem = s.mem := rfl
@[simp] theorem updMyCore_tagged (s : State) (f : Core → Core) : (s.updMyCore f).tagged = s.tagged := rfl
@[simp] theorem updMyCore_poison (s : State) (f : Core → Core) : (s.updMyCore f).poison = s.poison := rfl
@[simp] theorem updMyCore_tagPoison (s : State) (f : Core → Core) : (s.updMyCore f).tagPoison = s.tagPoison := rfl
@[simp] theorem updMyCore_net (s : State) (f : Core → Core) : (s.updMyCore f).net = s.net := rfl
@[simp] theorem updMyCore_ctxs (s : State) (f : Core → Core) : (s.updMyCore f).ctxs = s.ctxs := rfl
@[simp] theorem updMyCore_clusters (s : State) (f : Core → Core) : (s.updMyCore f).clusters = s.clusters := rfl
@[simp] theorem updMyCore_dies (s : State) (f : Core → Core) : (s.updMyCore f).dies = s.dies := rfl
@[simp] theorem updMyCore_strLinks (s : State) (f : Core → Core) : (s.updMyCore f).strLinks = s.strLinks := rfl
@[simp] theorem updMyCore_texts (s : State) (f : Core → Core) : (s.updMyCore f).texts = s.texts := rfl
@[simp] theorem updMyCore_heldText (s : State) (f : Core → Core) : (s.updMyCore f).heldText = s.heldText := rfl
@[simp] theorem updMyCore_levelZero (s : State) (f : Core → Core) : (s.updMyCore f).levelZero = s.levelZero := rfl
@[simp] theorem updMyCore_partOf (s : State) (f : Core → Core) : (s.updMyCore f).partOf = s.partOf := rfl
@[simp] theorem updMyCore_windows (s : State) (f : Core → Core) : (s.updMyCore f).windows = s.windows := rfl
@[simp] theorem updMyCore_peerTable (s : State) (f : Core → Core) : (s.updMyCore f).peerTable = s.peerTable := rfl
@[simp] theorem updMyCore_groups (s : State) (f : Core → Core) : (s.updMyCore f).groups = s.groups := rfl
@[simp] theorem updMyCore_ports (s : State) (f : Core → Core) : (s.updMyCore f).ports = s.ports := rfl
@[simp] theorem updMyCore_colls (s : State) (f : Core → Core) : (s.updMyCore f).colls = s.colls := rfl
@[simp] theorem updMyCore_rounds (s : State) (f : Core → Core) : (s.updMyCore f).rounds = s.rounds := rfl
@[simp] theorem updMyCore_lateFab (s : State) (f : Core → Core) : (s.updMyCore f).lateFab = s.lateFab := rfl
@[simp] theorem updMyCore_resGrant (s : State) (f : Core → Core) : (s.updMyCore f).resGrant = s.resGrant := rfl
@[simp] theorem updMyCore_homes (s : State) (f : Core → Core) : (s.updMyCore f).homes = s.homes := rfl
@[simp] theorem updMyCore_queues (s : State) (f : Core → Core) : (s.updMyCore f).queues = s.queues := rfl
@[simp] theorem updMyCore_launches (s : State) (f : Core → Core) : (s.updMyCore f).launches = s.launches := rfl
@[simp] theorem updMyCore_arrivals (s : State) (f : Core → Core) : (s.updMyCore f).arrivals = s.arrivals := rfl
@[simp] theorem updMyCore_decision (s : State) (f : Core → Core) : (s.updMyCore f).decision = s.decision := rfl
@[simp] theorem updMyCore_msix (s : State) (f : Core → Core) : (s.updMyCore f).msix = s.msix := rfl
@[simp] theorem updMyCore_replies (s : State) (f : Core → Core) : (s.updMyCore f).replies = s.replies := rfl
@[simp] theorem updMyCore_pages (s : State) (f : Core → Core) : (s.updMyCore f).pages = s.pages := rfl
@[simp] theorem updMyCore_peerPages (s : State) (f : Core → Core) : (s.updMyCore f).peerPages = s.peerPages := rfl
@[simp] theorem updMyCore_blocks (s : State) (f : Core → Core) : (s.updMyCore f).blocks = s.blocks := rfl
@[simp] theorem updMyCore_owed (s : State) (f : Core → Core) : (s.updMyCore f).owed = s.owed := rfl
@[simp] theorem updMyCore_plug (s : State) (f : Core → Core) : (s.updMyCore f).plug = s.plug := rfl
@[simp] theorem updMyCore_cur (s : State) (f : Core → Core) : (s.updMyCore f).cur = s.cur := rfl
@[simp] theorem updMyCore_ilen (s : State) (f : Core → Core) : (s.updMyCore f).ilen = s.ilen := rfl
@[simp] theorem updMyCore_turns (s : State) (f : Core → Core) : (s.updMyCore f).turns = s.turns := rfl
@[simp] theorem updMyCore_agenda (s : State) (f : Core → Core) : (s.updMyCore f).agenda = s.agenda := rfl
@[simp] theorem updMyCore_nextId (s : State) (f : Core → Core) : (s.updMyCore f).nextId = s.nextId := rfl
@[simp] theorem updMyCore_draws (s : State) (f : Core → Core) : (s.updMyCore f).draws = s.draws := rfl

/-! ### updClu -/

@[simp] theorem updClu_cyc (s : State) (c : Nat) (f : Cluster → Cluster) : (s.updClu c f).cyc = s.cyc := rfl
@[simp] theorem updClu_pkgNo (s : State) (c : Nat) (f : Cluster → Cluster) : (s.updClu c f).pkgNo = s.pkgNo := rfl
@[simp] theorem updClu_mem (s : State) (c : Nat) (f : Cluster → Cluster) : (s.updClu c f).mem = s.mem := rfl
@[simp] theorem updClu_tagged (s : State) (c : Nat) (f : Cluster → Cluster) : (s.updClu c f).tagged = s.tagged := rfl
@[simp] theorem updClu_poison (s : State) (c : Nat) (f : Cluster → Cluster) : (s.updClu c f).poison = s.poison := rfl
@[simp] theorem updClu_tagPoison (s : State) (c : Nat) (f : Cluster → Cluster) : (s.updClu c f).tagPoison = s.tagPoison := rfl
@[simp] theorem updClu_net (s : State) (c : Nat) (f : Cluster → Cluster) : (s.updClu c f).net = s.net := rfl
@[simp] theorem updClu_ctxs (s : State) (c : Nat) (f : Cluster → Cluster) : (s.updClu c f).ctxs = s.ctxs := rfl
@[simp] theorem updClu_cores (s : State) (c : Nat) (f : Cluster → Cluster) : (s.updClu c f).cores = s.cores := rfl
@[simp] theorem updClu_dies (s : State) (c : Nat) (f : Cluster → Cluster) : (s.updClu c f).dies = s.dies := rfl
@[simp] theorem updClu_strLinks (s : State) (c : Nat) (f : Cluster → Cluster) : (s.updClu c f).strLinks = s.strLinks := rfl
@[simp] theorem updClu_texts (s : State) (c : Nat) (f : Cluster → Cluster) : (s.updClu c f).texts = s.texts := rfl
@[simp] theorem updClu_heldText (s : State) (c : Nat) (f : Cluster → Cluster) : (s.updClu c f).heldText = s.heldText := rfl
@[simp] theorem updClu_levelZero (s : State) (c : Nat) (f : Cluster → Cluster) : (s.updClu c f).levelZero = s.levelZero := rfl
@[simp] theorem updClu_partOf (s : State) (c : Nat) (f : Cluster → Cluster) : (s.updClu c f).partOf = s.partOf := rfl
@[simp] theorem updClu_windows (s : State) (c : Nat) (f : Cluster → Cluster) : (s.updClu c f).windows = s.windows := rfl
@[simp] theorem updClu_peerTable (s : State) (c : Nat) (f : Cluster → Cluster) : (s.updClu c f).peerTable = s.peerTable := rfl
@[simp] theorem updClu_groups (s : State) (c : Nat) (f : Cluster → Cluster) : (s.updClu c f).groups = s.groups := rfl
@[simp] theorem updClu_ports (s : State) (c : Nat) (f : Cluster → Cluster) : (s.updClu c f).ports = s.ports := rfl
@[simp] theorem updClu_colls (s : State) (c : Nat) (f : Cluster → Cluster) : (s.updClu c f).colls = s.colls := rfl
@[simp] theorem updClu_rounds (s : State) (c : Nat) (f : Cluster → Cluster) : (s.updClu c f).rounds = s.rounds := rfl
@[simp] theorem updClu_lateFab (s : State) (c : Nat) (f : Cluster → Cluster) : (s.updClu c f).lateFab = s.lateFab := rfl
@[simp] theorem updClu_resGrant (s : State) (c : Nat) (f : Cluster → Cluster) : (s.updClu c f).resGrant = s.resGrant := rfl
@[simp] theorem updClu_homes (s : State) (c : Nat) (f : Cluster → Cluster) : (s.updClu c f).homes = s.homes := rfl
@[simp] theorem updClu_queues (s : State) (c : Nat) (f : Cluster → Cluster) : (s.updClu c f).queues = s.queues := rfl
@[simp] theorem updClu_launches (s : State) (c : Nat) (f : Cluster → Cluster) : (s.updClu c f).launches = s.launches := rfl
@[simp] theorem updClu_arrivals (s : State) (c : Nat) (f : Cluster → Cluster) : (s.updClu c f).arrivals = s.arrivals := rfl
@[simp] theorem updClu_decision (s : State) (c : Nat) (f : Cluster → Cluster) : (s.updClu c f).decision = s.decision := rfl
@[simp] theorem updClu_msix (s : State) (c : Nat) (f : Cluster → Cluster) : (s.updClu c f).msix = s.msix := rfl
@[simp] theorem updClu_replies (s : State) (c : Nat) (f : Cluster → Cluster) : (s.updClu c f).replies = s.replies := rfl
@[simp] theorem updClu_pages (s : State) (c : Nat) (f : Cluster → Cluster) : (s.updClu c f).pages = s.pages := rfl
@[simp] theorem updClu_peerPages (s : State) (c : Nat) (f : Cluster → Cluster) : (s.updClu c f).peerPages = s.peerPages := rfl
@[simp] theorem updClu_blocks (s : State) (c : Nat) (f : Cluster → Cluster) : (s.updClu c f).blocks = s.blocks := rfl
@[simp] theorem updClu_owed (s : State) (c : Nat) (f : Cluster → Cluster) : (s.updClu c f).owed = s.owed := rfl
@[simp] theorem updClu_plug (s : State) (c : Nat) (f : Cluster → Cluster) : (s.updClu c f).plug = s.plug := rfl
@[simp] theorem updClu_cur (s : State) (c : Nat) (f : Cluster → Cluster) : (s.updClu c f).cur = s.cur := rfl
@[simp] theorem updClu_ilen (s : State) (c : Nat) (f : Cluster → Cluster) : (s.updClu c f).ilen = s.ilen := rfl
@[simp] theorem updClu_turns (s : State) (c : Nat) (f : Cluster → Cluster) : (s.updClu c f).turns = s.turns := rfl
@[simp] theorem updClu_agenda (s : State) (c : Nat) (f : Cluster → Cluster) : (s.updClu c f).agenda = s.agenda := rfl
@[simp] theorem updClu_nextId (s : State) (c : Nat) (f : Cluster → Cluster) : (s.updClu c f).nextId = s.nextId := rfl
@[simp] theorem updClu_draws (s : State) (c : Nat) (f : Cluster → Cluster) : (s.updClu c f).draws = s.draws := rfl

/-! ### updDie -/

@[simp] theorem updDie_cyc (s : State) (d : Nat) (f : Die → Die) : (s.updDie d f).cyc = s.cyc := rfl
@[simp] theorem updDie_pkgNo (s : State) (d : Nat) (f : Die → Die) : (s.updDie d f).pkgNo = s.pkgNo := rfl
@[simp] theorem updDie_mem (s : State) (d : Nat) (f : Die → Die) : (s.updDie d f).mem = s.mem := rfl
@[simp] theorem updDie_tagged (s : State) (d : Nat) (f : Die → Die) : (s.updDie d f).tagged = s.tagged := rfl
@[simp] theorem updDie_poison (s : State) (d : Nat) (f : Die → Die) : (s.updDie d f).poison = s.poison := rfl
@[simp] theorem updDie_tagPoison (s : State) (d : Nat) (f : Die → Die) : (s.updDie d f).tagPoison = s.tagPoison := rfl
@[simp] theorem updDie_net (s : State) (d : Nat) (f : Die → Die) : (s.updDie d f).net = s.net := rfl
@[simp] theorem updDie_ctxs (s : State) (d : Nat) (f : Die → Die) : (s.updDie d f).ctxs = s.ctxs := rfl
@[simp] theorem updDie_cores (s : State) (d : Nat) (f : Die → Die) : (s.updDie d f).cores = s.cores := rfl
@[simp] theorem updDie_clusters (s : State) (d : Nat) (f : Die → Die) : (s.updDie d f).clusters = s.clusters := rfl
@[simp] theorem updDie_strLinks (s : State) (d : Nat) (f : Die → Die) : (s.updDie d f).strLinks = s.strLinks := rfl
@[simp] theorem updDie_texts (s : State) (d : Nat) (f : Die → Die) : (s.updDie d f).texts = s.texts := rfl
@[simp] theorem updDie_heldText (s : State) (d : Nat) (f : Die → Die) : (s.updDie d f).heldText = s.heldText := rfl
@[simp] theorem updDie_levelZero (s : State) (d : Nat) (f : Die → Die) : (s.updDie d f).levelZero = s.levelZero := rfl
@[simp] theorem updDie_partOf (s : State) (d : Nat) (f : Die → Die) : (s.updDie d f).partOf = s.partOf := rfl
@[simp] theorem updDie_windows (s : State) (d : Nat) (f : Die → Die) : (s.updDie d f).windows = s.windows := rfl
@[simp] theorem updDie_peerTable (s : State) (d : Nat) (f : Die → Die) : (s.updDie d f).peerTable = s.peerTable := rfl
@[simp] theorem updDie_groups (s : State) (d : Nat) (f : Die → Die) : (s.updDie d f).groups = s.groups := rfl
@[simp] theorem updDie_ports (s : State) (d : Nat) (f : Die → Die) : (s.updDie d f).ports = s.ports := rfl
@[simp] theorem updDie_colls (s : State) (d : Nat) (f : Die → Die) : (s.updDie d f).colls = s.colls := rfl
@[simp] theorem updDie_rounds (s : State) (d : Nat) (f : Die → Die) : (s.updDie d f).rounds = s.rounds := rfl
@[simp] theorem updDie_lateFab (s : State) (d : Nat) (f : Die → Die) : (s.updDie d f).lateFab = s.lateFab := rfl
@[simp] theorem updDie_resGrant (s : State) (d : Nat) (f : Die → Die) : (s.updDie d f).resGrant = s.resGrant := rfl
@[simp] theorem updDie_homes (s : State) (d : Nat) (f : Die → Die) : (s.updDie d f).homes = s.homes := rfl
@[simp] theorem updDie_queues (s : State) (d : Nat) (f : Die → Die) : (s.updDie d f).queues = s.queues := rfl
@[simp] theorem updDie_launches (s : State) (d : Nat) (f : Die → Die) : (s.updDie d f).launches = s.launches := rfl
@[simp] theorem updDie_arrivals (s : State) (d : Nat) (f : Die → Die) : (s.updDie d f).arrivals = s.arrivals := rfl
@[simp] theorem updDie_decision (s : State) (d : Nat) (f : Die → Die) : (s.updDie d f).decision = s.decision := rfl
@[simp] theorem updDie_msix (s : State) (d : Nat) (f : Die → Die) : (s.updDie d f).msix = s.msix := rfl
@[simp] theorem updDie_replies (s : State) (d : Nat) (f : Die → Die) : (s.updDie d f).replies = s.replies := rfl
@[simp] theorem updDie_pages (s : State) (d : Nat) (f : Die → Die) : (s.updDie d f).pages = s.pages := rfl
@[simp] theorem updDie_peerPages (s : State) (d : Nat) (f : Die → Die) : (s.updDie d f).peerPages = s.peerPages := rfl
@[simp] theorem updDie_blocks (s : State) (d : Nat) (f : Die → Die) : (s.updDie d f).blocks = s.blocks := rfl
@[simp] theorem updDie_owed (s : State) (d : Nat) (f : Die → Die) : (s.updDie d f).owed = s.owed := rfl
@[simp] theorem updDie_plug (s : State) (d : Nat) (f : Die → Die) : (s.updDie d f).plug = s.plug := rfl
@[simp] theorem updDie_cur (s : State) (d : Nat) (f : Die → Die) : (s.updDie d f).cur = s.cur := rfl
@[simp] theorem updDie_ilen (s : State) (d : Nat) (f : Die → Die) : (s.updDie d f).ilen = s.ilen := rfl
@[simp] theorem updDie_turns (s : State) (d : Nat) (f : Die → Die) : (s.updDie d f).turns = s.turns := rfl
@[simp] theorem updDie_agenda (s : State) (d : Nat) (f : Die → Die) : (s.updDie d f).agenda = s.agenda := rfl
@[simp] theorem updDie_nextId (s : State) (d : Nat) (f : Die → Die) : (s.updDie d f).nextId = s.nextId := rfl
@[simp] theorem updDie_draws (s : State) (d : Nat) (f : Die → Die) : (s.updDie d f).draws = s.draws := rfl

/-! ### gone -/

@[simp] theorem gone_cyc (s : State) (id : Nat) : (s.gone id).cyc = s.cyc := rfl
@[simp] theorem gone_pkgNo (s : State) (id : Nat) : (s.gone id).pkgNo = s.pkgNo := rfl
@[simp] theorem gone_mem (s : State) (id : Nat) : (s.gone id).mem = s.mem := rfl
@[simp] theorem gone_tagged (s : State) (id : Nat) : (s.gone id).tagged = s.tagged := rfl
@[simp] theorem gone_poison (s : State) (id : Nat) : (s.gone id).poison = s.poison := rfl
@[simp] theorem gone_tagPoison (s : State) (id : Nat) : (s.gone id).tagPoison = s.tagPoison := rfl
@[simp] theorem gone_ctxs (s : State) (id : Nat) : (s.gone id).ctxs = s.ctxs := rfl
@[simp] theorem gone_cores (s : State) (id : Nat) : (s.gone id).cores = s.cores := rfl
@[simp] theorem gone_clusters (s : State) (id : Nat) : (s.gone id).clusters = s.clusters := rfl
@[simp] theorem gone_dies (s : State) (id : Nat) : (s.gone id).dies = s.dies := rfl
@[simp] theorem gone_strLinks (s : State) (id : Nat) : (s.gone id).strLinks = s.strLinks := rfl
@[simp] theorem gone_texts (s : State) (id : Nat) : (s.gone id).texts = s.texts := rfl
@[simp] theorem gone_heldText (s : State) (id : Nat) : (s.gone id).heldText = s.heldText := rfl
@[simp] theorem gone_levelZero (s : State) (id : Nat) : (s.gone id).levelZero = s.levelZero := rfl
@[simp] theorem gone_partOf (s : State) (id : Nat) : (s.gone id).partOf = s.partOf := rfl
@[simp] theorem gone_windows (s : State) (id : Nat) : (s.gone id).windows = s.windows := rfl
@[simp] theorem gone_peerTable (s : State) (id : Nat) : (s.gone id).peerTable = s.peerTable := rfl
@[simp] theorem gone_groups (s : State) (id : Nat) : (s.gone id).groups = s.groups := rfl
@[simp] theorem gone_ports (s : State) (id : Nat) : (s.gone id).ports = s.ports := rfl
@[simp] theorem gone_colls (s : State) (id : Nat) : (s.gone id).colls = s.colls := rfl
@[simp] theorem gone_rounds (s : State) (id : Nat) : (s.gone id).rounds = s.rounds := rfl
@[simp] theorem gone_lateFab (s : State) (id : Nat) : (s.gone id).lateFab = s.lateFab := rfl
@[simp] theorem gone_resGrant (s : State) (id : Nat) : (s.gone id).resGrant = s.resGrant := rfl
@[simp] theorem gone_homes (s : State) (id : Nat) : (s.gone id).homes = s.homes := rfl
@[simp] theorem gone_queues (s : State) (id : Nat) : (s.gone id).queues = s.queues := rfl
@[simp] theorem gone_launches (s : State) (id : Nat) : (s.gone id).launches = s.launches := rfl
@[simp] theorem gone_arrivals (s : State) (id : Nat) : (s.gone id).arrivals = s.arrivals := rfl
@[simp] theorem gone_decision (s : State) (id : Nat) : (s.gone id).decision = s.decision := rfl
@[simp] theorem gone_msix (s : State) (id : Nat) : (s.gone id).msix = s.msix := rfl
@[simp] theorem gone_replies (s : State) (id : Nat) : (s.gone id).replies = s.replies := rfl
@[simp] theorem gone_pages (s : State) (id : Nat) : (s.gone id).pages = s.pages := rfl
@[simp] theorem gone_peerPages (s : State) (id : Nat) : (s.gone id).peerPages = s.peerPages := rfl
@[simp] theorem gone_blocks (s : State) (id : Nat) : (s.gone id).blocks = s.blocks := rfl
@[simp] theorem gone_owed (s : State) (id : Nat) : (s.gone id).owed = s.owed := rfl
@[simp] theorem gone_plug (s : State) (id : Nat) : (s.gone id).plug = s.plug := rfl
@[simp] theorem gone_cur (s : State) (id : Nat) : (s.gone id).cur = s.cur := rfl
@[simp] theorem gone_ilen (s : State) (id : Nat) : (s.gone id).ilen = s.ilen := rfl
@[simp] theorem gone_turns (s : State) (id : Nat) : (s.gone id).turns = s.turns := rfl
@[simp] theorem gone_agenda (s : State) (id : Nat) : (s.gone id).agenda = s.agenda := rfl
@[simp] theorem gone_nextId (s : State) (id : Nat) : (s.gone id).nextId = s.nextId := rfl
@[simp] theorem gone_draws (s : State) (id : Nat) : (s.gone id).draws = s.draws := rfl

/-! ### updMsg -/

@[simp] theorem updMsg_cyc (s : State) (id : Nat) (f : Msg → Msg) : (s.updMsg id f).cyc = s.cyc := rfl
@[simp] theorem updMsg_pkgNo (s : State) (id : Nat) (f : Msg → Msg) : (s.updMsg id f).pkgNo = s.pkgNo := rfl
@[simp] theorem updMsg_mem (s : State) (id : Nat) (f : Msg → Msg) : (s.updMsg id f).mem = s.mem := rfl
@[simp] theorem updMsg_tagged (s : State) (id : Nat) (f : Msg → Msg) : (s.updMsg id f).tagged = s.tagged := rfl
@[simp] theorem updMsg_poison (s : State) (id : Nat) (f : Msg → Msg) : (s.updMsg id f).poison = s.poison := rfl
@[simp] theorem updMsg_tagPoison (s : State) (id : Nat) (f : Msg → Msg) : (s.updMsg id f).tagPoison = s.tagPoison := rfl
@[simp] theorem updMsg_ctxs (s : State) (id : Nat) (f : Msg → Msg) : (s.updMsg id f).ctxs = s.ctxs := rfl
@[simp] theorem updMsg_cores (s : State) (id : Nat) (f : Msg → Msg) : (s.updMsg id f).cores = s.cores := rfl
@[simp] theorem updMsg_clusters (s : State) (id : Nat) (f : Msg → Msg) : (s.updMsg id f).clusters = s.clusters := rfl
@[simp] theorem updMsg_dies (s : State) (id : Nat) (f : Msg → Msg) : (s.updMsg id f).dies = s.dies := rfl
@[simp] theorem updMsg_strLinks (s : State) (id : Nat) (f : Msg → Msg) : (s.updMsg id f).strLinks = s.strLinks := rfl
@[simp] theorem updMsg_texts (s : State) (id : Nat) (f : Msg → Msg) : (s.updMsg id f).texts = s.texts := rfl
@[simp] theorem updMsg_heldText (s : State) (id : Nat) (f : Msg → Msg) : (s.updMsg id f).heldText = s.heldText := rfl
@[simp] theorem updMsg_levelZero (s : State) (id : Nat) (f : Msg → Msg) : (s.updMsg id f).levelZero = s.levelZero := rfl
@[simp] theorem updMsg_partOf (s : State) (id : Nat) (f : Msg → Msg) : (s.updMsg id f).partOf = s.partOf := rfl
@[simp] theorem updMsg_windows (s : State) (id : Nat) (f : Msg → Msg) : (s.updMsg id f).windows = s.windows := rfl
@[simp] theorem updMsg_peerTable (s : State) (id : Nat) (f : Msg → Msg) : (s.updMsg id f).peerTable = s.peerTable := rfl
@[simp] theorem updMsg_groups (s : State) (id : Nat) (f : Msg → Msg) : (s.updMsg id f).groups = s.groups := rfl
@[simp] theorem updMsg_ports (s : State) (id : Nat) (f : Msg → Msg) : (s.updMsg id f).ports = s.ports := rfl
@[simp] theorem updMsg_colls (s : State) (id : Nat) (f : Msg → Msg) : (s.updMsg id f).colls = s.colls := rfl
@[simp] theorem updMsg_rounds (s : State) (id : Nat) (f : Msg → Msg) : (s.updMsg id f).rounds = s.rounds := rfl
@[simp] theorem updMsg_lateFab (s : State) (id : Nat) (f : Msg → Msg) : (s.updMsg id f).lateFab = s.lateFab := rfl
@[simp] theorem updMsg_resGrant (s : State) (id : Nat) (f : Msg → Msg) : (s.updMsg id f).resGrant = s.resGrant := rfl
@[simp] theorem updMsg_homes (s : State) (id : Nat) (f : Msg → Msg) : (s.updMsg id f).homes = s.homes := rfl
@[simp] theorem updMsg_queues (s : State) (id : Nat) (f : Msg → Msg) : (s.updMsg id f).queues = s.queues := rfl
@[simp] theorem updMsg_launches (s : State) (id : Nat) (f : Msg → Msg) : (s.updMsg id f).launches = s.launches := rfl
@[simp] theorem updMsg_arrivals (s : State) (id : Nat) (f : Msg → Msg) : (s.updMsg id f).arrivals = s.arrivals := rfl
@[simp] theorem updMsg_decision (s : State) (id : Nat) (f : Msg → Msg) : (s.updMsg id f).decision = s.decision := rfl
@[simp] theorem updMsg_msix (s : State) (id : Nat) (f : Msg → Msg) : (s.updMsg id f).msix = s.msix := rfl
@[simp] theorem updMsg_replies (s : State) (id : Nat) (f : Msg → Msg) : (s.updMsg id f).replies = s.replies := rfl
@[simp] theorem updMsg_pages (s : State) (id : Nat) (f : Msg → Msg) : (s.updMsg id f).pages = s.pages := rfl
@[simp] theorem updMsg_peerPages (s : State) (id : Nat) (f : Msg → Msg) : (s.updMsg id f).peerPages = s.peerPages := rfl
@[simp] theorem updMsg_blocks (s : State) (id : Nat) (f : Msg → Msg) : (s.updMsg id f).blocks = s.blocks := rfl
@[simp] theorem updMsg_owed (s : State) (id : Nat) (f : Msg → Msg) : (s.updMsg id f).owed = s.owed := rfl
@[simp] theorem updMsg_plug (s : State) (id : Nat) (f : Msg → Msg) : (s.updMsg id f).plug = s.plug := rfl
@[simp] theorem updMsg_cur (s : State) (id : Nat) (f : Msg → Msg) : (s.updMsg id f).cur = s.cur := rfl
@[simp] theorem updMsg_ilen (s : State) (id : Nat) (f : Msg → Msg) : (s.updMsg id f).ilen = s.ilen := rfl
@[simp] theorem updMsg_turns (s : State) (id : Nat) (f : Msg → Msg) : (s.updMsg id f).turns = s.turns := rfl
@[simp] theorem updMsg_agenda (s : State) (id : Nat) (f : Msg → Msg) : (s.updMsg id f).agenda = s.agenda := rfl
@[simp] theorem updMsg_nextId (s : State) (id : Nat) (f : Msg → Msg) : (s.updMsg id f).nextId = s.nextId := rfl
@[simp] theorem updMsg_draws (s : State) (id : Nat) (f : Msg → Msg) : (s.updMsg id f).draws = s.draws := rfl

/-! ### setPoison -/

@[simp] theorem setPoison_cyc (s : State) (loc : Nat) : (s.setPoison loc).cyc = s.cyc := rfl
@[simp] theorem setPoison_pkgNo (s : State) (loc : Nat) : (s.setPoison loc).pkgNo = s.pkgNo := rfl
@[simp] theorem setPoison_mem (s : State) (loc : Nat) : (s.setPoison loc).mem = s.mem := rfl
@[simp] theorem setPoison_tagged (s : State) (loc : Nat) : (s.setPoison loc).tagged = s.tagged := rfl
@[simp] theorem setPoison_tagPoison (s : State) (loc : Nat) : (s.setPoison loc).tagPoison = s.tagPoison := rfl
@[simp] theorem setPoison_net (s : State) (loc : Nat) : (s.setPoison loc).net = s.net := rfl
@[simp] theorem setPoison_ctxs (s : State) (loc : Nat) : (s.setPoison loc).ctxs = s.ctxs := rfl
@[simp] theorem setPoison_cores (s : State) (loc : Nat) : (s.setPoison loc).cores = s.cores := rfl
@[simp] theorem setPoison_clusters (s : State) (loc : Nat) : (s.setPoison loc).clusters = s.clusters := rfl
@[simp] theorem setPoison_dies (s : State) (loc : Nat) : (s.setPoison loc).dies = s.dies := rfl
@[simp] theorem setPoison_strLinks (s : State) (loc : Nat) : (s.setPoison loc).strLinks = s.strLinks := rfl
@[simp] theorem setPoison_texts (s : State) (loc : Nat) : (s.setPoison loc).texts = s.texts := rfl
@[simp] theorem setPoison_heldText (s : State) (loc : Nat) : (s.setPoison loc).heldText = s.heldText := rfl
@[simp] theorem setPoison_levelZero (s : State) (loc : Nat) : (s.setPoison loc).levelZero = s.levelZero := rfl
@[simp] theorem setPoison_partOf (s : State) (loc : Nat) : (s.setPoison loc).partOf = s.partOf := rfl
@[simp] theorem setPoison_windows (s : State) (loc : Nat) : (s.setPoison loc).windows = s.windows := rfl
@[simp] theorem setPoison_peerTable (s : State) (loc : Nat) : (s.setPoison loc).peerTable = s.peerTable := rfl
@[simp] theorem setPoison_groups (s : State) (loc : Nat) : (s.setPoison loc).groups = s.groups := rfl
@[simp] theorem setPoison_ports (s : State) (loc : Nat) : (s.setPoison loc).ports = s.ports := rfl
@[simp] theorem setPoison_colls (s : State) (loc : Nat) : (s.setPoison loc).colls = s.colls := rfl
@[simp] theorem setPoison_rounds (s : State) (loc : Nat) : (s.setPoison loc).rounds = s.rounds := rfl
@[simp] theorem setPoison_lateFab (s : State) (loc : Nat) : (s.setPoison loc).lateFab = s.lateFab := rfl
@[simp] theorem setPoison_resGrant (s : State) (loc : Nat) : (s.setPoison loc).resGrant = s.resGrant := rfl
@[simp] theorem setPoison_homes (s : State) (loc : Nat) : (s.setPoison loc).homes = s.homes := rfl
@[simp] theorem setPoison_queues (s : State) (loc : Nat) : (s.setPoison loc).queues = s.queues := rfl
@[simp] theorem setPoison_launches (s : State) (loc : Nat) : (s.setPoison loc).launches = s.launches := rfl
@[simp] theorem setPoison_arrivals (s : State) (loc : Nat) : (s.setPoison loc).arrivals = s.arrivals := rfl
@[simp] theorem setPoison_decision (s : State) (loc : Nat) : (s.setPoison loc).decision = s.decision := rfl
@[simp] theorem setPoison_msix (s : State) (loc : Nat) : (s.setPoison loc).msix = s.msix := rfl
@[simp] theorem setPoison_replies (s : State) (loc : Nat) : (s.setPoison loc).replies = s.replies := rfl
@[simp] theorem setPoison_pages (s : State) (loc : Nat) : (s.setPoison loc).pages = s.pages := rfl
@[simp] theorem setPoison_peerPages (s : State) (loc : Nat) : (s.setPoison loc).peerPages = s.peerPages := rfl
@[simp] theorem setPoison_blocks (s : State) (loc : Nat) : (s.setPoison loc).blocks = s.blocks := rfl
@[simp] theorem setPoison_owed (s : State) (loc : Nat) : (s.setPoison loc).owed = s.owed := rfl
@[simp] theorem setPoison_plug (s : State) (loc : Nat) : (s.setPoison loc).plug = s.plug := rfl
@[simp] theorem setPoison_cur (s : State) (loc : Nat) : (s.setPoison loc).cur = s.cur := rfl
@[simp] theorem setPoison_ilen (s : State) (loc : Nat) : (s.setPoison loc).ilen = s.ilen := rfl
@[simp] theorem setPoison_turns (s : State) (loc : Nat) : (s.setPoison loc).turns = s.turns := rfl
@[simp] theorem setPoison_agenda (s : State) (loc : Nat) : (s.setPoison loc).agenda = s.agenda := rfl
@[simp] theorem setPoison_nextId (s : State) (loc : Nat) : (s.setPoison loc).nextId = s.nextId := rfl
@[simp] theorem setPoison_draws (s : State) (loc : Nat) : (s.setPoison loc).draws = s.draws := rfl

/-! ### unpoison -/

@[simp] theorem unpoison_cyc (s : State) (loc n : Nat) : (s.unpoison loc n).cyc = s.cyc := rfl
@[simp] theorem unpoison_pkgNo (s : State) (loc n : Nat) : (s.unpoison loc n).pkgNo = s.pkgNo := rfl
@[simp] theorem unpoison_mem (s : State) (loc n : Nat) : (s.unpoison loc n).mem = s.mem := rfl
@[simp] theorem unpoison_tagged (s : State) (loc n : Nat) : (s.unpoison loc n).tagged = s.tagged := rfl
@[simp] theorem unpoison_tagPoison (s : State) (loc n : Nat) : (s.unpoison loc n).tagPoison = s.tagPoison := rfl
@[simp] theorem unpoison_net (s : State) (loc n : Nat) : (s.unpoison loc n).net = s.net := rfl
@[simp] theorem unpoison_ctxs (s : State) (loc n : Nat) : (s.unpoison loc n).ctxs = s.ctxs := rfl
@[simp] theorem unpoison_cores (s : State) (loc n : Nat) : (s.unpoison loc n).cores = s.cores := rfl
@[simp] theorem unpoison_clusters (s : State) (loc n : Nat) : (s.unpoison loc n).clusters = s.clusters := rfl
@[simp] theorem unpoison_dies (s : State) (loc n : Nat) : (s.unpoison loc n).dies = s.dies := rfl
@[simp] theorem unpoison_strLinks (s : State) (loc n : Nat) : (s.unpoison loc n).strLinks = s.strLinks := rfl
@[simp] theorem unpoison_texts (s : State) (loc n : Nat) : (s.unpoison loc n).texts = s.texts := rfl
@[simp] theorem unpoison_heldText (s : State) (loc n : Nat) : (s.unpoison loc n).heldText = s.heldText := rfl
@[simp] theorem unpoison_levelZero (s : State) (loc n : Nat) : (s.unpoison loc n).levelZero = s.levelZero := rfl
@[simp] theorem unpoison_partOf (s : State) (loc n : Nat) : (s.unpoison loc n).partOf = s.partOf := rfl
@[simp] theorem unpoison_windows (s : State) (loc n : Nat) : (s.unpoison loc n).windows = s.windows := rfl
@[simp] theorem unpoison_peerTable (s : State) (loc n : Nat) : (s.unpoison loc n).peerTable = s.peerTable := rfl
@[simp] theorem unpoison_groups (s : State) (loc n : Nat) : (s.unpoison loc n).groups = s.groups := rfl
@[simp] theorem unpoison_ports (s : State) (loc n : Nat) : (s.unpoison loc n).ports = s.ports := rfl
@[simp] theorem unpoison_colls (s : State) (loc n : Nat) : (s.unpoison loc n).colls = s.colls := rfl
@[simp] theorem unpoison_rounds (s : State) (loc n : Nat) : (s.unpoison loc n).rounds = s.rounds := rfl
@[simp] theorem unpoison_lateFab (s : State) (loc n : Nat) : (s.unpoison loc n).lateFab = s.lateFab := rfl
@[simp] theorem unpoison_resGrant (s : State) (loc n : Nat) : (s.unpoison loc n).resGrant = s.resGrant := rfl
@[simp] theorem unpoison_homes (s : State) (loc n : Nat) : (s.unpoison loc n).homes = s.homes := rfl
@[simp] theorem unpoison_queues (s : State) (loc n : Nat) : (s.unpoison loc n).queues = s.queues := rfl
@[simp] theorem unpoison_launches (s : State) (loc n : Nat) : (s.unpoison loc n).launches = s.launches := rfl
@[simp] theorem unpoison_arrivals (s : State) (loc n : Nat) : (s.unpoison loc n).arrivals = s.arrivals := rfl
@[simp] theorem unpoison_decision (s : State) (loc n : Nat) : (s.unpoison loc n).decision = s.decision := rfl
@[simp] theorem unpoison_msix (s : State) (loc n : Nat) : (s.unpoison loc n).msix = s.msix := rfl
@[simp] theorem unpoison_replies (s : State) (loc n : Nat) : (s.unpoison loc n).replies = s.replies := rfl
@[simp] theorem unpoison_pages (s : State) (loc n : Nat) : (s.unpoison loc n).pages = s.pages := rfl
@[simp] theorem unpoison_peerPages (s : State) (loc n : Nat) : (s.unpoison loc n).peerPages = s.peerPages := rfl
@[simp] theorem unpoison_blocks (s : State) (loc n : Nat) : (s.unpoison loc n).blocks = s.blocks := rfl
@[simp] theorem unpoison_owed (s : State) (loc n : Nat) : (s.unpoison loc n).owed = s.owed := rfl
@[simp] theorem unpoison_plug (s : State) (loc n : Nat) : (s.unpoison loc n).plug = s.plug := rfl
@[simp] theorem unpoison_cur (s : State) (loc n : Nat) : (s.unpoison loc n).cur = s.cur := rfl
@[simp] theorem unpoison_ilen (s : State) (loc n : Nat) : (s.unpoison loc n).ilen = s.ilen := rfl
@[simp] theorem unpoison_turns (s : State) (loc n : Nat) : (s.unpoison loc n).turns = s.turns := rfl
@[simp] theorem unpoison_agenda (s : State) (loc n : Nat) : (s.unpoison loc n).agenda = s.agenda := rfl
@[simp] theorem unpoison_nextId (s : State) (loc n : Nat) : (s.unpoison loc n).nextId = s.nextId := rfl
@[simp] theorem unpoison_draws (s : State) (loc n : Nat) : (s.unpoison loc n).draws = s.draws := rfl

/-! ### put -/

@[simp] theorem put_cyc (s : State) (n : RegNo) (v : Word) : (s.put n v).cyc = s.cyc := rfl
@[simp] theorem put_pkgNo (s : State) (n : RegNo) (v : Word) : (s.put n v).pkgNo = s.pkgNo := rfl
@[simp] theorem put_mem (s : State) (n : RegNo) (v : Word) : (s.put n v).mem = s.mem := rfl
@[simp] theorem put_tagged (s : State) (n : RegNo) (v : Word) : (s.put n v).tagged = s.tagged := rfl
@[simp] theorem put_poison (s : State) (n : RegNo) (v : Word) : (s.put n v).poison = s.poison := rfl
@[simp] theorem put_tagPoison (s : State) (n : RegNo) (v : Word) : (s.put n v).tagPoison = s.tagPoison := rfl
@[simp] theorem put_net (s : State) (n : RegNo) (v : Word) : (s.put n v).net = s.net := rfl
@[simp] theorem put_cores (s : State) (n : RegNo) (v : Word) : (s.put n v).cores = s.cores := rfl
@[simp] theorem put_clusters (s : State) (n : RegNo) (v : Word) : (s.put n v).clusters = s.clusters := rfl
@[simp] theorem put_dies (s : State) (n : RegNo) (v : Word) : (s.put n v).dies = s.dies := rfl
@[simp] theorem put_strLinks (s : State) (n : RegNo) (v : Word) : (s.put n v).strLinks = s.strLinks := rfl
@[simp] theorem put_texts (s : State) (n : RegNo) (v : Word) : (s.put n v).texts = s.texts := rfl
@[simp] theorem put_heldText (s : State) (n : RegNo) (v : Word) : (s.put n v).heldText = s.heldText := rfl
@[simp] theorem put_levelZero (s : State) (n : RegNo) (v : Word) : (s.put n v).levelZero = s.levelZero := rfl
@[simp] theorem put_partOf (s : State) (n : RegNo) (v : Word) : (s.put n v).partOf = s.partOf := rfl
@[simp] theorem put_windows (s : State) (n : RegNo) (v : Word) : (s.put n v).windows = s.windows := rfl
@[simp] theorem put_peerTable (s : State) (n : RegNo) (v : Word) : (s.put n v).peerTable = s.peerTable := rfl
@[simp] theorem put_groups (s : State) (n : RegNo) (v : Word) : (s.put n v).groups = s.groups := rfl
@[simp] theorem put_ports (s : State) (n : RegNo) (v : Word) : (s.put n v).ports = s.ports := rfl
@[simp] theorem put_colls (s : State) (n : RegNo) (v : Word) : (s.put n v).colls = s.colls := rfl
@[simp] theorem put_rounds (s : State) (n : RegNo) (v : Word) : (s.put n v).rounds = s.rounds := rfl
@[simp] theorem put_lateFab (s : State) (n : RegNo) (v : Word) : (s.put n v).lateFab = s.lateFab := rfl
@[simp] theorem put_resGrant (s : State) (n : RegNo) (v : Word) : (s.put n v).resGrant = s.resGrant := rfl
@[simp] theorem put_homes (s : State) (n : RegNo) (v : Word) : (s.put n v).homes = s.homes := rfl
@[simp] theorem put_queues (s : State) (n : RegNo) (v : Word) : (s.put n v).queues = s.queues := rfl
@[simp] theorem put_launches (s : State) (n : RegNo) (v : Word) : (s.put n v).launches = s.launches := rfl
@[simp] theorem put_arrivals (s : State) (n : RegNo) (v : Word) : (s.put n v).arrivals = s.arrivals := rfl
@[simp] theorem put_decision (s : State) (n : RegNo) (v : Word) : (s.put n v).decision = s.decision := rfl
@[simp] theorem put_msix (s : State) (n : RegNo) (v : Word) : (s.put n v).msix = s.msix := rfl
@[simp] theorem put_replies (s : State) (n : RegNo) (v : Word) : (s.put n v).replies = s.replies := rfl
@[simp] theorem put_pages (s : State) (n : RegNo) (v : Word) : (s.put n v).pages = s.pages := rfl
@[simp] theorem put_peerPages (s : State) (n : RegNo) (v : Word) : (s.put n v).peerPages = s.peerPages := rfl
@[simp] theorem put_blocks (s : State) (n : RegNo) (v : Word) : (s.put n v).blocks = s.blocks := rfl
@[simp] theorem put_owed (s : State) (n : RegNo) (v : Word) : (s.put n v).owed = s.owed := rfl
@[simp] theorem put_plug (s : State) (n : RegNo) (v : Word) : (s.put n v).plug = s.plug := rfl
@[simp] theorem put_cur (s : State) (n : RegNo) (v : Word) : (s.put n v).cur = s.cur := rfl
@[simp] theorem put_ilen (s : State) (n : RegNo) (v : Word) : (s.put n v).ilen = s.ilen := rfl
@[simp] theorem put_turns (s : State) (n : RegNo) (v : Word) : (s.put n v).turns = s.turns := rfl
@[simp] theorem put_agenda (s : State) (n : RegNo) (v : Word) : (s.put n v).agenda = s.agenda := rfl
@[simp] theorem put_nextId (s : State) (n : RegNo) (v : Word) : (s.put n v).nextId = s.nextId := rfl
@[simp] theorem put_draws (s : State) (n : RegNo) (v : Word) : (s.put n v).draws = s.draws := rfl

/-! ### putQ -/

@[simp] theorem putQ_cyc (s : State) (n : RegNo) (v : Quad) (t : Tag) : (s.putQ n v t).cyc = s.cyc := rfl
@[simp] theorem putQ_pkgNo (s : State) (n : RegNo) (v : Quad) (t : Tag) : (s.putQ n v t).pkgNo = s.pkgNo := rfl
@[simp] theorem putQ_mem (s : State) (n : RegNo) (v : Quad) (t : Tag) : (s.putQ n v t).mem = s.mem := rfl
@[simp] theorem putQ_tagged (s : State) (n : RegNo) (v : Quad) (t : Tag) : (s.putQ n v t).tagged = s.tagged := rfl
@[simp] theorem putQ_poison (s : State) (n : RegNo) (v : Quad) (t : Tag) : (s.putQ n v t).poison = s.poison := rfl
@[simp] theorem putQ_tagPoison (s : State) (n : RegNo) (v : Quad) (t : Tag) : (s.putQ n v t).tagPoison = s.tagPoison := rfl
@[simp] theorem putQ_net (s : State) (n : RegNo) (v : Quad) (t : Tag) : (s.putQ n v t).net = s.net := rfl
@[simp] theorem putQ_cores (s : State) (n : RegNo) (v : Quad) (t : Tag) : (s.putQ n v t).cores = s.cores := rfl
@[simp] theorem putQ_clusters (s : State) (n : RegNo) (v : Quad) (t : Tag) : (s.putQ n v t).clusters = s.clusters := rfl
@[simp] theorem putQ_dies (s : State) (n : RegNo) (v : Quad) (t : Tag) : (s.putQ n v t).dies = s.dies := rfl
@[simp] theorem putQ_strLinks (s : State) (n : RegNo) (v : Quad) (t : Tag) : (s.putQ n v t).strLinks = s.strLinks := rfl
@[simp] theorem putQ_texts (s : State) (n : RegNo) (v : Quad) (t : Tag) : (s.putQ n v t).texts = s.texts := rfl
@[simp] theorem putQ_heldText (s : State) (n : RegNo) (v : Quad) (t : Tag) : (s.putQ n v t).heldText = s.heldText := rfl
@[simp] theorem putQ_levelZero (s : State) (n : RegNo) (v : Quad) (t : Tag) : (s.putQ n v t).levelZero = s.levelZero := rfl
@[simp] theorem putQ_partOf (s : State) (n : RegNo) (v : Quad) (t : Tag) : (s.putQ n v t).partOf = s.partOf := rfl
@[simp] theorem putQ_windows (s : State) (n : RegNo) (v : Quad) (t : Tag) : (s.putQ n v t).windows = s.windows := rfl
@[simp] theorem putQ_peerTable (s : State) (n : RegNo) (v : Quad) (t : Tag) : (s.putQ n v t).peerTable = s.peerTable := rfl
@[simp] theorem putQ_groups (s : State) (n : RegNo) (v : Quad) (t : Tag) : (s.putQ n v t).groups = s.groups := rfl
@[simp] theorem putQ_ports (s : State) (n : RegNo) (v : Quad) (t : Tag) : (s.putQ n v t).ports = s.ports := rfl
@[simp] theorem putQ_colls (s : State) (n : RegNo) (v : Quad) (t : Tag) : (s.putQ n v t).colls = s.colls := rfl
@[simp] theorem putQ_rounds (s : State) (n : RegNo) (v : Quad) (t : Tag) : (s.putQ n v t).rounds = s.rounds := rfl
@[simp] theorem putQ_lateFab (s : State) (n : RegNo) (v : Quad) (t : Tag) : (s.putQ n v t).lateFab = s.lateFab := rfl
@[simp] theorem putQ_resGrant (s : State) (n : RegNo) (v : Quad) (t : Tag) : (s.putQ n v t).resGrant = s.resGrant := rfl
@[simp] theorem putQ_homes (s : State) (n : RegNo) (v : Quad) (t : Tag) : (s.putQ n v t).homes = s.homes := rfl
@[simp] theorem putQ_queues (s : State) (n : RegNo) (v : Quad) (t : Tag) : (s.putQ n v t).queues = s.queues := rfl
@[simp] theorem putQ_launches (s : State) (n : RegNo) (v : Quad) (t : Tag) : (s.putQ n v t).launches = s.launches := rfl
@[simp] theorem putQ_arrivals (s : State) (n : RegNo) (v : Quad) (t : Tag) : (s.putQ n v t).arrivals = s.arrivals := rfl
@[simp] theorem putQ_decision (s : State) (n : RegNo) (v : Quad) (t : Tag) : (s.putQ n v t).decision = s.decision := rfl
@[simp] theorem putQ_msix (s : State) (n : RegNo) (v : Quad) (t : Tag) : (s.putQ n v t).msix = s.msix := rfl
@[simp] theorem putQ_replies (s : State) (n : RegNo) (v : Quad) (t : Tag) : (s.putQ n v t).replies = s.replies := rfl
@[simp] theorem putQ_pages (s : State) (n : RegNo) (v : Quad) (t : Tag) : (s.putQ n v t).pages = s.pages := rfl
@[simp] theorem putQ_peerPages (s : State) (n : RegNo) (v : Quad) (t : Tag) : (s.putQ n v t).peerPages = s.peerPages := rfl
@[simp] theorem putQ_blocks (s : State) (n : RegNo) (v : Quad) (t : Tag) : (s.putQ n v t).blocks = s.blocks := rfl
@[simp] theorem putQ_owed (s : State) (n : RegNo) (v : Quad) (t : Tag) : (s.putQ n v t).owed = s.owed := rfl
@[simp] theorem putQ_plug (s : State) (n : RegNo) (v : Quad) (t : Tag) : (s.putQ n v t).plug = s.plug := rfl
@[simp] theorem putQ_cur (s : State) (n : RegNo) (v : Quad) (t : Tag) : (s.putQ n v t).cur = s.cur := rfl
@[simp] theorem putQ_ilen (s : State) (n : RegNo) (v : Quad) (t : Tag) : (s.putQ n v t).ilen = s.ilen := rfl
@[simp] theorem putQ_turns (s : State) (n : RegNo) (v : Quad) (t : Tag) : (s.putQ n v t).turns = s.turns := rfl
@[simp] theorem putQ_agenda (s : State) (n : RegNo) (v : Quad) (t : Tag) : (s.putQ n v t).agenda = s.agenda := rfl
@[simp] theorem putQ_nextId (s : State) (n : RegNo) (v : Quad) (t : Tag) : (s.putQ n v t).nextId = s.nextId := rfl
@[simp] theorem putQ_draws (s : State) (n : RegNo) (v : Quad) (t : Tag) : (s.putQ n v t).draws = s.draws := rfl

/-! ### putL -/

@[simp] theorem putL_cyc (s : State) (n : RegNo) (l : List (Quad × Tag)) : (s.putL n l).cyc = s.cyc := rfl
@[simp] theorem putL_pkgNo (s : State) (n : RegNo) (l : List (Quad × Tag)) : (s.putL n l).pkgNo = s.pkgNo := rfl
@[simp] theorem putL_mem (s : State) (n : RegNo) (l : List (Quad × Tag)) : (s.putL n l).mem = s.mem := rfl
@[simp] theorem putL_tagged (s : State) (n : RegNo) (l : List (Quad × Tag)) : (s.putL n l).tagged = s.tagged := rfl
@[simp] theorem putL_poison (s : State) (n : RegNo) (l : List (Quad × Tag)) : (s.putL n l).poison = s.poison := rfl
@[simp] theorem putL_tagPoison (s : State) (n : RegNo) (l : List (Quad × Tag)) : (s.putL n l).tagPoison = s.tagPoison := rfl
@[simp] theorem putL_net (s : State) (n : RegNo) (l : List (Quad × Tag)) : (s.putL n l).net = s.net := rfl
@[simp] theorem putL_cores (s : State) (n : RegNo) (l : List (Quad × Tag)) : (s.putL n l).cores = s.cores := rfl
@[simp] theorem putL_clusters (s : State) (n : RegNo) (l : List (Quad × Tag)) : (s.putL n l).clusters = s.clusters := rfl
@[simp] theorem putL_dies (s : State) (n : RegNo) (l : List (Quad × Tag)) : (s.putL n l).dies = s.dies := rfl
@[simp] theorem putL_strLinks (s : State) (n : RegNo) (l : List (Quad × Tag)) : (s.putL n l).strLinks = s.strLinks := rfl
@[simp] theorem putL_texts (s : State) (n : RegNo) (l : List (Quad × Tag)) : (s.putL n l).texts = s.texts := rfl
@[simp] theorem putL_heldText (s : State) (n : RegNo) (l : List (Quad × Tag)) : (s.putL n l).heldText = s.heldText := rfl
@[simp] theorem putL_levelZero (s : State) (n : RegNo) (l : List (Quad × Tag)) : (s.putL n l).levelZero = s.levelZero := rfl
@[simp] theorem putL_partOf (s : State) (n : RegNo) (l : List (Quad × Tag)) : (s.putL n l).partOf = s.partOf := rfl
@[simp] theorem putL_windows (s : State) (n : RegNo) (l : List (Quad × Tag)) : (s.putL n l).windows = s.windows := rfl
@[simp] theorem putL_peerTable (s : State) (n : RegNo) (l : List (Quad × Tag)) : (s.putL n l).peerTable = s.peerTable := rfl
@[simp] theorem putL_groups (s : State) (n : RegNo) (l : List (Quad × Tag)) : (s.putL n l).groups = s.groups := rfl
@[simp] theorem putL_ports (s : State) (n : RegNo) (l : List (Quad × Tag)) : (s.putL n l).ports = s.ports := rfl
@[simp] theorem putL_colls (s : State) (n : RegNo) (l : List (Quad × Tag)) : (s.putL n l).colls = s.colls := rfl
@[simp] theorem putL_rounds (s : State) (n : RegNo) (l : List (Quad × Tag)) : (s.putL n l).rounds = s.rounds := rfl
@[simp] theorem putL_lateFab (s : State) (n : RegNo) (l : List (Quad × Tag)) : (s.putL n l).lateFab = s.lateFab := rfl
@[simp] theorem putL_resGrant (s : State) (n : RegNo) (l : List (Quad × Tag)) : (s.putL n l).resGrant = s.resGrant := rfl
@[simp] theorem putL_homes (s : State) (n : RegNo) (l : List (Quad × Tag)) : (s.putL n l).homes = s.homes := rfl
@[simp] theorem putL_queues (s : State) (n : RegNo) (l : List (Quad × Tag)) : (s.putL n l).queues = s.queues := rfl
@[simp] theorem putL_launches (s : State) (n : RegNo) (l : List (Quad × Tag)) : (s.putL n l).launches = s.launches := rfl
@[simp] theorem putL_arrivals (s : State) (n : RegNo) (l : List (Quad × Tag)) : (s.putL n l).arrivals = s.arrivals := rfl
@[simp] theorem putL_decision (s : State) (n : RegNo) (l : List (Quad × Tag)) : (s.putL n l).decision = s.decision := rfl
@[simp] theorem putL_msix (s : State) (n : RegNo) (l : List (Quad × Tag)) : (s.putL n l).msix = s.msix := rfl
@[simp] theorem putL_replies (s : State) (n : RegNo) (l : List (Quad × Tag)) : (s.putL n l).replies = s.replies := rfl
@[simp] theorem putL_pages (s : State) (n : RegNo) (l : List (Quad × Tag)) : (s.putL n l).pages = s.pages := rfl
@[simp] theorem putL_peerPages (s : State) (n : RegNo) (l : List (Quad × Tag)) : (s.putL n l).peerPages = s.peerPages := rfl
@[simp] theorem putL_blocks (s : State) (n : RegNo) (l : List (Quad × Tag)) : (s.putL n l).blocks = s.blocks := rfl
@[simp] theorem putL_owed (s : State) (n : RegNo) (l : List (Quad × Tag)) : (s.putL n l).owed = s.owed := rfl
@[simp] theorem putL_plug (s : State) (n : RegNo) (l : List (Quad × Tag)) : (s.putL n l).plug = s.plug := rfl
@[simp] theorem putL_cur (s : State) (n : RegNo) (l : List (Quad × Tag)) : (s.putL n l).cur = s.cur := rfl
@[simp] theorem putL_ilen (s : State) (n : RegNo) (l : List (Quad × Tag)) : (s.putL n l).ilen = s.ilen := rfl
@[simp] theorem putL_turns (s : State) (n : RegNo) (l : List (Quad × Tag)) : (s.putL n l).turns = s.turns := rfl
@[simp] theorem putL_agenda (s : State) (n : RegNo) (l : List (Quad × Tag)) : (s.putL n l).agenda = s.agenda := rfl
@[simp] theorem putL_nextId (s : State) (n : RegNo) (l : List (Quad × Tag)) : (s.putL n l).nextId = s.nextId := rfl
@[simp] theorem putL_draws (s : State) (n : RegNo) (l : List (Quad × Tag)) : (s.putL n l).draws = s.draws := rfl

/-! ### endAt -/

@[simp] theorem endAt_cyc (s : State) (p : PcAddr) : (s.endAt p).cyc = s.cyc := rfl
@[simp] theorem endAt_pkgNo (s : State) (p : PcAddr) : (s.endAt p).pkgNo = s.pkgNo := rfl
@[simp] theorem endAt_mem (s : State) (p : PcAddr) : (s.endAt p).mem = s.mem := rfl
@[simp] theorem endAt_tagged (s : State) (p : PcAddr) : (s.endAt p).tagged = s.tagged := rfl
@[simp] theorem endAt_poison (s : State) (p : PcAddr) : (s.endAt p).poison = s.poison := rfl
@[simp] theorem endAt_tagPoison (s : State) (p : PcAddr) : (s.endAt p).tagPoison = s.tagPoison := rfl
@[simp] theorem endAt_net (s : State) (p : PcAddr) : (s.endAt p).net = s.net := rfl
@[simp] theorem endAt_cores (s : State) (p : PcAddr) : (s.endAt p).cores = s.cores := rfl
@[simp] theorem endAt_clusters (s : State) (p : PcAddr) : (s.endAt p).clusters = s.clusters := rfl
@[simp] theorem endAt_dies (s : State) (p : PcAddr) : (s.endAt p).dies = s.dies := rfl
@[simp] theorem endAt_strLinks (s : State) (p : PcAddr) : (s.endAt p).strLinks = s.strLinks := rfl
@[simp] theorem endAt_texts (s : State) (p : PcAddr) : (s.endAt p).texts = s.texts := rfl
@[simp] theorem endAt_heldText (s : State) (p : PcAddr) : (s.endAt p).heldText = s.heldText := rfl
@[simp] theorem endAt_levelZero (s : State) (p : PcAddr) : (s.endAt p).levelZero = s.levelZero := rfl
@[simp] theorem endAt_partOf (s : State) (p : PcAddr) : (s.endAt p).partOf = s.partOf := rfl
@[simp] theorem endAt_windows (s : State) (p : PcAddr) : (s.endAt p).windows = s.windows := rfl
@[simp] theorem endAt_peerTable (s : State) (p : PcAddr) : (s.endAt p).peerTable = s.peerTable := rfl
@[simp] theorem endAt_groups (s : State) (p : PcAddr) : (s.endAt p).groups = s.groups := rfl
@[simp] theorem endAt_ports (s : State) (p : PcAddr) : (s.endAt p).ports = s.ports := rfl
@[simp] theorem endAt_colls (s : State) (p : PcAddr) : (s.endAt p).colls = s.colls := rfl
@[simp] theorem endAt_rounds (s : State) (p : PcAddr) : (s.endAt p).rounds = s.rounds := rfl
@[simp] theorem endAt_lateFab (s : State) (p : PcAddr) : (s.endAt p).lateFab = s.lateFab := rfl
@[simp] theorem endAt_resGrant (s : State) (p : PcAddr) : (s.endAt p).resGrant = s.resGrant := rfl
@[simp] theorem endAt_homes (s : State) (p : PcAddr) : (s.endAt p).homes = s.homes := rfl
@[simp] theorem endAt_queues (s : State) (p : PcAddr) : (s.endAt p).queues = s.queues := rfl
@[simp] theorem endAt_launches (s : State) (p : PcAddr) : (s.endAt p).launches = s.launches := rfl
@[simp] theorem endAt_arrivals (s : State) (p : PcAddr) : (s.endAt p).arrivals = s.arrivals := rfl
@[simp] theorem endAt_decision (s : State) (p : PcAddr) : (s.endAt p).decision = s.decision := rfl
@[simp] theorem endAt_msix (s : State) (p : PcAddr) : (s.endAt p).msix = s.msix := rfl
@[simp] theorem endAt_replies (s : State) (p : PcAddr) : (s.endAt p).replies = s.replies := rfl
@[simp] theorem endAt_pages (s : State) (p : PcAddr) : (s.endAt p).pages = s.pages := rfl
@[simp] theorem endAt_peerPages (s : State) (p : PcAddr) : (s.endAt p).peerPages = s.peerPages := rfl
@[simp] theorem endAt_blocks (s : State) (p : PcAddr) : (s.endAt p).blocks = s.blocks := rfl
@[simp] theorem endAt_owed (s : State) (p : PcAddr) : (s.endAt p).owed = s.owed := rfl
@[simp] theorem endAt_plug (s : State) (p : PcAddr) : (s.endAt p).plug = s.plug := rfl
@[simp] theorem endAt_cur (s : State) (p : PcAddr) : (s.endAt p).cur = s.cur := rfl
@[simp] theorem endAt_ilen (s : State) (p : PcAddr) : (s.endAt p).ilen = s.ilen := rfl
@[simp] theorem endAt_turns (s : State) (p : PcAddr) : (s.endAt p).turns = s.turns := rfl
@[simp] theorem endAt_agenda (s : State) (p : PcAddr) : (s.endAt p).agenda = s.agenda := rfl
@[simp] theorem endAt_nextId (s : State) (p : PcAddr) : (s.endAt p).nextId = s.nextId := rfl
@[simp] theorem endAt_draws (s : State) (p : PcAddr) : (s.endAt p).draws = s.draws := rfl

/-! ### endNext -/

@[simp] theorem endNext_cyc (s : State) : s.endNext.cyc = s.cyc := rfl
@[simp] theorem endNext_pkgNo (s : State) : s.endNext.pkgNo = s.pkgNo := rfl
@[simp] theorem endNext_mem (s : State) : s.endNext.mem = s.mem := rfl
@[simp] theorem endNext_tagged (s : State) : s.endNext.tagged = s.tagged := rfl
@[simp] theorem endNext_poison (s : State) : s.endNext.poison = s.poison := rfl
@[simp] theorem endNext_tagPoison (s : State) : s.endNext.tagPoison = s.tagPoison := rfl
@[simp] theorem endNext_net (s : State) : s.endNext.net = s.net := rfl
@[simp] theorem endNext_cores (s : State) : s.endNext.cores = s.cores := rfl
@[simp] theorem endNext_clusters (s : State) : s.endNext.clusters = s.clusters := rfl
@[simp] theorem endNext_dies (s : State) : s.endNext.dies = s.dies := rfl
@[simp] theorem endNext_strLinks (s : State) : s.endNext.strLinks = s.strLinks := rfl
@[simp] theorem endNext_texts (s : State) : s.endNext.texts = s.texts := rfl
@[simp] theorem endNext_heldText (s : State) : s.endNext.heldText = s.heldText := rfl
@[simp] theorem endNext_levelZero (s : State) : s.endNext.levelZero = s.levelZero := rfl
@[simp] theorem endNext_partOf (s : State) : s.endNext.partOf = s.partOf := rfl
@[simp] theorem endNext_windows (s : State) : s.endNext.windows = s.windows := rfl
@[simp] theorem endNext_peerTable (s : State) : s.endNext.peerTable = s.peerTable := rfl
@[simp] theorem endNext_groups (s : State) : s.endNext.groups = s.groups := rfl
@[simp] theorem endNext_ports (s : State) : s.endNext.ports = s.ports := rfl
@[simp] theorem endNext_colls (s : State) : s.endNext.colls = s.colls := rfl
@[simp] theorem endNext_rounds (s : State) : s.endNext.rounds = s.rounds := rfl
@[simp] theorem endNext_lateFab (s : State) : s.endNext.lateFab = s.lateFab := rfl
@[simp] theorem endNext_resGrant (s : State) : s.endNext.resGrant = s.resGrant := rfl
@[simp] theorem endNext_homes (s : State) : s.endNext.homes = s.homes := rfl
@[simp] theorem endNext_queues (s : State) : s.endNext.queues = s.queues := rfl
@[simp] theorem endNext_launches (s : State) : s.endNext.launches = s.launches := rfl
@[simp] theorem endNext_arrivals (s : State) : s.endNext.arrivals = s.arrivals := rfl
@[simp] theorem endNext_decision (s : State) : s.endNext.decision = s.decision := rfl
@[simp] theorem endNext_msix (s : State) : s.endNext.msix = s.msix := rfl
@[simp] theorem endNext_replies (s : State) : s.endNext.replies = s.replies := rfl
@[simp] theorem endNext_pages (s : State) : s.endNext.pages = s.pages := rfl
@[simp] theorem endNext_peerPages (s : State) : s.endNext.peerPages = s.peerPages := rfl
@[simp] theorem endNext_blocks (s : State) : s.endNext.blocks = s.blocks := rfl
@[simp] theorem endNext_owed (s : State) : s.endNext.owed = s.owed := rfl
@[simp] theorem endNext_plug (s : State) : s.endNext.plug = s.plug := rfl
@[simp] theorem endNext_cur (s : State) : s.endNext.cur = s.cur := rfl
@[simp] theorem endNext_ilen (s : State) : s.endNext.ilen = s.ilen := rfl
@[simp] theorem endNext_turns (s : State) : s.endNext.turns = s.turns := rfl
@[simp] theorem endNext_agenda (s : State) : s.endNext.agenda = s.agenda := rfl
@[simp] theorem endNext_nextId (s : State) : s.endNext.nextId = s.nextId := rfl
@[simp] theorem endNext_draws (s : State) : s.endNext.draws = s.draws := rfl

/-! ### blocked -/

@[simp] theorem blocked_cyc (s : State) (k o x : Nat) : (s.blocked k o x).cyc = s.cyc := rfl
@[simp] theorem blocked_pkgNo (s : State) (k o x : Nat) : (s.blocked k o x).pkgNo = s.pkgNo := rfl
@[simp] theorem blocked_mem (s : State) (k o x : Nat) : (s.blocked k o x).mem = s.mem := rfl
@[simp] theorem blocked_tagged (s : State) (k o x : Nat) : (s.blocked k o x).tagged = s.tagged := rfl
@[simp] theorem blocked_poison (s : State) (k o x : Nat) : (s.blocked k o x).poison = s.poison := rfl
@[simp] theorem blocked_tagPoison (s : State) (k o x : Nat) : (s.blocked k o x).tagPoison = s.tagPoison := rfl
@[simp] theorem blocked_net (s : State) (k o x : Nat) : (s.blocked k o x).net = s.net := rfl
@[simp] theorem blocked_cores (s : State) (k o x : Nat) : (s.blocked k o x).cores = s.cores := rfl
@[simp] theorem blocked_clusters (s : State) (k o x : Nat) : (s.blocked k o x).clusters = s.clusters := rfl
@[simp] theorem blocked_dies (s : State) (k o x : Nat) : (s.blocked k o x).dies = s.dies := rfl
@[simp] theorem blocked_strLinks (s : State) (k o x : Nat) : (s.blocked k o x).strLinks = s.strLinks := rfl
@[simp] theorem blocked_texts (s : State) (k o x : Nat) : (s.blocked k o x).texts = s.texts := rfl
@[simp] theorem blocked_heldText (s : State) (k o x : Nat) : (s.blocked k o x).heldText = s.heldText := rfl
@[simp] theorem blocked_levelZero (s : State) (k o x : Nat) : (s.blocked k o x).levelZero = s.levelZero := rfl
@[simp] theorem blocked_partOf (s : State) (k o x : Nat) : (s.blocked k o x).partOf = s.partOf := rfl
@[simp] theorem blocked_windows (s : State) (k o x : Nat) : (s.blocked k o x).windows = s.windows := rfl
@[simp] theorem blocked_peerTable (s : State) (k o x : Nat) : (s.blocked k o x).peerTable = s.peerTable := rfl
@[simp] theorem blocked_groups (s : State) (k o x : Nat) : (s.blocked k o x).groups = s.groups := rfl
@[simp] theorem blocked_ports (s : State) (k o x : Nat) : (s.blocked k o x).ports = s.ports := rfl
@[simp] theorem blocked_colls (s : State) (k o x : Nat) : (s.blocked k o x).colls = s.colls := rfl
@[simp] theorem blocked_rounds (s : State) (k o x : Nat) : (s.blocked k o x).rounds = s.rounds := rfl
@[simp] theorem blocked_lateFab (s : State) (k o x : Nat) : (s.blocked k o x).lateFab = s.lateFab := rfl
@[simp] theorem blocked_resGrant (s : State) (k o x : Nat) : (s.blocked k o x).resGrant = s.resGrant := rfl
@[simp] theorem blocked_homes (s : State) (k o x : Nat) : (s.blocked k o x).homes = s.homes := rfl
@[simp] theorem blocked_queues (s : State) (k o x : Nat) : (s.blocked k o x).queues = s.queues := rfl
@[simp] theorem blocked_launches (s : State) (k o x : Nat) : (s.blocked k o x).launches = s.launches := rfl
@[simp] theorem blocked_arrivals (s : State) (k o x : Nat) : (s.blocked k o x).arrivals = s.arrivals := rfl
@[simp] theorem blocked_decision (s : State) (k o x : Nat) : (s.blocked k o x).decision = s.decision := rfl
@[simp] theorem blocked_msix (s : State) (k o x : Nat) : (s.blocked k o x).msix = s.msix := rfl
@[simp] theorem blocked_replies (s : State) (k o x : Nat) : (s.blocked k o x).replies = s.replies := rfl
@[simp] theorem blocked_pages (s : State) (k o x : Nat) : (s.blocked k o x).pages = s.pages := rfl
@[simp] theorem blocked_peerPages (s : State) (k o x : Nat) : (s.blocked k o x).peerPages = s.peerPages := rfl
@[simp] theorem blocked_blocks (s : State) (k o x : Nat) : (s.blocked k o x).blocks = s.blocks := rfl
@[simp] theorem blocked_owed (s : State) (k o x : Nat) : (s.blocked k o x).owed = s.owed := rfl
@[simp] theorem blocked_plug (s : State) (k o x : Nat) : (s.blocked k o x).plug = s.plug := rfl
@[simp] theorem blocked_cur (s : State) (k o x : Nat) : (s.blocked k o x).cur = s.cur := rfl
@[simp] theorem blocked_ilen (s : State) (k o x : Nat) : (s.blocked k o x).ilen = s.ilen := rfl
@[simp] theorem blocked_turns (s : State) (k o x : Nat) : (s.blocked k o x).turns = s.turns := rfl
@[simp] theorem blocked_agenda (s : State) (k o x : Nat) : (s.blocked k o x).agenda = s.agenda := rfl
@[simp] theorem blocked_nextId (s : State) (k o x : Nat) : (s.blocked k o x).nextId = s.nextId := rfl
@[simp] theorem blocked_draws (s : State) (k o x : Nat) : (s.blocked k o x).draws = s.draws := rfl

/-! ### queueStore -/

@[simp] theorem queueStore_cyc (s : State) (e : QStore) : (s.queueStore e).cyc = s.cyc := rfl
@[simp] theorem queueStore_pkgNo (s : State) (e : QStore) : (s.queueStore e).pkgNo = s.pkgNo := rfl
@[simp] theorem queueStore_mem (s : State) (e : QStore) : (s.queueStore e).mem = s.mem := rfl
@[simp] theorem queueStore_tagged (s : State) (e : QStore) : (s.queueStore e).tagged = s.tagged := rfl
@[simp] theorem queueStore_poison (s : State) (e : QStore) : (s.queueStore e).poison = s.poison := rfl
@[simp] theorem queueStore_tagPoison (s : State) (e : QStore) : (s.queueStore e).tagPoison = s.tagPoison := rfl
@[simp] theorem queueStore_net (s : State) (e : QStore) : (s.queueStore e).net = s.net := rfl
@[simp] theorem queueStore_cores (s : State) (e : QStore) : (s.queueStore e).cores = s.cores := rfl
@[simp] theorem queueStore_clusters (s : State) (e : QStore) : (s.queueStore e).clusters = s.clusters := rfl
@[simp] theorem queueStore_dies (s : State) (e : QStore) : (s.queueStore e).dies = s.dies := rfl
@[simp] theorem queueStore_strLinks (s : State) (e : QStore) : (s.queueStore e).strLinks = s.strLinks := rfl
@[simp] theorem queueStore_texts (s : State) (e : QStore) : (s.queueStore e).texts = s.texts := rfl
@[simp] theorem queueStore_heldText (s : State) (e : QStore) : (s.queueStore e).heldText = s.heldText := rfl
@[simp] theorem queueStore_levelZero (s : State) (e : QStore) : (s.queueStore e).levelZero = s.levelZero := rfl
@[simp] theorem queueStore_partOf (s : State) (e : QStore) : (s.queueStore e).partOf = s.partOf := rfl
@[simp] theorem queueStore_windows (s : State) (e : QStore) : (s.queueStore e).windows = s.windows := rfl
@[simp] theorem queueStore_peerTable (s : State) (e : QStore) : (s.queueStore e).peerTable = s.peerTable := rfl
@[simp] theorem queueStore_groups (s : State) (e : QStore) : (s.queueStore e).groups = s.groups := rfl
@[simp] theorem queueStore_ports (s : State) (e : QStore) : (s.queueStore e).ports = s.ports := rfl
@[simp] theorem queueStore_colls (s : State) (e : QStore) : (s.queueStore e).colls = s.colls := rfl
@[simp] theorem queueStore_rounds (s : State) (e : QStore) : (s.queueStore e).rounds = s.rounds := rfl
@[simp] theorem queueStore_lateFab (s : State) (e : QStore) : (s.queueStore e).lateFab = s.lateFab := rfl
@[simp] theorem queueStore_resGrant (s : State) (e : QStore) : (s.queueStore e).resGrant = s.resGrant := rfl
@[simp] theorem queueStore_homes (s : State) (e : QStore) : (s.queueStore e).homes = s.homes := rfl
@[simp] theorem queueStore_queues (s : State) (e : QStore) : (s.queueStore e).queues = s.queues := rfl
@[simp] theorem queueStore_launches (s : State) (e : QStore) : (s.queueStore e).launches = s.launches := rfl
@[simp] theorem queueStore_arrivals (s : State) (e : QStore) : (s.queueStore e).arrivals = s.arrivals := rfl
@[simp] theorem queueStore_decision (s : State) (e : QStore) : (s.queueStore e).decision = s.decision := rfl
@[simp] theorem queueStore_msix (s : State) (e : QStore) : (s.queueStore e).msix = s.msix := rfl
@[simp] theorem queueStore_replies (s : State) (e : QStore) : (s.queueStore e).replies = s.replies := rfl
@[simp] theorem queueStore_pages (s : State) (e : QStore) : (s.queueStore e).pages = s.pages := rfl
@[simp] theorem queueStore_peerPages (s : State) (e : QStore) : (s.queueStore e).peerPages = s.peerPages := rfl
@[simp] theorem queueStore_blocks (s : State) (e : QStore) : (s.queueStore e).blocks = s.blocks := rfl
@[simp] theorem queueStore_owed (s : State) (e : QStore) : (s.queueStore e).owed = s.owed := rfl
@[simp] theorem queueStore_plug (s : State) (e : QStore) : (s.queueStore e).plug = s.plug := rfl
@[simp] theorem queueStore_cur (s : State) (e : QStore) : (s.queueStore e).cur = s.cur := rfl
@[simp] theorem queueStore_ilen (s : State) (e : QStore) : (s.queueStore e).ilen = s.ilen := rfl
@[simp] theorem queueStore_turns (s : State) (e : QStore) : (s.queueStore e).turns = s.turns := rfl
@[simp] theorem queueStore_agenda (s : State) (e : QStore) : (s.queueStore e).agenda = s.agenda := rfl
@[simp] theorem queueStore_nextId (s : State) (e : QStore) : (s.queueStore e).nextId = s.nextId := rfl
@[simp] theorem queueStore_draws (s : State) (e : QStore) : (s.queueStore e).draws = s.draws := rfl

/-! ### setPhase -/

@[simp] theorem setPhase_cyc (s : State) (p : Phase) : (s.setPhase p).cyc = s.cyc := rfl
@[simp] theorem setPhase_pkgNo (s : State) (p : Phase) : (s.setPhase p).pkgNo = s.pkgNo := rfl
@[simp] theorem setPhase_mem (s : State) (p : Phase) : (s.setPhase p).mem = s.mem := rfl
@[simp] theorem setPhase_tagged (s : State) (p : Phase) : (s.setPhase p).tagged = s.tagged := rfl
@[simp] theorem setPhase_poison (s : State) (p : Phase) : (s.setPhase p).poison = s.poison := rfl
@[simp] theorem setPhase_tagPoison (s : State) (p : Phase) : (s.setPhase p).tagPoison = s.tagPoison := rfl
@[simp] theorem setPhase_net (s : State) (p : Phase) : (s.setPhase p).net = s.net := rfl
@[simp] theorem setPhase_cores (s : State) (p : Phase) : (s.setPhase p).cores = s.cores := rfl
@[simp] theorem setPhase_clusters (s : State) (p : Phase) : (s.setPhase p).clusters = s.clusters := rfl
@[simp] theorem setPhase_dies (s : State) (p : Phase) : (s.setPhase p).dies = s.dies := rfl
@[simp] theorem setPhase_strLinks (s : State) (p : Phase) : (s.setPhase p).strLinks = s.strLinks := rfl
@[simp] theorem setPhase_texts (s : State) (p : Phase) : (s.setPhase p).texts = s.texts := rfl
@[simp] theorem setPhase_heldText (s : State) (p : Phase) : (s.setPhase p).heldText = s.heldText := rfl
@[simp] theorem setPhase_levelZero (s : State) (p : Phase) : (s.setPhase p).levelZero = s.levelZero := rfl
@[simp] theorem setPhase_partOf (s : State) (p : Phase) : (s.setPhase p).partOf = s.partOf := rfl
@[simp] theorem setPhase_windows (s : State) (p : Phase) : (s.setPhase p).windows = s.windows := rfl
@[simp] theorem setPhase_peerTable (s : State) (p : Phase) : (s.setPhase p).peerTable = s.peerTable := rfl
@[simp] theorem setPhase_groups (s : State) (p : Phase) : (s.setPhase p).groups = s.groups := rfl
@[simp] theorem setPhase_ports (s : State) (p : Phase) : (s.setPhase p).ports = s.ports := rfl
@[simp] theorem setPhase_colls (s : State) (p : Phase) : (s.setPhase p).colls = s.colls := rfl
@[simp] theorem setPhase_rounds (s : State) (p : Phase) : (s.setPhase p).rounds = s.rounds := rfl
@[simp] theorem setPhase_lateFab (s : State) (p : Phase) : (s.setPhase p).lateFab = s.lateFab := rfl
@[simp] theorem setPhase_resGrant (s : State) (p : Phase) : (s.setPhase p).resGrant = s.resGrant := rfl
@[simp] theorem setPhase_homes (s : State) (p : Phase) : (s.setPhase p).homes = s.homes := rfl
@[simp] theorem setPhase_queues (s : State) (p : Phase) : (s.setPhase p).queues = s.queues := rfl
@[simp] theorem setPhase_launches (s : State) (p : Phase) : (s.setPhase p).launches = s.launches := rfl
@[simp] theorem setPhase_arrivals (s : State) (p : Phase) : (s.setPhase p).arrivals = s.arrivals := rfl
@[simp] theorem setPhase_decision (s : State) (p : Phase) : (s.setPhase p).decision = s.decision := rfl
@[simp] theorem setPhase_msix (s : State) (p : Phase) : (s.setPhase p).msix = s.msix := rfl
@[simp] theorem setPhase_replies (s : State) (p : Phase) : (s.setPhase p).replies = s.replies := rfl
@[simp] theorem setPhase_pages (s : State) (p : Phase) : (s.setPhase p).pages = s.pages := rfl
@[simp] theorem setPhase_peerPages (s : State) (p : Phase) : (s.setPhase p).peerPages = s.peerPages := rfl
@[simp] theorem setPhase_blocks (s : State) (p : Phase) : (s.setPhase p).blocks = s.blocks := rfl
@[simp] theorem setPhase_owed (s : State) (p : Phase) : (s.setPhase p).owed = s.owed := rfl
@[simp] theorem setPhase_plug (s : State) (p : Phase) : (s.setPhase p).plug = s.plug := rfl
@[simp] theorem setPhase_cur (s : State) (p : Phase) : (s.setPhase p).cur = s.cur := rfl
@[simp] theorem setPhase_ilen (s : State) (p : Phase) : (s.setPhase p).ilen = s.ilen := rfl
@[simp] theorem setPhase_turns (s : State) (p : Phase) : (s.setPhase p).turns = s.turns := rfl
@[simp] theorem setPhase_agenda (s : State) (p : Phase) : (s.setPhase p).agenda = s.agenda := rfl
@[simp] theorem setPhase_nextId (s : State) (p : Phase) : (s.setPhase p).nextId = s.nextId := rfl
@[simp] theorem setPhase_draws (s : State) (p : Phase) : (s.setPhase p).draws = s.draws := rfl

/-! ## Reading a unit back -/

@[simp] theorem ctxAt_updCtx_self (s : State) (g : Nat) (f : Ctx → Ctx) : (s.updCtx g f).ctxAt g = f (s.ctxAt g) :=
  Tab.get_put_self _ _ _ _
theorem ctxAt_updCtx_ne (s : State) (g h : Nat) (f : Ctx → Ctx) (n : h ≠ g) : (s.updCtx g f).ctxAt h = s.ctxAt h :=
  Tab.get_put_ne _ _ _ _ _ n
@[simp] theorem me_updMe (s : State) (f : Ctx → Ctx) : (s.updMe f).me = f s.me := Tab.get_put_self _ _ _ _
theorem ctxAt_updMe_ne (s : State) (h : Nat) (f : Ctx → Ctx) (n : h ≠ s.cur) : (s.updMe f).ctxAt h = s.ctxAt h :=
  Tab.get_put_ne _ _ _ _ _ n
@[simp] theorem coreAt_updCore_self (s : State) (c : Nat) (f : Core → Core) : (s.updCore c f).coreAt c = f (s.coreAt c) :=
  Tab.get_put_self _ _ _ _
theorem coreAt_updCore_ne (s : State) (c d : Nat) (f : Core → Core) (n : d ≠ c) : (s.updCore c f).coreAt d = s.coreAt d :=
  Tab.get_put_ne _ _ _ _ _ n
@[simp] theorem cluAt_updClu_self (s : State) (c : Nat) (f : Cluster → Cluster) : (s.updClu c f).cluAt c = f (s.cluAt c) :=
  Tab.get_put_self _ _ _ _
theorem cluAt_updClu_ne (s : State) (c d : Nat) (f : Cluster → Cluster) (n : d ≠ c) : (s.updClu c f).cluAt d = s.cluAt d :=
  Tab.get_put_ne _ _ _ _ _ n
@[simp] theorem dieAt_updDie_self (s : State) (c : Nat) (f : Die → Die) : (s.updDie c f).dieAt c = f (s.dieAt c) :=
  Tab.get_put_self _ _ _ _
theorem dieAt_updDie_ne (s : State) (c d : Nat) (f : Die → Die) (n : d ≠ c) : (s.updDie c f).dieAt d = s.dieAt d :=
  Tab.get_put_ne _ _ _ _ _ n
@[simp] theorem me_updCore (s : State) (c : Nat) (f : Core → Core) : (s.updCore c f).me = s.me := rfl
@[simp] theorem me_updMyCore (s : State) (f : Core → Core) : (s.updMyCore f).me = s.me := rfl
@[simp] theorem me_updClu (s : State) (c : Nat) (f : Cluster → Cluster) : (s.updClu c f).me = s.me := rfl
@[simp] theorem me_updDie (s : State) (c : Nat) (f : Die → Die) : (s.updDie c f).me = s.me := rfl
@[simp] theorem me_gone (s : State) (id : Nat) : (s.gone id).me = s.me := rfl
@[simp] theorem me_updMsg (s : State) (id : Nat) (f : Msg → Msg) : (s.updMsg id f).me = s.me := rfl
@[simp] theorem me_unpoison (s : State) (a n : Nat) : (s.unpoison a n).me = s.me := rfl
@[simp] theorem me_store (s : State) (l : Word) (a : Nat) (b : List Byte) : (s.store l a b).me = s.me := rfl
@[simp] theorem ctxAt_store (s : State) (l : Word) (a : Nat) (b : List Byte) (g : Nat) : (s.store l a b).ctxAt g = s.ctxAt g := rfl

/-! ## Registers (R82) -/

/-- Register g0 reads as zero, DATA, FULL. -/
@[simp] theorem regAt_zero (c : Ctx) : c.regAt 0 = {} := rfl

theorem regAt_setRegAt (c : Ctx) (k j : Nat) (r : GReg) :
    (c.setRegAt k r).regAt j = if j = k ∧ 0 < k ∧ k < 72 then r else c.regAt j := by
  unfold Ctx.setRegAt
  split
  · next h =>
    by_cases hj : j = k
    · subst hj; simp [Ctx.regAt, h]
    · simp only [hj, false_and, if_false, Ctx.regAt]
      split
      · rw [Vector.getElem_set_ne]; exact fun e => hj e.symm
      · rfl
  · next h => rw [if_neg (fun x => h ⟨x.2.1, x.2.2⟩)]

@[simp] theorem setRegAt_level (c : Ctx) (k : Nat) (r : GReg) : (c.setRegAt k r).level = c.level := by
  unfold Ctx.setRegAt; split <;> rfl

/-- A write to a register changes nothing but the register file. -/
theorem setRegAt_like (c : Ctx) (k : Nat) (r : GReg) : c.setRegAt k r = { c with regs := (c.setRegAt k r).regs } := by
  unfold Ctx.setRegAt; split <;> rfl

@[simp] theorem wr_level (c : Ctx) (n : Nat) (v : Quad) (t : Tag) : (c.wr n v t).level = c.level := setRegAt_level _ _ _

@[simp] theorem wr_ix (c : Ctx) (n m : Nat) (v : Quad) (t : Tag) : (c.wr n v t).ix m = c.ix m := by simp [Ctx.ix]

/-- A write to register n: it holds the value, FULL and unarmed; g0 discards it; the others stay. -/
theorem regAt_wr (c : Ctx) (n j : Nat) (v : Quad) (t : Tag) :
    (c.wr n v t).regAt j = if j = c.ix n ∧ 0 < c.ix n ∧ c.ix n < 72 then { bits := v, tag := t } else c.regAt j :=
  regAt_setRegAt _ _ _ _

theorem regAt_clear (l : List Nat) (c : Ctx) (j : Nat) :
    (l.foldl (fun c k => c.setRegAt k {}) c).regAt j = if j ∈ l then {} else c.regAt j := by
  induction l generalizing c with
  | nil => simp
  | cons k t ih =>
    rw [List.foldl_cons, ih, regAt_setRegAt]
    by_cases hj : j = k
    · subst hj
      by_cases hk : 0 < j ∧ j < 72
      · simp [hk]
      · simp [hk, Ctx.regAt]
    · simp [hj]

/-- Raising a recorded fault consumes its record (R87): the register and every other one that holds the same record are FULL, zero and DATA; the
others stay. -/
theorem regAt_consume (c : Ctx) (k j : Nat) :
    (c.consume k).regAt j = if j = k ∨ (j ∈ (c.regAt k).window ∧ (c.regAt j).fault = (c.regAt k).fault ∧ (c.regAt j).window = (c.regAt k).window)
      then {} else c.regAt j := by
  unfold Ctx.consume
  rw [regAt_clear]
  simp [List.mem_filter]

theorem wr_zero (c : Ctx) (v : Quad) (t : Tag) : c.wr 0 v t = c := by
  simp [Ctx.wr, Ctx.ix, Ctx.setRegAt]

theorem ix_lt (c : Ctx) (n : Nat) (h : n < 64) : c.ix n < 72 := by unfold Ctx.ix; split <;> omega

theorem ix_pos (c : Ctx) (n : Nat) (h : 0 < n) : 0 < c.ix n := by unfold Ctx.ix; split <;> omega

/-- Two register numbers name one register only when they are equal. -/
theorem ix_inj (c : Ctx) (n m : Nat) (hn : n < 64) (hm : m < 64) (h : c.ix n = c.ix m) : n = m := by
  unfold Ctx.ix at h; split at h <;> split at h <;> omega

theorem reg_wr_self (c : Ctx) (n : Nat) (v : Quad) (t : Tag) (h0 : 0 < n) (h1 : n < 64) : (c.wr n v t).reg n = { bits := v, tag := t } := by
  simp [Ctx.reg, regAt_wr, ix_lt c n h1, ix_pos c n h0]

theorem reg_wr_ne (c : Ctx) (n m : Nat) (v : Quad) (t : Tag) (hn : n < 64) (hm : m < 64) (h : m ≠ n) : (c.wr n v t).reg m = c.reg m := by
  have : c.ix m ≠ c.ix n := fun e => h (ix_inj c m n hm hn e)
  simp [Ctx.reg, regAt_wr, this]

theorem wrList_level (c : Ctx) (n : Nat) (l : List (Quad × Tag)) : (c.wrList n l).level = c.level := by
  induction l generalizing c n with
  | nil => rfl
  | cons e t ih => obtain ⟨v, g⟩ := e; simp [Ctx.wrList, ih]

/-- A write to a window changes no register outside it. -/
theorem regAt_wrList_ne (c : Ctx) (n k : Nat) (l : List (Quad × Tag)) (h : ∀ i, i < l.length → k ≠ c.ix (n + i)) :
    (c.wrList n l).regAt k = c.regAt k := by
  induction l generalizing c n with
  | nil => rfl
  | cons e t ih =>
    obtain ⟨v, g⟩ := e
    simp only [Ctx.wrList]
    rw [ih (c.wr n v g) (n + 1) (fun i hi => by
      rw [wr_ix]; have := h (i + 1) (by simpa using hi); simpa [Nat.add_assoc, Nat.add_comm 1 i] using this)]
    have := h 0 (by simp)
    rw [regAt_wr, if_neg (fun x => this (by simpa using x.1))]

@[simp] theorem setMask_regs (c : Ctx) (n : Nat) (v : BitVec 16) : (c.setMask n v).regs = c.regs := by
  unfold Ctx.setMask; split <;> rfl

/-- Mask m0 reads as all ones, whatever is written. -/
@[simp] theorem mask_zero (c : Ctx) : c.mask 0 = 0xFFFF := rfl

theorem mask_setMask (c : Ctx) (n m : Nat) (v : BitVec 16) :
    (c.setMask n v).mask m = if m = n ∧ 0 < n ∧ n < 8 then v else c.mask m := by
  unfold Ctx.setMask
  split
  · next h =>
    by_cases hm : m = n
    · subst hm; simp [Ctx.mask, h]
    · simp only [hm, false_and, if_false, Ctx.mask]
      split
      · rw [Vector.getElem_set_ne]; exact fun e => hm e.symm
      · rfl
  · next h => rw [if_neg (fun x => h ⟨x.2.1, x.2.2⟩)]

end Sys2Proof.Machine
end

