-- ==== Sys2Proof/Laws/Memory.lean ====
section
/-! SUPPORT. Memory.lean: a read after a write, what a write leaves alone, and that every memory operation keeps the canonical form. -/

namespace Sys2Proof.Machine

/-! ## The canonical form -/

theorem wf_tail {c : Host.Cell} {t : List Host.Cell} (h : Memory.wf (c :: t) = true) : Memory.wf t = true := by
  cases t with
  | nil => rfl
  | cons d t => simp only [Memory.wf, Bool.and_eq_true] at h; exact h.2

theorem wf_head {c : Host.Cell} {t : List Host.Cell} (h : Memory.wf (c :: t) = true) : c.2 ≠ Memory.blank := by
  cases t with
  | nil => simpa [Memory.wf] using h
  | cons d t => simp only [Memory.wf, Bool.and_eq_true, bne_iff_ne] at h; exact h.1.1

/-- Every later entry stands at a higher address. -/
theorem wf_lt {c : Host.Cell} {t : List Host.Cell} (h : Memory.wf (c :: t) = true) : ∀ d ∈ t, c.1 < d.1 := by
  induction t generalizing c with
  | nil => simp
  | cons e t ih =>
    have h1 : c.1 < e.1 := by simp only [Memory.wf, Bool.and_eq_true, decide_eq_true_eq] at h; exact h.1.2
    intro d hd
    rcases List.mem_cons.1 hd with rfl | hd
    · exact h1
    · exact Nat.lt_trans h1 (ih (wf_tail h) d hd)

theorem wf_cons {c : Host.Cell} {t : List Host.Cell} (h0 : c.2 ≠ Memory.blank) (h1 : ∀ d ∈ t, c.1 < d.1) (ht : Memory.wf t = true) :
    Memory.wf (c :: t) = true := by
  cases t with
  | nil => simp [Memory.wf, h0]
  | cons d t => simp [Memory.wf, h0, h1 d (by simp), ht]

/-- The addresses that a write leaves or adds. -/
theorem mem_write {m : List Host.Cell} {a : Nat} {b : Byte} {d : Host.Cell} (h : d ∈ Memory.write m a b) : d ∈ m ∨ d.1 = a := by
  induction m with
  | nil => simp only [Memory.write] at h; split at h <;> simp_all
  | cons c t ih =>
    simp only [Memory.write] at h
    split at h
    · split at h
      · exact .inl h
      · rcases List.mem_cons.1 h with rfl | h
        · exact .inr rfl
        · exact .inl h
    · split at h
      · split at h
        · exact .inl (List.mem_cons_of_mem _ h)
        · rcases List.mem_cons.1 h with rfl | h
          · exact .inr rfl
          · exact .inl (List.mem_cons_of_mem _ h)
      · rcases List.mem_cons.1 h with rfl | h
        · exact .inl (by simp)
        · rcases ih h with h | h
          · exact .inl (List.mem_cons_of_mem _ h)
          · exact .inr h

theorem write_wf (m : List Host.Cell) (a : Nat) (b : Byte) (h : Memory.wf m = true) : Memory.wf (Memory.write m a b) = true := by
  induction m with
  | nil => simp only [Memory.write]; split <;> simp_all [Memory.wf]
  | cons c t ih =>
    simp only [Memory.write]
    split
    · next hlt =>
      split
      · exact h
      · next hb =>
        refine wf_cons hb (fun d hd => ?_) h
        rcases List.mem_cons.1 hd with rfl | hd
        · exact hlt
        · exact Nat.lt_trans hlt (wf_lt h d hd)
    · split
      · next heq =>
        split
        · exact wf_tail h
        · next hb => exact wf_cons hb (fun d hd => by have := wf_lt h d hd; simp only at this ⊢; omega) (wf_tail h)
      · next h1 h2 =>
        refine wf_cons (wf_head h) (fun d hd => ?_) (ih (wf_tail h))
        rcases mem_write hd with hd | hd
        · exact wf_lt h d hd
        · omega

theorem writeL_wf (m : List Host.Cell) (a : Nat) (bs : List Byte) (h : Memory.wf m = true) : Memory.wf (Memory.writeL m a bs) = true := by
  induction bs generalizing m a with
  | nil => exact h
  | cons b t ih => exact ih _ _ (write_wf _ _ _ h)

theorem filter_wf (m : List Host.Cell) (f : Host.Cell → Bool) (h : Memory.wf m = true) : Memory.wf (m.filter f) = true := by
  induction m with
  | nil => rfl
  | cons c t ih =>
    simp only [List.filter_cons]
    split
    · exact wf_cons (wf_head h) (fun d hd => wf_lt h d (List.mem_filter.1 hd).1) (ih (wf_tail h))
    · exact ih (wf_tail h)

theorem foldl_write_wf (cells : List Host.Cell) (m : List Host.Cell) (h : Memory.wf m = true) :
    Memory.wf (cells.foldl (fun m c => Memory.write m c.1 c.2) m) = true := by
  induction cells generalizing m with
  | nil => exact h
  | cons c t ih => exact ih _ (write_wf _ _ _ h)

/-! ## Reads after writes -/

theorem read_below {c : Nat} {m : List Host.Cell} (h : ∀ d ∈ m, c < d.1) : Memory.read m c = Memory.blank := by
  cases m with
  | nil => rfl
  | cons d t => have := h d (by simp); simp only [Memory.read]; rw [if_neg (by omega), if_pos this]

theorem read_write_self (m : List Host.Cell) (a : Nat) (b : Byte) (h : Memory.wf m = true) : Memory.read (Memory.write m a b) a = b := by
  induction m with
  | nil => simp only [Memory.write]; split <;> simp_all [Memory.read]
  | cons c t ih =>
    simp only [Memory.write]
    split
    · next hlt =>
      split
      · next hb => simp only [Memory.read]; rw [if_neg (by omega), if_pos hlt, hb]
      · simp [Memory.read]
    · split
      · next h1 heq =>
        split
        · next hb => rw [hb]; exact read_below (fun d hd => by have := wf_lt h d hd; omega)
        · simp [Memory.read]
      · next h1 h2 => simp only [Memory.read]; rw [if_neg h2, if_neg h1]; exact ih (wf_tail h)

theorem read_write_ne (m : List Host.Cell) (a x : Nat) (b : Byte) (h : Memory.wf m = true) (hx : x ≠ a) :
    Memory.read (Memory.write m a b) x = Memory.read m x := by
  induction m with
  | nil => simp only [Memory.write]; split <;> simp [Memory.read, Ne.symm hx]
  | cons c t ih =>
    simp only [Memory.write]
    split
    · next hlt =>
      split
      · rfl
      · simp only [Memory.read, if_neg (Ne.symm hx)]
        split
        · rw [if_neg (by omega), if_pos (by omega)]
        · rfl
    · split
      · next h1 heq =>
        split
        · simp only [Memory.read]
          rw [if_neg (by omega)]
          split
          · exact read_below (fun d hd => by have := wf_lt h d hd; omega)
          · rfl
        · simp only [Memory.read]
          rw [if_neg (Ne.symm hx), if_neg (show ¬ c.1 = x by omega)]
          simp only [← heq]
      · simp only [Memory.read]
        split
        · rfl
        · split
          · rfl
          · exact ih (wf_tail h)

theorem read_writeL_out (m : List Host.Cell) (a : Nat) (bs : List Byte) (h : Memory.wf m = true) (x : Nat) (hx : x < a ∨ a + bs.length ≤ x) :
    Memory.read (Memory.writeL m a bs) x = Memory.read m x := by
  induction bs generalizing m a with
  | nil => rfl
  | cons b t ih =>
    simp only [Memory.writeL, List.length_cons] at *
    rw [ih _ _ (write_wf _ _ _ h) (by omega), read_write_ne _ _ _ _ h (by omega)]

theorem read_writeL_in (m : List Host.Cell) (a : Nat) (bs : List Byte) (h : Memory.wf m = true) (i : Nat) (hi : i < bs.length) :
    Memory.read (Memory.writeL m a bs) (a + i) = bs[i] := by
  induction bs generalizing m a i with
  | nil => simp at hi
  | cons b t ih =>
    simp only [Memory.writeL]
    cases i with
    | zero => rw [read_writeL_out _ _ _ (write_wf _ _ _ h) _ (by omega)]; simpa using read_write_self m a b h
    | succ j =>
      have := ih (Memory.write m a b) (a + 1) (write_wf _ _ _ h) j (by simpa using hi)
      simpa [Nat.add_assoc, Nat.add_comm 1 j] using this

theorem readL_length (m : List Host.Cell) (a n : Nat) : (Memory.readL m a n).length = n := by
  induction n generalizing a with
  | zero => rfl
  | succ n ih => simp [Memory.readL, ih]

theorem readL_congr (m k : List Host.Cell) (a n : Nat) (h : ∀ x, a ≤ x → x < a + n → Memory.read m x = Memory.read k x) :
    Memory.readL m a n = Memory.readL k a n := by
  induction n generalizing a with
  | zero => rfl
  | succ n ih => simp only [Memory.readL]; rw [h a (by omega) (by omega), ih (a + 1) (fun x h1 h2 => h x (by omega) (by omega))]

/-- Reading what was written gives it back. -/
theorem readL_writeL_self (m : List Host.Cell) (a : Nat) (bs : List Byte) (h : Memory.wf m = true) :
    Memory.readL (Memory.writeL m a bs) a bs.length = bs := by
  induction bs generalizing m a with
  | nil => rfl
  | cons b t ih =>
    simp only [Memory.writeL, List.length_cons, Memory.readL]
    rw [ih _ _ (write_wf _ _ _ h), read_writeL_out _ _ _ (write_wf _ _ _ h) _ (by omega), read_write_self _ _ _ h]

theorem readL_writeL_out (m : List Host.Cell) (a : Nat) (bs : List Byte) (h : Memory.wf m = true) (x n : Nat)
    (hx : x + n ≤ a ∨ a + bs.length ≤ x) : Memory.readL (Memory.writeL m a bs) x n = Memory.readL m x n :=
  readL_congr _ _ _ _ (fun y h1 h2 => read_writeL_out _ _ _ h _ (by omega))

/-! ## The operations of the machine keep the form -/

theorem store_mem (s : State) (l : Word) (a : Nat) (bs : List Byte) : (s.store l a bs).mem = Memory.writeL s.mem a bs := rfl
theorem storeGran_mem (s : State) (l : Word) (a : Nat) (bs : List Byte) : (s.storeGran l a bs).mem = Memory.writeL s.mem a bs := rfl
/-- A store to the own scratchpad enters the store queue: memory changes when it is performed (R177). -/
theorem ownWrite_mem (s : State) (a : Word) (bs : List Byte) : (ownWrite s a bs).mem = s.mem := rfl
theorem ownWrite_storeq (s : State) (a : Word) (bs : List Byte) :
    (ownWrite s a bs).me.storeq = s.me.storeq ++ [{ lid := s.me.lid, off := a.toNat % 2 ^ 19, bytes := bs }] :=
  congrArg Ctx.storeq (me_updMe s _)
theorem rawWrite_mem (s : State) (c o : Nat) (bs : List Byte) : (s.rawWrite c o bs).mem = Memory.writeL s.mem (spad c o) bs := rfl
theorem placeCode_mem (s : State) (bs : List Byte) : (s.placeCode bs).mem = Memory.writeL s.mem 0x10000 bs := rfl

theorem store_inv (s : State) (l : Word) (a : Nat) (bs : List Byte) (h : s.Inv) : (s.store l a bs).Inv := writeL_wf _ _ _ h
theorem storeGran_inv (s : State) (l : Word) (a : Nat) (bs : List Byte) (h : s.Inv) : (s.storeGran l a bs).Inv := writeL_wf _ _ _ h
theorem rawWrite_inv (s : State) (c o : Nat) (bs : List Byte) (h : s.Inv) : (s.rawWrite c o bs).Inv := writeL_wf _ _ _ h
theorem putCells_inv (s : State) (cells : List Host.Cell) (h : s.Inv) : (s.putCells cells).Inv := foldl_write_wf _ _ h
theorem zeroBank_inv (s : State) (c b : Nat) (h : s.Inv) : (s.zeroBank c b).Inv := filter_wf _ _ h
theorem placeCode_inv (s : State) (bs : List Byte) (h : s.Inv) : (s.placeCode bs).Inv := writeL_wf _ _ _ h
theorem resetPackage_inv (s : State) (h : s.Inv) : s.resetPackage.Inv := filter_wf _ _ h

/-- Folding a function that keeps the form keeps the form. -/
theorem foldl_inv {α : Type} (f : State → α → State) (hf : ∀ s x, s.Inv → (f s x).Inv) (l : List α) (s : State) (h : s.Inv) :
    (l.foldl f s).Inv := by
  induction l generalizing s with
  | nil => exact h
  | cons x t ih => exact ih _ (hf _ _ h)

/-- A state with the same memory is as canonical. -/
theorem inv_of_mem {s t : State} (h : t.mem = s.mem) (hs : s.Inv) : t.Inv := by unfold State.Inv at *; rw [h]; exact hs

theorem ownWrite_inv (s : State) (a : Word) (bs : List Byte) (h : s.Inv) : (ownWrite s a bs).Inv := inv_of_mem (ownWrite_mem s a bs) h

/-! ## The store queue (R177) -/

theorem laneWrite_inv (s : State) (l : Word) (c o : Nat) (t : VTy) (v : BitVec 32) (h : s.Inv) : (laneWrite s l c o t v).1.Inv := by
  unfold laneWrite
  split
  · exact store_inv _ _ _ _ h
  · exact store_inv _ _ _ _ h

/-- Performing a queued store keeps the form. -/
theorem perform_inv (s : State) (c : Nat) (e : QStore) (h : s.Inv) : (s.perform c e).Inv := by
  unfold State.perform
  split
  · exact store_inv _ _ _ _ h
  · exact storeGran_inv _ _ _ _ h
  · exact laneWrite_inv _ _ _ _ _ _ h

theorem drain_inv (s : State) (g : Nat) (h : s.Inv) : (s.drain g).Inv := by
  unfold State.drain
  split
  · exact h
  · exact perform_inv _ _ _ h

theorem view_inv (s : State) (g : Nat) (h : s.Inv) : (s.view g).Inv := foldl_inv _ (fun _ _ => perform_inv _ _ _) _ _ h

/-- With an empty queue a context sees memory as it is. -/
theorem view_empty (s : State) (g : Nat) (h : (s.ctxAt g).storeq = []) : s.view g = s := by simp [State.view, h]

/-- What a context sees after it has queued a store is what it saw, with the store performed. -/
theorem mine_queueStore (s : State) (e : QStore) :
    (s.queueStore e).mine = (s.me.storeq.foldl (fun t x => t.perform (s.cur / 4) x) (s.queueStore e)).perform (s.cur / 4) e := by
  have : (s.queueStore e).me.storeq = s.me.storeq ++ [e] := congrArg Ctx.storeq (me_updMe s _)
  show (s.queueStore e).me.storeq.foldl (fun t x => t.perform (s.cur / 4) x) (s.queueStore e) = _
  rw [this, List.foldl_append]; rfl

theorem bytes_perform_mem (s : State) (c : Nat) (e : QStore) (h : e.kind = .bytes) :
    (s.perform c e).mem = Memory.writeL s.mem (spad c e.off) e.bytes := by simp [State.perform, h, State.store, State.unpoison]

theorem poolWrite_inv (s : State) (c o : Nat) (bs : List Byte) (h : s.Inv) : (s.poolWrite c o bs).Inv := by
  unfold State.poolWrite
  split
  · exact h
  refine foldl_inv _ (fun t x ht => ?_) _ _ h
  split
  · exact ht
  · exact store_inv _ _ _ _ ht

@[simp] theorem noteVa_mem (s : State) (l v : Word) (loc : Nat) (bs : List Byte) : (s.noteVa l v loc bs).mem = s.mem := by
  unfold State.noteVa; split <;> rfl

theorem noteVa_inv (s : State) (l v : Word) (loc : Nat) (bs : List Byte) (h : s.Inv) : (s.noteVa l v loc bs).Inv :=
  inv_of_mem (noteVa_mem s l v loc bs) h

/-- A delivery, or a write of the spatial unit to a pool slot, that meets a resident bank writes nothing (R164). -/
theorem poolWrite_resident (s : State) (c o : Nat) (bs : List Byte) (h : ((s.coreAt c).resAt o bs.length).isSome = true) :
    s.poolWrite c o bs = s := by unfold State.poolWrite; rw [if_pos h]

/-- An addition to a counter is owed while its line is locked for a group, and made else (R402). -/
theorem bump_locked (s : State) (a off n : Nat) (h : s.lineLocked s.pkgNo (a + off) 8 = true) :
    s.bump a off n = { s with owed := s.owed ++ [(a + off, n)] } := by simp [State.bump, h]

theorem bump_free (s : State) (a off n : Nat) (h : s.lineLocked s.pkgNo (a + off) 8 = false) :
    s.bump a off n = s.store 0 (a + off) (leBytes 8 (s.numAt (a + off) 8 + n)) := by simp [State.bump, h]

theorem bump_inv (s : State) (a off n : Nat) (h : s.Inv) : (s.bump a off n).Inv := by
  unfold State.bump
  split
  · exact h
  · exact store_inv _ _ _ _ h

theorem payOwed_inv (s : State) (h : s.Inv) : s.payOwed.Inv := by
  unfold State.payOwed
  exact foldl_inv _ (fun t e ht => bump_inv t e.1 0 e.2 ht) _ _ (inv_of_mem rfl h)

theorem payOwed_none (s : State) (h : s.owed = []) : s.payOwed = s := by
  have : ({ s with owed := [] } : State) = s := by rw [← h]
  simp [State.payOwed, h, this]

theorem cpStore_inv (s : State) (l : Word) (loc : Nat) (bs : List Byte) (h : s.Inv) : (s.cpStore l loc bs).Inv := by
  unfold State.cpStore
  split
  · exact inv_of_mem rfl (store_inv s l loc bs h)
  · exact store_inv s l loc bs h

theorem publishAt_inv (s : State) (key gid : Nat) (h : s.Inv) : (s.publishAt key gid).Inv :=
  foldl_inv (fun (t : State) (e : Staged) => ((t.unpoison (t.pkgLoc (key / 32) e.phys) e.bytes.length).store e.lid
    (t.pkgLoc (key / 32) e.phys) e.bytes).noteVa e.lid e.va (t.pkgLoc (key / 32) e.phys) e.bytes)
    (fun _ _ h => noteVa_inv _ _ _ _ _ (store_inv _ _ _ _ h)) _ _ h

end Sys2Proof.Machine
end

