-- ==== Sys2Proof/Laws/Ops.lean ====
section
/-! SUPPORT. Ops.lean: how instructions end, taking an exception, control transfers, the return stack and waits for replies: what each shared
operation can do. -/

namespace Sys2Proof.Machine

/-! ## The steps of an instruction -/

@[simp] theorem ok_bind {α β : Type} (x : α) (f : α → Ex β) : (bind (Except.ok x : Ex α) f) = f x := rfl
@[simp] theorem error_bind {α β : Type} (e : Stop) (f : α → Ex β) : (bind (Except.error e : Ex α) f) = .error e := rfl
@[simp] theorem check_true (c : Cause) (v : Word) : check true c v = .ok () := rfl
@[simp] theorem check_false (c : Cause) (v : Word) : check false c v = .error (.trap c v) := rfl

/-- A step that passes goes on with its value. -/
theorem bind_ok_iff {α β : Type} (x : Ex α) (f : α → Ex β) (r : β) : (bind x f = .ok r) ↔ ∃ a, x = .ok a ∧ f a = .ok r := by
  cases x with
  | ok a => exact ⟨fun h => ⟨a, rfl, h⟩, fun ⟨b, hb, h⟩ => by cases hb; exact h⟩
  | error e => exact ⟨(nomatch ·), fun ⟨_, hb, _⟩ => (nomatch hb)⟩

@[simp] theorem settle_ok (s t : State) : s.settle (.ok t) = .next t.endNext := rfl
@[simp] theorem settle_trap (s : State) (c : Cause) (v : Word) : s.settle (.error (.trap c v)) = .next (s.takeTrap s.cur c v false s.ilen) := rfl
@[simp] theorem settle_report (s : State) (c : Cause) (v : Word) (t : State) :
    s.settle (.error (.report c v t)) = .next (t.takeTrap t.cur c v true t.ilen) := rfl
@[simp] theorem settle_post (s : State) (c : Cause) (v : Word) (t : State) :
    s.settle (.error (.post c v t)) = .next (t.takeTrap t.cur c v false t.ilen) := rfl
@[simp] theorem settle_wait (s : State) (k o x : Nat) (t : State) : s.settle (.error (.wait k o t x)) = .next (t.blocked k o x) := rfl
@[simp] theorem settle_stall (s t : State) : s.settle (.error (.stall t)) = .next (t.updMe (fun c => { c with wait := none })) := rfl
@[simp] theorem settle_over (s t : State) : s.settle (.error (.over t)) = .next t := rfl

/-- Every instruction that settles answers a next state. -/
theorem settle_next (s : State) (x : Ex State) : ∃ t, s.settle x = .next t := by
  cases x with
  | ok t => exact ⟨_, rfl⟩
  | error e => cases e <;> exact ⟨_, rfl⟩

/-! ## Completing -/

@[simp] theorem endAt_me (s : State) (p : PcAddr) : (s.endAt p).me = s.me.complete p := me_updMe _ _
@[simp] theorem endNext_me (s : State) : s.endNext.me = s.me.complete s.nextPc := me_updMe _ _
@[simp] theorem complete_pc (c : Ctx) (p : PcAddr) : (c.complete p).pc = p := rfl
@[simp] theorem complete_regs (c : Ctx) (p : PcAddr) : (c.complete p).regs = c.regs := rfl
@[simp] theorem complete_masks (c : Ctx) (p : PcAddr) : (c.complete p).masks = c.masks := rfl
@[simp] theorem complete_level (c : Ctx) (p : PcAddr) : (c.complete p).level = c.level := rfl
@[simp] theorem complete_fcs (c : Ctx) (p : PcAddr) : (c.complete p).fcs = c.fcs := rfl
@[simp] theorem complete_regAt (c : Ctx) (p : PcAddr) (k : Nat) : (c.complete p).regAt k = c.regAt k := rfl
@[simp] theorem complete_reg (c : Ctx) (p : PcAddr) (k : Nat) : (c.complete p).reg k = c.reg k := rfl
@[simp] theorem complete_mask (c : Ctx) (p : PcAddr) (k : Nat) : (c.complete p).mask k = c.mask k := rfl
@[simp] theorem complete_lane (c : Ctx) (p : PcAddr) (n i : Nat) : (c.complete p).lane n i = c.lane n i := rfl

/-! ## Taking an exception (R74, R76) -/

/-- Outside a multi-step instruction, an exception that is no double trap changes the context alone, as R74 says. -/
theorem takeTrap_enter (s : State) (g : Nat) (c : Cause) (v : Word) (as : Bool) (n : Nat) (hd : (s.ctxAt g).doubleTrap = false)
    (hp : (s.ctxAt g).phase = .idle) : s.takeTrap g c v as n = s.updCtx g (fun k => k.enterTrap c v as n) := by
  simp [State.takeTrap, hd, hp]

theorem takeTrap_double (s : State) (g : Nat) (c : Cause) (v : Word) (as : Bool) (n : Nat) (hd : (s.ctxAt g).doubleTrap = true) :
    s.takeTrap g c v as n = s.abandon g 3 c.code.toNat := by
  simp [State.takeTrap, hd]

@[simp] theorem enterTrap_regs (c : Ctx) (k : Cause) (v : Word) (as : Bool) (n : Nat) : (c.enterTrap k v as n).regs = c.regs := rfl
@[simp] theorem enterTrap_masks (c : Ctx) (k : Cause) (v : Word) (as : Bool) (n : Nat) : (c.enterTrap k v as n).masks = c.masks := rfl
@[simp] theorem enterTrap_level (c : Ctx) (k : Cause) (v : Word) (as : Bool) (n : Nat) : (c.enterTrap k v as n).level = .system := rfl
@[simp] theorem enterTrap_tval (c : Ctx) (k : Cause) (v : Word) (as : Bool) (n : Nat) : (c.enterTrap k v as n).tval = v := rfl
@[simp] theorem enterTrap_tpc (c : Ctx) (k : Cause) (v : Word) (as : Bool) (n : Nat) : (c.enterTrap k v as n).tpc = c.pc.setWidth 64 := rfl

/-! ## The return stack (R68) -/

theorem push_short (s : State) (v : PcAddr) (h : s.me.rstack.length < 8) :
    push s v = .ok (s.updMe (fun c => { c with rstack := v :: c.rstack })) := by simp [push, h]

theorem push_spill (s : State) (v : PcAddr) (h : s.me.rstack.length = 8) (h1 : s.me.rsbOk = true) (h2 : s.me.sp.toNat + 8 ≤ s.me.rsbLim)
    (h3 : s.free s.me.sp 8 true = true) :
    push s v = .ok ((ownWrite s s.me.sp (leBytes 8 ((s.me.rstack.getLast?.getD 0).toNat))).updMe
      (fun c => { c with rstack := v :: c.rstack.dropLast, sp := c.sp + 8 })) := by
  simp [push, h, h1, h2, ownCheck_ok _ _ _ _ h3]

theorem pop_held (s : State) (v : PcAddr) (rest : List PcAddr) (h : s.me.rstack = v :: rest) :
    pop s = .ok (some (v, s.updMe (fun c => { c with rstack := rest }))) := by simp [pop, h]

/-! ## Waits for replies -/

theorem rpc_done (s : State) (k o : Nat) (req : Ex State) (use : Answer → Ex State) (a : Answer) (h : s.me.phase = .done a) :
    rpc s k o req use = use a := by simp [rpc, h]
theorem rpc_sent (s : State) (k o : Nat) (req : Ex State) (use : Answer → Ex State) (i : Nat) (h : s.me.phase = .sent i) :
    rpc s k o req use = .error (.wait k o s) := by simp [rpc, h]
theorem rpc_idle (s : State) (k o : Nat) (t : State) (use : Answer → Ex State) (h : s.me.phase = .idle) :
    rpc s k o (.ok t) use = .error (.wait k o (t.setPhase (.sent s.nextId))) := by simp [rpc, h]
theorem ask_done (s : State) (req : Ex State) (use : Answer → Ex State) (a : Answer) (h : s.me.phase = .done a) :
    ask s req use = use a := by simp [ask, h]
theorem ask_sent (s : State) (req : Ex State) (use : Answer → Ex State) (i : Nat) (h : s.me.phase = .sent i) :
    ask s req use = .error (.stall s) := by simp [ask, h]
theorem ask_idle (s : State) (t : State) (use : Answer → Ex State) (h : s.me.phase = .idle) :
    ask s (.ok t) use = .error (.stall (t.setPhase (.sent s.nextId))) := by simp [ask, h]

/-! ## The shared operand forms -/

theorem alu2_ok (o : Ops) (s : State) (f : Word → Word → Word) (h : s.me.ready [o.d.toNat, o.a.toNat, o.b.toNat] = true)
    (hn : s.me.numbers [o.a.toNat, o.b.toNat] = true) : alu2 o s f = .ok (s.put o.d (f (s.lo o.a) (s.lo o.b))) := by
  have h1 : check88 s [dst o.d, src o.a o.epa, src o.b o.epb] = .ok () :=
    check88_ready _ _ (by simpa [rdRegs, dst, src, List.range_succ] using h)
  simp [alu2, h1, numTags_ok _ _ hn]

theorem alu1_ok (o : Ops) (s : State) (f : Word → Word) (h : s.me.ready [o.d.toNat, o.b.toNat] = true)
    (hn : s.me.numbers [o.b.toNat] = true) : alu1 o s f = .ok (s.put o.d (f (s.lo o.b))) := by
  have h1 : check88 s [dst o.d, src o.b o.epb] = .ok () := check88_ready _ _ (by simpa [rdRegs, dst, src, List.range_succ] using h)
  have h2 : numTag s o.b.toNat = .ok () := numTag_ok _ _ (by simpa [numbers_iff] using hn)
  simp [alu1, h1, h2]

theorem aluImm_ok (o : Ops) (s : State) (f : Word → Word → Word) (h : s.me.ready [o.d.toNat, o.a.toNat] = true)
    (hn : s.me.numbers [o.a.toNat] = true) : aluImm o s f = .ok (s.put o.d (f (s.lo o.a) o.imm)) := by
  have h1 : check88 s [dst o.d, src o.a o.epa] = .ok () := check88_ready _ _ (by simpa [rdRegs, dst, src, List.range_succ] using h)
  have h2 : numTag s o.a.toNat = .ok () := numTag_ok _ _ (by simpa [numbers_iff] using hn)
  simp [aluImm, h1, h2]

theorem branchOn_ok (o : Ops) (s : State) (f : Word → Bool) (h : s.me.ready [o.a.toNat] = true) (hn : s.me.numbers [o.a.toNat] = true) :
    branchOn o s f = if f (s.lo o.a) then jump s (s.me.pc + (o.imm + o.imm).setWidth 56) else .ok s := by
  have h1 : check88 s [src o.a o.epa] = .ok () := check88_ready _ _ (by simpa [rdRegs, src, List.range_succ] using h)
  have h2 : numTag s o.a.toNat = .ok () := numTag_ok _ _ (by simpa [numbers_iff] using hn)
  simp [branchOn, h1, h2]

/-- LDW and LDD through a capability that reaches the bytes. -/
theorem localAccess_ok (o : Ops) (s : State) (n : Nat) (w : Bool) (hc : s.me.holdsCap o.b = true)
    (hr : s.reaches (s.capAt o.b) ((s.capAt o.b).cur + o.imm) n [if w then pWR else pRD] [0] n = true)
    (hf : s.free ((s.capAt o.b).cur + o.imm) n w = true) : localAccess o s n w = .ok ((s.capAt o.b).cur + o.imm) := by
  obtain ⟨k1, k2, k3, k4⟩ := reach_ok _ _ _ _ _ _ _ hr
  simp only [localAccess, capTag_ok _ _ hc, k1, k2, k3, k4, ownCheck_ok _ _ _ _ hf, ok_bind, check_true]

end Sys2Proof.Machine
end

