-- ==== Sys2Proof/Laws/PerInstr.lean ====
section
/-! SUPPORT. PerInstr.lean: for each constructor of `Instr`, what its code selects: the tables that the decoder and the encoder use agree. -/

namespace Sys2Proof.Laws.Codes

open Sys2Proof

/-- The page, op6 and variant bits that the encoder writes for an instruction select it in the decoder, with the same operands and the
same form (R44 to R48); an event has none. -/
def Statement (i : Instr) : Prop :=
  ∀ pg op x, codeOf i = some (pg, op, x) →
    i.isEvent = false ∧ ∃ mk, build pg op x = some mk ∧ mk (opsOf i) = i ∧ formOf (mk {}) = formOf i ∧ ∀ o, codeOf (mk o) = some (pg, op, x)

/-- An instruction with one code meets the statement when its tables agree there. -/
theorem of_code {i : Instr} {p q y : Nat} (h : codeOf i = some (p, q, y)) (e : i.isEvent = false) (mk : Ops → Instr)
    (b : build p q y = some mk) (m : mk (opsOf i) = i) (f : formOf (mk {}) = formOf i) (c : ∀ o, codeOf (mk o) = some (p, q, y)) : Statement i := by
  intro pg op x hc
  obtain ⟨rfl, rfl, rfl⟩ : p = pg ∧ q = op ∧ y = x := by simpa using h.symm.trans hc
  exact ⟨e, mk, b, m, f, c⟩

/-- An instruction without a code meets the statement. -/
theorem of_none {i : Instr} (h : codeOf i = none) : Statement i := fun _ _ _ hc => nomatch h.symm.trans hc

theorem nop : Statement .nop := of_code rfl rfl _ rfl rfl rfl fun _ => rfl
theorem fin : Statement .fin := of_code rfl rfl _ rfl rfl rfl fun _ => rfl
theorem ret : Statement .ret := of_code rfl rfl _ rfl rfl rfl fun _ => rfl
theorem eret : Statement .eret := of_code rfl rfl _ rfl rfl rfl fun _ => rfl
theorem brk : Statement .brk := of_code rfl rfl _ rfl rfl rfl fun _ => rfl
theorem hb : Statement .hb := of_code rfl rfl _ rfl rfl rfl fun _ => rfl
theorem wfe : Statement .wfe := of_code rfl rfl _ rfl rfl rfl fun _ => rfl
theorem b (o : Ops) : Statement (.b o) := of_code rfl rfl _ rfl rfl rfl fun _ => rfl
theorem call (o : Ops) : Statement (.call o) := of_code rfl rfl _ rfl rfl rfl fun _ => rfl
theorem jr (o : Ops) : Statement (.jr o) := of_code rfl rfl _ rfl rfl rfl fun _ => rfl
theorem callr (o : Ops) : Statement (.callr o) := of_code rfl rfl _ rfl rfl rfl fun _ => rfl
theorem bz (o : Ops) : Statement (.bz o) := of_code rfl rfl _ rfl rfl rfl fun _ => rfl
theorem bnz (o : Ops) : Statement (.bnz o) := of_code rfl rfl _ rfl rfl rfl fun _ => rfl
theorem bltz (o : Ops) : Statement (.bltz o) := of_code rfl rfl _ rfl rfl rfl fun _ => rfl
theorem bgez (o : Ops) : Statement (.bgez o) := of_code rfl rfl _ rfl rfl rfl fun _ => rfl
theorem many (o : Ops) : Statement (.many o) := of_code rfl rfl _ rfl rfl rfl fun _ => rfl
theorem mall (o : Ops) : Statement (.mall o) := of_code rfl rfl _ rfl rfl rfl fun _ => rfl
theorem li (o : Ops) : Statement (.li o) := of_code rfl rfl _ rfl rfl rfl fun _ => rfl
theorem addi (o : Ops) : Statement (.addi o) := of_code rfl rfl _ rfl rfl rfl fun _ => rfl
theorem andi (o : Ops) : Statement (.andi o) := of_code rfl rfl _ rfl rfl rfl fun _ => rfl
theorem ori (o : Ops) : Statement (.ori o) := of_code rfl rfl _ rfl rfl rfl fun _ => rfl
theorem xori (o : Ops) : Statement (.xori o) := of_code rfl rfl _ rfl rfl rfl fun _ => rfl
theorem shli (o : Ops) : Statement (.shli o) := of_code rfl rfl _ rfl rfl rfl fun _ => rfl
theorem shri (o : Ops) : Statement (.shri o) := of_code rfl rfl _ rfl rfl rfl fun _ => rfl
theorem srai (o : Ops) : Statement (.srai o) := of_code rfl rfl _ rfl rfl rfl fun _ => rfl
theorem mov (o : Ops) : Statement (.mov o) := of_code rfl rfl _ rfl rfl rfl fun _ => rfl
theorem add (o : Ops) : Statement (.add o) := of_code rfl rfl _ rfl rfl rfl fun _ => rfl
theorem sub (o : Ops) : Statement (.sub o) := of_code rfl rfl _ rfl rfl rfl fun _ => rfl
theorem andR (o : Ops) : Statement (.andR o) := of_code rfl rfl _ rfl rfl rfl fun _ => rfl
theorem orR (o : Ops) : Statement (.orR o) := of_code rfl rfl _ rfl rfl rfl fun _ => rfl
theorem xorR (o : Ops) : Statement (.xorR o) := of_code rfl rfl _ rfl rfl rfl fun _ => rfl
theorem shl (o : Ops) : Statement (.shl o) := of_code rfl rfl _ rfl rfl rfl fun _ => rfl
theorem shr (o : Ops) : Statement (.shr o) := of_code rfl rfl _ rfl rfl rfl fun _ => rfl
theorem sra (o : Ops) : Statement (.sra o) := of_code rfl rfl _ rfl rfl rfl fun _ => rfl
theorem mul (o : Ops) : Statement (.mul o) := of_code rfl rfl _ rfl rfl rfl fun _ => rfl
theorem mulh (o : Ops) : Statement (.mulh o) := of_code rfl rfl _ rfl rfl rfl fun _ => rfl
theorem mulhu (o : Ops) : Statement (.mulhu o) := of_code rfl rfl _ rfl rfl rfl fun _ => rfl
theorem div (o : Ops) : Statement (.div o) := of_code rfl rfl _ rfl rfl rfl fun _ => rfl
theorem divu (o : Ops) : Statement (.divu o) := of_code rfl rfl _ rfl rfl rfl fun _ => rfl
theorem rem (o : Ops) : Statement (.rem o) := of_code rfl rfl _ rfl rfl rfl fun _ => rfl
theorem remu (o : Ops) : Statement (.remu o) := of_code rfl rfl _ rfl rfl rfl fun _ => rfl
theorem seq (o : Ops) : Statement (.seq o) := of_code rfl rfl _ rfl rfl rfl fun _ => rfl
theorem slt (o : Ops) : Statement (.slt o) := of_code rfl rfl _ rfl rfl rfl fun _ => rfl
theorem sltu (o : Ops) : Statement (.sltu o) := of_code rfl rfl _ rfl rfl rfl fun _ => rfl
theorem minR (o : Ops) : Statement (.minR o) := of_code rfl rfl _ rfl rfl rfl fun _ => rfl
theorem maxR (o : Ops) : Statement (.maxR o) := of_code rfl rfl _ rfl rfl rfl fun _ => rfl
theorem minu (o : Ops) : Statement (.minu o) := of_code rfl rfl _ rfl rfl rfl fun _ => rfl
theorem maxu (o : Ops) : Statement (.maxu o) := of_code rfl rfl _ rfl rfl rfl fun _ => rfl
theorem clz (o : Ops) : Statement (.clz o) := of_code rfl rfl _ rfl rfl rfl fun _ => rfl
theorem popc (o : Ops) : Statement (.popc o) := of_code rfl rfl _ rfl rfl rfl fun _ => rfl
theorem sel (o : Ops) : Statement (.sel o) := of_code rfl rfl _ rfl rfl rfl fun _ => rfl
theorem ldw (o : Ops) : Statement (.ldw o) := of_code rfl rfl _ rfl rfl rfl fun _ => rfl
theorem ldd (o : Ops) : Statement (.ldd o) := of_code rfl rfl _ rfl rfl rfl fun _ => rfl
theorem stw (o : Ops) : Statement (.stw o) := of_code rfl rfl _ rfl rfl rfl fun _ => rfl
theorem std (o : Ops) : Statement (.std o) := of_code rfl rfl _ rfl rfl rfl fun _ => rfl
theorem cinc (o : Ops) : Statement (.cinc o) := of_code rfl rfl _ rfl rfl rfl fun _ => rfl
theorem cinci (o : Ops) : Statement (.cinci o) := of_code rfl rfl _ rfl rfl rfl fun _ => rfl
theorem cgeta (o : Ops) : Statement (.cgeta o) := of_code rfl rfl _ rfl rfl rfl fun _ => rfl
theorem csetb (o : Ops) : Statement (.csetb o) := of_code rfl rfl _ rfl rfl rfl fun _ => rfl
theorem cperm (o : Ops) : Statement (.cperm o) := of_code rfl rfl _ rfl rfl rfl fun _ => rfl
theorem tagof (o : Ops) : Statement (.tagof o) := of_code rfl rfl _ rfl rfl rfl fun _ => rfl
theorem srd (o : Ops) : Statement (.srd o) := of_code rfl rfl _ rfl rfl rfl fun _ => rfl
theorem swr (o : Ops) : Statement (.swr o) := of_code rfl rfl _ rfl rfl rfl fun _ => rfl
theorem trap (o : Ops) : Statement (.trap o) := of_code rfl rfl _ rfl rfl rfl fun _ => rfl
theorem vadd (sat : Bool) (sc : Bool) (t : VTy) (o : Ops) : Statement (.vadd sat sc t o) := by
  cases sat <;> cases sc <;> cases t <;> first | exact of_none rfl | exact of_code rfl rfl _ rfl rfl rfl fun _ => rfl
theorem vsub (sat : Bool) (sc : Bool) (t : VTy) (o : Ops) : Statement (.vsub sat sc t o) := by
  cases sat <;> cases sc <;> cases t <;> first | exact of_none rfl | exact of_code rfl rfl _ rfl rfl rfl fun _ => rfl
theorem vmul (hi : Bool) (sc : Bool) (t : VTy) (o : Ops) : Statement (.vmul hi sc t o) := by
  cases hi <;> cases sc <;> cases t <;> first | exact of_none rfl | exact of_code rfl rfl _ rfl rfl rfl fun _ => rfl
theorem vfma (neg : Bool) (sc : Bool) (t : VTy) (o : Ops) : Statement (.vfma neg sc t o) := by
  cases neg <;> cases sc <;> cases t <;> first | exact of_none rfl | exact of_code rfl rfl _ rfl rfl rfl fun _ => rfl
theorem vmin (sc : Bool) (t : VTy) (o : Ops) : Statement (.vmin sc t o) := by
  cases sc <;> cases t <;> first | exact of_none rfl | exact of_code rfl rfl _ rfl rfl rfl fun _ => rfl
theorem vmax (sc : Bool) (t : VTy) (o : Ops) : Statement (.vmax sc t o) := by
  cases sc <;> cases t <;> first | exact of_none rfl | exact of_code rfl rfl _ rfl rfl rfl fun _ => rfl
theorem vand (sc : Bool) (t : VTy) (o : Ops) : Statement (.vand sc t o) := by
  cases sc <;> cases t <;> first | exact of_none rfl | exact of_code rfl rfl _ rfl rfl rfl fun _ => rfl
theorem vor (sc : Bool) (t : VTy) (o : Ops) : Statement (.vor sc t o) := by
  cases sc <;> cases t <;> first | exact of_none rfl | exact of_code rfl rfl _ rfl rfl rfl fun _ => rfl
theorem vxor (sc : Bool) (t : VTy) (o : Ops) : Statement (.vxor sc t o) := by
  cases sc <;> cases t <;> first | exact of_none rfl | exact of_code rfl rfl _ rfl rfl rfl fun _ => rfl
theorem vshl (sc : Bool) (t : VTy) (o : Ops) : Statement (.vshl sc t o) := by
  cases sc <;> cases t <;> first | exact of_none rfl | exact of_code rfl rfl _ rfl rfl rfl fun _ => rfl
theorem vshr (sc : Bool) (t : VTy) (o : Ops) : Statement (.vshr sc t o) := by
  cases sc <;> cases t <;> first | exact of_none rfl | exact of_code rfl rfl _ rfl rfl rfl fun _ => rfl
theorem vabs (sc : Bool) (t : VTy) (o : Ops) : Statement (.vabs sc t o) := by
  cases sc <;> cases t <;> first | exact of_none rfl | exact of_code rfl rfl _ rfl rfl rfl fun _ => rfl
theorem vneg (sc : Bool) (t : VTy) (o : Ops) : Statement (.vneg sc t o) := by
  cases sc <;> cases t <;> first | exact of_none rfl | exact of_code rfl rfl _ rfl rfl rfl fun _ => rfl
theorem vcmp (r : Rel) (sc : Bool) (t : VTy) (o : Ops) : Statement (.vcmp r sc t o) := by
  cases r <;> cases sc <;> cases t <;> first | exact of_none rfl | exact of_code rfl rfl _ rfl rfl rfl fun _ => rfl
theorem vsel (t : VTy) (o : Ops) : Statement (.vsel t o) := by
  cases t <;> first | exact of_none rfl | exact of_code rfl rfl _ rfl rfl rfl fun _ => rfl
theorem vred (op : RedOp) (t : VTy) (o : Ops) : Statement (.vred op t o) := by
  cases op <;> cases t <;> first | exact of_none rfl | exact of_code rfl rfl _ rfl rfl rfl fun _ => rfl
theorem vscan (op : RedOp) (t : VTy) (o : Ops) : Statement (.vscan op t o) := by
  cases op <;> cases t <;> first | exact of_none rfl | exact of_code rfl rfl _ rfl rfl rfl fun _ => rfl
theorem vbcast (t : VTy) (o : Ops) : Statement (.vbcast t o) := by
  cases t <;> first | exact of_none rfl | exact of_code rfl rfl _ rfl rfl rfl fun _ => rfl
theorem vext (t : VTy) (o : Ops) : Statement (.vext t o) := by
  cases t <;> first | exact of_none rfl | exact of_code rfl rfl _ rfl rfl rfl fun _ => rfl
theorem vins (t : VTy) (o : Ops) : Statement (.vins t o) := by
  cases t <;> first | exact of_none rfl | exact of_code rfl rfl _ rfl rfl rfl fun _ => rfl
theorem vperm (t : VTy) (o : Ops) : Statement (.vperm t o) := by
  cases t <;> first | exact of_none rfl | exact of_code rfl rfl _ rfl rfl rfl fun _ => rfl
theorem vslide (dn : Bool) (t : VTy) (o : Ops) : Statement (.vslide dn t o) := by
  cases dn <;> cases t <;> first | exact of_none rfl | exact of_code rfl rfl _ rfl rfl rfl fun _ => rfl
theorem vcvt (cv : CvtTo) (sc : Bool) (t : VTy) (o : Ops) : Statement (.vcvt cv sc t o) := by
  cases cv <;> cases sc <;> cases t <;> first | exact of_none rfl | exact of_code rfl rfl _ rfl rfl rfl fun _ => rfl
theorem vdiv (rem : Bool) (sc : Bool) (t : VTy) (o : Ops) : Statement (.vdiv rem sc t o) := by
  cases rem <;> cases sc <;> cases t <;> first | exact of_none rfl | exact of_code rfl rfl _ rfl rfl rfl fun _ => rfl
theorem vsqrt (sc : Bool) (o : Ops) : Statement (.vsqrt sc o) := by
  cases sc <;> first | exact of_none rfl | exact of_code rfl rfl _ rfl rfl rfl fun _ => rfl
theorem vexp2 (sc : Bool) (o : Ops) : Statement (.vexp2 sc o) := by
  cases sc <;> first | exact of_none rfl | exact of_code rfl rfl _ rfl rfl rfl fun _ => rfl
theorem vld (t : VTy) (o : Ops) : Statement (.vld t o) := by
  cases t <;> first | exact of_none rfl | exact of_code rfl rfl _ rfl rfl rfl fun _ => rfl
theorem vst (t : VTy) (o : Ops) : Statement (.vst t o) := by
  cases t <;> first | exact of_none rfl | exact of_code rfl rfl _ rfl rfl rfl fun _ => rfl
theorem vlds (t : VTy) (o : Ops) : Statement (.vlds t o) := by
  cases t <;> first | exact of_none rfl | exact of_code rfl rfl _ rfl rfl rfl fun _ => rfl
theorem vsts (t : VTy) (o : Ops) : Statement (.vsts t o) := by
  cases t <;> first | exact of_none rfl | exact of_code rfl rfl _ rfl rfl rfl fun _ => rfl
theorem vgth (t : VTy) (o : Ops) : Statement (.vgth t o) := by
  cases t <;> first | exact of_none rfl | exact of_code rfl rfl _ rfl rfl rfl fun _ => rfl
theorem vsct (t : VTy) (o : Ops) : Statement (.vsct t o) := by
  cases t <;> first | exact of_none rfl | exact of_code rfl rfl _ rfl rfl rfl fun _ => rfl
theorem mand (o : Ops) : Statement (.mand o) := of_code rfl rfl _ rfl rfl rfl fun _ => rfl
theorem mor (o : Ops) : Statement (.mor o) := of_code rfl rfl _ rfl rfl rfl fun _ => rfl
theorem mxor (o : Ops) : Statement (.mxor o) := of_code rfl rfl _ rfl rfl rfl fun _ => rfl
theorem mnot (o : Ops) : Statement (.mnot o) := of_code rfl rfl _ rfl rfl rfl fun _ => rfl
theorem mpopc (o : Ops) : Statement (.mpopc o) := of_code rfl rfl _ rfl rfl rfl fun _ => rfl
theorem mfirst (o : Ops) : Statement (.mfirst o) := of_code rfl rfl _ rfl rfl rfl fun _ => rfl
theorem mset (o : Ops) : Statement (.mset o) := of_code rfl rfl _ rfl rfl rfl fun _ => rfl
theorem mget (o : Ops) : Statement (.mget o) := of_code rfl rfl _ rfl rfl rfl fun _ => rfl
theorem mzero (n : Bool) (int : Bool) : Statement (.mzero n int) := by
  cases n <;> cases int <;> first | exact of_none rfl | exact of_code rfl rfl _ rfl rfl rfl fun _ => rfl
theorem mma (n : Bool) (o : Ops) : Statement (.mma n o) := by
  cases n <;> first | exact of_none rfl | exact of_code rfl rfl _ rfl rfl rfl fun _ => rfl
theorem mmas (n : Bool) (sh : Shape) (u8 : Bool) (o : Ops) : Statement (.mmas n sh u8 o) := by
  cases n <;> cases sh <;> cases u8 <;> first | exact of_none rfl | exact of_code rfl rfl _ rfl rfl rfl fun _ => rfl
theorem mdrn (n : Bool) (clr : Bool) (o : Ops) : Statement (.mdrn n clr o) := by
  cases n <;> cases clr <;> first | exact of_none rfl | exact of_code rfl rfl _ rfl rfl rfl fun _ => rfl
theorem mdrnR (n : Bool) (clr : Bool) (o : Ops) : Statement (.mdrnR n clr o) := by
  cases n <;> cases clr <;> first | exact of_none rfl | exact of_code rfl rfl _ rfl rfl rfl fun _ => rfl
theorem mlda (n : Bool) (int : Bool) (o : Ops) : Statement (.mlda n int o) := by
  cases n <;> cases int <;> first | exact of_none rfl | exact of_code rfl rfl _ rfl rfl rfl fun _ => rfl
theorem cmpr (sh : Shape) (u8 : Bool) (o : Ops) : Statement (.cmpr sh u8 o) := by
  cases sh <;> cases u8 <;> first | exact of_none rfl | exact of_code rfl rfl _ rfl rfl rfl fun _ => rfl
theorem mxpd (sh : Shape) (u8 : Bool) (o : Ops) : Statement (.mxpd sh u8 o) := by
  cases sh <;> cases u8 <;> first | exact of_none rfl | exact of_code rfl rfl _ rfl rfl rfl fun _ => rfl
theorem fork (o : Ops) : Statement (.fork o) := of_code rfl rfl _ rfl rfl rfl fun _ => rfl
theorem rdv : Statement .rdv := of_code rfl rfl _ rfl rfl rfl fun _ => rfl
theorem endp : Statement .endp := of_code rfl rfl _ rfl rfl rfl fun _ => rfl
theorem eloop (o : Ops) : Statement (.eloop o) := of_code rfl rfl _ rfl rfl rfl fun _ => rfl
theorem ebump (o : Ops) : Statement (.ebump o) := of_code rfl rfl _ rfl rfl rfl fun _ => rfl
theorem tqput (o : Ops) : Statement (.tqput o) := of_code rfl rfl _ rfl rfl rfl fun _ => rfl
theorem tqwait (o : Ops) : Statement (.tqwait o) := of_code rfl rfl _ rfl rfl rfl fun _ => rfl
theorem tqwaitAll (o : Ops) : Statement (.tqwaitAll o) := of_code rfl rfl _ rfl rfl rfl fun _ => rfl
theorem mstat (o : Ops) : Statement (.mstat o) := of_code rfl rfl _ rfl rfl rfl fun _ => rfl
theorem mstatAbort : Statement .mstatAbort := of_code rfl rfl _ rfl rfl rfl fun _ => rfl
theorem pset (o : Ops) : Statement (.pset o) := of_code rfl rfl _ rfl rfl rfl fun _ => rfl
theorem psetW (o : Ops) : Statement (.psetW o) := of_code rfl rfl _ rfl rfl rfl fun _ => rfl
theorem fvadd (o : Ops) : Statement (.fvadd o) := of_code rfl rfl _ rfl rfl rfl fun _ => rfl
theorem fvsub (o : Ops) : Statement (.fvsub o) := of_code rfl rfl _ rfl rfl rfl fun _ => rfl
theorem fvmul (o : Ops) : Statement (.fvmul o) := of_code rfl rfl _ rfl rfl rfl fun _ => rfl
theorem fvfma (neg : Bool) (o : Ops) : Statement (.fvfma neg o) := by
  cases neg <;> first | exact of_none rfl | exact of_code rfl rfl _ rfl rfl rfl fun _ => rfl
theorem fvdiv (o : Ops) : Statement (.fvdiv o) := of_code rfl rfl _ rfl rfl rfl fun _ => rfl
theorem fvsqrt (o : Ops) : Statement (.fvsqrt o) := of_code rfl rfl _ rfl rfl rfl fun _ => rfl
theorem fvcmp (o : Ops) : Statement (.fvcmp o) := of_code rfl rfl _ rfl rfl rfl fun _ => rfl
theorem fvcvtFromi (o : Ops) : Statement (.fvcvtFromi o) := of_code rfl rfl _ rfl rfl rfl fun _ => rfl
theorem fvcvtFromf (o : Ops) : Statement (.fvcvtFromf o) := of_code rfl rfl _ rfl rfl rfl fun _ => rfl
theorem fvcvtToi (o : Ops) : Statement (.fvcvtToi o) := of_code rfl rfl _ rfl rfl rfl fun _ => rfl
theorem fvcvtTof (o : Ops) : Statement (.fvcvtTof o) := of_code rfl rfl _ rfl rfl rfl fun _ => rfl
theorem fvld (o : Ops) : Statement (.fvld o) := of_code rfl rfl _ rfl rfl rfl fun _ => rfl
theorem fvldIx (o : Ops) : Statement (.fvldIx o) := of_code rfl rfl _ rfl rfl rfl fun _ => rfl
theorem fvst (o : Ops) : Statement (.fvst o) := of_code rfl rfl _ rfl rfl rfl fun _ => rfl
theorem fvstIx (o : Ops) : Statement (.fvstIx o) := of_code rfl rfl _ rfl rfl rfl fun _ => rfl
theorem fvsigGet (o : Ops) : Statement (.fvsigGet o) := of_code rfl rfl _ rfl rfl rfl fun _ => rfl
theorem fvsigSet (o : Ops) : Statement (.fvsigSet o) := of_code rfl rfl _ rfl rfl rfl fun _ => rfl
theorem fvrnd (o : Ops) : Statement (.fvrnd o) := of_code rfl rfl _ rfl rfl rfl fun _ => rfl
theorem fvlen (o : Ops) : Statement (.fvlen o) := of_code rfl rfl _ rfl rfl rfl fun _ => rfl
theorem fvlenW (o : Ops) : Statement (.fvlenW o) := of_code rfl rfl _ rfl rfl rfl fun _ => rfl
theorem vdopenGeq (o : Ops) : Statement (.vdopenGeq o) := of_code rfl rfl _ rfl rfl rfl fun _ => rfl
theorem vdopenGeqImm (o : Ops) : Statement (.vdopenGeqImm o) := of_code rfl rfl _ rfl rfl rfl fun _ => rfl
theorem vdopenPos (o : Ops) : Statement (.vdopenPos o) := of_code rfl rfl _ rfl rfl rfl fun _ => rfl
theorem vdps (o : Ops) : Statement (.vdps o) := of_code rfl rfl _ rfl rfl rfl fun _ => rfl
theorem vdlow (o : Ops) : Statement (.vdlow o) := of_code rfl rfl _ rfl rfl rfl fun _ => rfl
theorem vdupr (o : Ops) : Statement (.vdupr o) := of_code rfl rfl _ rfl rfl rfl fun _ => rfl
theorem vdfin (o : Ops) : Statement (.vdfin o) := of_code rfl rfl _ rfl rfl rfl fun _ => rfl
theorem vdchkLive (o : Ops) : Statement (.vdchkLive o) := of_code rfl rfl _ rfl rfl rfl fun _ => rfl
theorem vdchkAbn (o : Ops) : Statement (.vdchkAbn o) := of_code rfl rfl _ rfl rfl rfl fun _ => rfl
theorem vtraise (o : Ops) : Statement (.vtraise o) := of_code rfl rfl _ rfl rfl rfl fun _ => rfl
theorem ld (sg : Bool) (z : Sz) (o : Ops) : Statement (.ld sg z o) := by
  cases sg <;> cases z <;> first | exact of_none rfl | exact of_code rfl rfl _ rfl rfl rfl fun _ => rfl
theorem st (z : Sz) (o : Ops) : Statement (.st z o) := by
  cases z <;> first | exact of_none rfl | exact of_code rfl rfl _ rfl rfl rfl fun _ => rfl
theorem ldc (o : Ops) : Statement (.ldc o) := of_code rfl rfl _ rfl rfl rfl fun _ => rfl
theorem stc (o : Ops) : Statement (.stc o) := of_code rfl rfl _ rfl rfl rfl fun _ => rfl
theorem amo (nr : Bool) (dbl : Bool) (op : AmoOp) (o : Ops) : Statement (.amo nr dbl op o) := by
  cases nr <;> cases dbl <;> cases op <;> first | exact of_none rfl | exact of_code rfl rfl _ rfl rfl rfl fun _ => rfl
theorem cas (dbl : Bool) (o : Ops) : Statement (.cas dbl o) := by
  cases dbl <;> first | exact of_none rfl | exact of_code rfl rfl _ rfl rfl rfl fun _ => rfl
theorem mapp (o : Ops) : Statement (.mapp o) := of_code rfl rfl _ rfl rfl rfl fun _ => rfl
theorem mrecv (o : Ops) : Statement (.mrecv o) := of_code rfl rfl _ rfl rfl rfl fun _ => rfl
theorem fnc (sp : FSp) (ord : FOrd) (o : Ops) : Statement (.fnc sp ord o) := by
  cases sp <;> cases ord <;> first | exact of_none rfl | exact of_code rfl rfl _ rfl rfl rfl fun _ => rfl
theorem fncInv (o : Ops) : Statement (.fncInv o) := of_code rfl rfl _ rfl rfl rfl fun _ => rfl
theorem fnca (ord : FOrd) (o : Ops) : Statement (.fnca ord o) := by
  cases ord <;> first | exact of_none rfl | exact of_code rfl rfl _ rfl rfl rfl fun _ => rfl
theorem cpy (o : Ops) : Statement (.cpy o) := of_code rfl rfl _ rfl rfl rfl fun _ => rfl
theorem cpym (o : Ops) : Statement (.cpym o) := of_code rfl rfl _ rfl rfl rfl fun _ => rfl
theorem cpyx (sh : Shape) (u8 : Bool) (o : Ops) : Statement (.cpyx sh u8 o) := by
  cases sh <;> cases u8 <;> first | exact of_none rfl | exact of_code rfl rfl _ rfl rfl rfl fun _ => rfl
theorem cwait (o : Ops) : Statement (.cwait o) := of_code rfl rfl _ rfl rfl rfl fun _ => rfl
theorem cpoll (o : Ops) : Statement (.cpoll o) := of_code rfl rfl _ rfl rfl rfl fun _ => rfl
theorem sfldBind (o : Ops) : Statement (.sfldBind o) := of_code rfl rfl _ rfl rfl rfl fun _ => rfl
theorem sfldDrop (o : Ops) : Statement (.sfldDrop o) := of_code rfl rfl _ rfl rfl rfl fun _ => rfl
theorem snew (o : Ops) : Statement (.snew o) := of_code rfl rfl _ rfl rfl rfl fun _ => rfl
theorem sdel (o : Ops) : Statement (.sdel o) := of_code rfl rfl _ rfl rfl rfl fun _ => rfl
theorem sput (o : Ops) : Statement (.sput o) := of_code rfl rfl _ rfl rfl rfl fun _ => rfl
theorem sputNr (o : Ops) : Statement (.sputNr o) := of_code rfl rfl _ rfl rfl rfl fun _ => rfl
theorem sld (o : Ops) : Statement (.sld o) := of_code rfl rfl _ rfl rfl rfl fun _ => rfl
theorem sst (o : Ops) : Statement (.sst o) := of_code rfl rfl _ rfl rfl rfl fun _ => rfl
theorem sown (o : Ops) : Statement (.sown o) := of_code rfl rfl _ rfl rfl rfl fun _ => rfl
theorem sqbox (o : Ops) : Statement (.sqbox o) := of_code rfl rfl _ rfl rfl rfl fun _ => rfl
theorem sqrad (o : Ops) : Statement (.sqrad o) := of_code rfl rfl _ rfl rfl rfl fun _ => rfl
theorem sqtake (o : Ops) : Statement (.sqtake o) := of_code rfl rfl _ rfl rfl rfl fun _ => rfl
theorem sqend (o : Ops) : Statement (.sqend o) := of_code rfl rfl _ rfl rfl rfl fun _ => rfl
theorem shwait (o : Ops) : Statement (.shwait o) := of_code rfl rfl _ rfl rfl rfl fun _ => rfl
theorem scount (o : Ops) : Statement (.scount o) := of_code rfl rfl _ rfl rfl rfl fun _ => rfl
theorem sscan (o : Ops) : Statement (.sscan o) := of_code rfl rfl _ rfl rfl rfl fun _ => rfl
theorem fncp : Statement .fncp := of_code rfl rfl _ rfl rfl rfl fun _ => rfl
theorem pcnt (o : Ops) : Statement (.pcnt o) := of_code rfl rfl _ rfl rfl rfl fun _ => rfl
theorem pcntIss (o : Ops) : Statement (.pcntIss o) := of_code rfl rfl _ rfl rfl rfl fun _ => rfl
theorem gopen (o : Ops) : Statement (.gopen o) := of_code rfl rfl _ rfl rfl rfl fun _ => rfl
theorem stg (z : Sz) (o : Ops) : Statement (.stg z o) := by
  cases z <;> first | exact of_none rfl | exact of_code rfl rfl _ rfl rfl rfl fun _ => rfl
theorem gcommit (o : Ops) : Statement (.gcommit o) := of_code rfl rfl _ rfl rfl rfl fun _ => rfl
theorem gabort (o : Ops) : Statement (.gabort o) := of_code rfl rfl _ rfl rfl rfl fun _ => rfl
theorem gstat (o : Ops) : Statement (.gstat o) := of_code rfl rfl _ rfl rfl rfl fun _ => rfl
theorem sopen (o : Ops) : Statement (.sopen o) := of_code rfl rfl _ rfl rfl rfl fun _ => rfl
theorem ssend (o : Ops) : Statement (.ssend o) := of_code rfl rfl _ rfl rfl rfl fun _ => rfl
theorem sclose (o : Ops) : Statement (.sclose o) := of_code rfl rfl _ rfl rfl rfl fun _ => rfl
theorem fred (o : Ops) : Statement (.fred o) := of_code rfl rfl _ rfl rfl rfl fun _ => rfl
theorem fredw (o : Ops) : Statement (.fredw o) := of_code rfl rfl _ rfl rfl rfl fun _ => rfl
theorem spawn (o : Ops) : Statement (.spawn o) := of_code rfl rfl _ rfl rfl rfl fun _ => rfl
theorem ten (o : Ops) : Statement (.ten o) := of_code rfl rfl _ rfl rfl rfl fun _ => rfl
theorem tdis (o : Ops) : Statement (.tdis o) := of_code rfl rfl _ rfl rfl rfl fun _ => rfl
theorem tpnd (o : Ops) : Statement (.tpnd o) := of_code rfl rfl _ rfl rfl rfl fun _ => rfl
theorem actdef (o : Ops) : Statement (.actdef o) := of_code rfl rfl _ rfl rfl rfl fun _ => rfl
theorem actctlEna (o : Ops) : Statement (.actctlEna o) := of_code rfl rfl _ rfl rfl rfl fun _ => rfl
theorem actctlDis (o : Ops) : Statement (.actctlDis o) := of_code rfl rfl _ rfl rfl rfl fun _ => rfl
theorem actctlPri (o : Ops) : Statement (.actctlPri o) := of_code rfl rfl _ rfl rfl rfl fun _ => rfl
theorem actctlStat (o : Ops) : Statement (.actctlStat o) := of_code rfl rfl _ rfl rfl rfl fun _ => rfl
theorem actctlFlush (o : Ops) : Statement (.actctlFlush o) := of_code rfl rfl _ rfl rfl rfl fun _ => rfl
theorem actctlSpri (o : Ops) : Statement (.actctlSpri o) := of_code rfl rfl _ rfl rfl rfl fun _ => rfl
theorem nbw (o : Ops) : Statement (.nbw o) := of_code rfl rfl _ rfl rfl rfl fun _ => rfl
theorem nbarm (o : Ops) : Statement (.nbarm o) := of_code rfl rfl _ rfl rfl rfl fun _ => rfl
theorem phreg (o : Ops) : Statement (.phreg o) := of_code rfl rfl _ rfl rfl rfl fun _ => rfl
theorem phdrop (o : Ops) : Statement (.phdrop o) := of_code rfl rfl _ rfl rfl rfl fun _ => rfl
theorem phsig (o : Ops) : Statement (.phsig o) := of_code rfl rfl _ rfl rfl rfl fun _ => rfl
theorem phwait (o : Ops) : Statement (.phwait o) := of_code rfl rfl _ rfl rfl rfl fun _ => rfl
theorem phadv (o : Ops) : Statement (.phadv o) := of_code rfl rfl _ rfl rfl rfl fun _ => rfl
theorem waittRead (o : Ops) : Statement (.waittRead o) := of_code rfl rfl _ rfl rfl rfl fun _ => rfl
theorem waittArm (o : Ops) : Statement (.waittArm o) := of_code rfl rfl _ rfl rfl rfl fun _ => rfl
theorem lqput (o : Ops) : Statement (.lqput o) := of_code rfl rfl _ rfl rfl rfl fun _ => rfl
theorem cancel (o : Ops) : Statement (.cancel o) := of_code rfl rfl _ rfl rfl rfl fun _ => rfl
theorem firingStart (cid : Nat) : Statement (.firingStart cid) := of_none rfl
theorem routedPacketArrival (id : Nat) : Statement (.routedPacketArrival id) := of_none rfl
theorem heldPacketDelivery (cid : Nat) (tag : Nat) : Statement (.heldPacketDelivery cid tag) := of_none rfl
theorem packetReoffer (cl : Nat) (cid : Nat) (tag : Nat) : Statement (.packetReoffer cl cid tag) := of_none rfl
theorem outputDrain (cid : Nat) (act : Nat) (out : Nat) : Statement (.outputDrain cid act out) := of_none rfl
theorem spawnArrival (id : Nat) : Statement (.spawnArrival id) := of_none rfl
theorem spawnReply (id : Nat) : Statement (.spawnReply id) := of_none rfl
theorem heartbeatMiss (g : Nat) : Statement (.heartbeatMiss g) := of_none rfl
theorem waitTimeout (g : Nat) : Statement (.waitTimeout g) := of_none rfl
theorem neighbourWriteLand (cid : Nat) (dir : Dir) : Statement (.neighbourWriteLand cid dir) := of_none rfl
theorem loadReply (id : Nat) : Statement (.loadReply id) := of_none rfl
theorem remoteAccessAtHome (id : Nat) : Statement (.remoteAccessAtHome id) := of_none rfl
theorem clusterStoreAck (id : Nat) : Statement (.clusterStoreAck id) := of_none rfl
theorem deviceStoreAck (id : Nat) : Statement (.deviceStoreAck id) := of_none rfl
theorem inboxDelivery (id : Nat) : Statement (.inboxDelivery id) := of_none rfl
theorem mrecvDelivery (g : Nat) : Statement (.mrecvDelivery g) := of_none rfl
theorem phaserRequest (id : Nat) : Statement (.phaserRequest id) := of_none rfl
theorem clusterAtomicAtHome (id : Nat) (eccBad : Bool) : Statement (.clusterAtomicAtHome id eccBad) := of_none rfl
theorem tileTaskDispatch (cl : Nat) : Statement (.tileTaskDispatch cl) := of_none rfl
theorem tileTaskComplete (cl : Nat) (key : Nat) : Statement (.tileTaskComplete cl key) := of_none rfl
theorem hang (cl : Nat) : Statement (.hang cl) := of_none rfl
theorem clusterReset (cl : Nat) : Statement (.clusterReset cl) := of_none rfl
theorem flagUnionUpdate (cl : Nat) : Statement (.flagUnionUpdate cl) := of_none rfl
theorem engineOpStart (cid : Nat) (set : Nat) : Statement (.engineOpStart cid set) := of_none rfl
theorem engineOpComplete (cid : Nat) (set : Nat) (sumBad : Bool) : Statement (.engineOpComplete cid set sumBad) := of_none rfl
theorem engineProgramStep (g : Nat) : Statement (.engineProgramStep g) := of_none rfl
theorem peerRowFetch (cid : Nat) (set : Nat) (outcome : Nat) : Statement (.peerRowFetch cid set outcome) := of_none rfl
theorem copyRequestPerform (g : Nat) (slot : Nat) : Statement (.copyRequestPerform g slot) := of_none rfl
theorem copyComplete (g : Nat) (slot : Nat) : Statement (.copyComplete g slot) := of_none rfl
theorem promiseMiss (g : Nat) : Statement (.promiseMiss g) := of_none rfl
theorem streamRouteRetry (g : Nat) : Statement (.streamRouteRetry g) := of_none rfl
theorem streamBreak (g : Nat) : Statement (.streamBreak g) := of_none rfl
theorem translation (id : Nat) : Statement (.translation id) := of_none rfl
theorem heldRequestRelease (id : Nat) : Statement (.heldRequestRelease id) := of_none rfl
theorem routerMerge (id1 : Nat) (id2 : Nat) : Statement (.routerMerge id1 id2) := of_none rfl
theorem deviceAtomicAtHome (id : Nat) (eccBad : Bool) : Statement (.deviceAtomicAtHome id eccBad) := of_none rfl
theorem deviceAccessAtHome (id : Nat) : Statement (.deviceAccessAtHome id) := of_none rfl
theorem ioAccess (id : Nat) (ok : Bool) (data : Nat) : Statement (.ioAccess id ok data) := of_none rfl
theorem scratchpadScrub (cid : Nat) : Statement (.scratchpadScrub cid) := of_none rfl
theorem dramScrub (die : Nat) : Statement (.dramScrub die) := of_none rfl
theorem handleForward (id : Nat) : Statement (.handleForward id) := of_none rfl
theorem directoryResolve (id : Nat) : Statement (.directoryResolve id) := of_none rfl
theorem queryTake (id : Nat) : Statement (.queryTake id) := of_none rfl
theorem sweepReservation (id : Nat) : Statement (.sweepReservation id) := of_none rfl
theorem reservationSettle (id : Nat) : Statement (.reservationSettle id) := of_none rfl
theorem recordCreateAtOwner (id : Nat) : Statement (.recordCreateAtOwner id) := of_none rfl
theorem haulSend (id : Nat) : Statement (.haulSend id) := of_none rfl
theorem haulInstall (id : Nat) : Statement (.haulInstall id) := of_none rfl
theorem haulFail (id : Nat) : Statement (.haulFail id) := of_none rfl
theorem spatialWriteAtOwner (id : Nat) : Statement (.spatialWriteAtOwner id) := of_none rfl
theorem tombstoneReclaim (cid : Nat) (slot : Nat) : Statement (.tombstoneReclaim cid slot) := of_none rfl
theorem queryVisitStart (g : Nat) (q : Nat) : Statement (.queryVisitStart g q) := of_none rfl
theorem queryOwnerScan (id : Nat) : Statement (.queryOwnerScan id) := of_none rfl
theorem queryResultDelivery (g : Nat) (q : Nat) : Statement (.queryResultDelivery g q) := of_none rfl
theorem queryEventDelivery (g : Nat) : Statement (.queryEventDelivery g) := of_none rfl
theorem spatialPostedAck (id : Nat) : Statement (.spatialPostedAck id) := of_none rfl
theorem qdoor (queue : Nat) (entry : Word) : Statement (.qdoor queue entry) := of_none rfl
theorem qcan (queue : Nat) (lid : Word) : Statement (.qcan queue lid) := of_none rfl
theorem qch (queue : Nat) (head : Word) : Statement (.qch queue head) := of_none rfl
theorem controlPageWrite (queue : Nat) (off : Nat) (val : Word) (feather : Bool) : Statement (.controlPageWrite queue off val feather) := of_none rfl
theorem dispatchDecision : Statement .dispatchDecision := of_none rfl
theorem launchPlacement (lid : Nat) : Statement (.launchPlacement lid) := of_none rfl
theorem deadlineMiss (lid : Nat) : Statement (.deadlineMiss lid) := of_none rfl
theorem ctbExhausted (dcb : Nat) : Statement (.ctbExhausted dcb) := of_none rfl
theorem preemptionRequest (part : Nat) (tier : Nat) : Statement (.preemptionRequest part tier) := of_none rfl
theorem contextSave (lid : Nat) : Statement (.contextSave lid) := of_none rfl
theorem saveTimeout (lid : Nat) : Statement (.saveTimeout lid) := of_none rfl
theorem launchResume (lid : Nat) : Statement (.launchResume lid) := of_none rfl
theorem shareComplete (lid : Nat) (cid : Nat) : Statement (.shareComplete lid cid) := of_none rfl
theorem completionRecord (lid : Nat) : Statement (.completionRecord lid) := of_none rfl
theorem faultMessageReceipt (id : Nat) : Statement (.faultMessageReceipt id) := of_none rfl
theorem rampWindow (die : Nat) (used : Nat) : Statement (.rampWindow die used) := of_none rfl
theorem packageReset (flash : FlashImage) : Statement (.packageReset flash) := of_none rfl
theorem attestationRequest (nonce : List Byte) : Statement (.attestationRequest nonce) := of_none rfl
theorem partitionRequest (mgmt : Bool) (req : PartReq) : Statement (.partitionRequest mgmt req) := of_none rfl
theorem firewallRefusal (agent : Nat) (addr : Word) (n : Nat) (part : Nat) (wr : Bool) : Statement (.firewallRefusal agent addr n part wr) := of_none rfl
theorem livenessBeat (cl : Nat) : Statement (.livenessBeat cl) := of_none rfl
theorem clusterFailed (cl : Nat) (own : Bool) : Statement (.clusterFailed cl own) := of_none rfl
theorem featherWatchdogExpiry : Statement .featherWatchdogExpiry := of_none rfl
theorem plugWatchdogExpiry : Statement .plugWatchdogExpiry := of_none rfl
theorem linkReplay (link : Nat) (lane : Bool) : Statement (.linkReplay link lane) := of_none rfl
theorem coreSpare (cid : Nat) : Statement (.coreSpare cid) := of_none rfl
theorem clusterRetire (cl : Nat) : Statement (.clusterRetire cl) := of_none rfl
theorem dramPageFail (page : Nat) : Statement (.dramPageFail page) := of_none rfl
theorem peerIngress (req : PeerReq) : Statement (.peerIngress req) := of_none rfl
theorem peerReply (id : Nat) (gen : Nat) : Statement (.peerReply id gen) := of_none rfl
theorem fabricTimeout (id : Nat) : Statement (.fabricTimeout id) := of_none rfl
theorem peerLoss (pkg : Nat) : Statement (.peerLoss pkg) := of_none rfl
theorem peerReadmit (pkg : Nat) : Statement (.peerReadmit pkg) := of_none rfl
theorem ofStoreRelease (id : Nat) : Statement (.ofStoreRelease id) := of_none rfl
theorem mirrorResend (id : Nat) : Statement (.mirrorResend id) := of_none rfl
theorem sysAtomicAtHome (id : Nat) (eccBad : Bool) : Statement (.sysAtomicAtHome id eccBad) := of_none rfl
theorem reductionCombine (coll : Nat) (round : Nat) (member : Nat) (contrib : RedContrib) : Statement (.reductionCombine coll round member contrib) := of_none rfl
theorem reductionTimeout (coll : Nat) (round : Nat) : Statement (.reductionTimeout coll round) := of_none rfl
theorem reductionAnswer (g : Nat) (slot : Nat) : Statement (.reductionAnswer g slot) := of_none rfl
theorem stgReceive (id : Nat) (cut : Bool) : Statement (.stgReceive id cut) := of_none rfl
theorem prepare (id : Nat) : Statement (.prepare id) := of_none rfl
theorem publish (id : Nat) : Statement (.publish id) := of_none rfl
theorem groupAbortAtPort (id : Nat) : Statement (.groupAbortAtPort id) := of_none rfl
theorem prepareAnswerTimeout (gid : Nat) : Statement (.prepareAnswerTimeout gid) := of_none rfl
theorem publishAckTimeout (gid : Nat) : Statement (.publishAckTimeout gid) := of_none rfl
theorem preparedLockTimeout (port : Nat) (gid : Nat) : Statement (.preparedLockTimeout port gid) := of_none rfl
theorem groupDrainEnd (gid : Nat) : Statement (.groupDrainEnd gid) := of_none rfl
theorem clusterResetComplete (cl : Nat) : Statement (.clusterResetComplete cl) := of_none rfl
theorem featherRestartComplete : Statement .featherRestartComplete := of_none rfl
theorem sliceCacheWayFail (slice : Nat) : Statement (.sliceCacheWayFail slice) := of_none rfl
theorem collectiveSetup (coll : Nat) (members : List Nat) (self : Option Nat) : Statement (.collectiveSetup coll members self) := of_none rfl
theorem recordReadAtOwner (id : Nat) : Statement (.recordReadAtOwner id) := of_none rfl
theorem mappAcceptanceReply (id : Nat) : Statement (.mappAcceptanceReply id) := of_none rfl
theorem lqputEntryArrival (id : Nat) : Statement (.lqputEntryArrival id) := of_none rfl

end Sys2Proof.Laws.Codes
end

