-- ==== Sys2Proof/Tests/Slice0.lean ====
section
/-! SUPPORT. Slice0.lean: the model's own tests. For each statement with hypotheses a theorem shows a state and operands that meet them, and what
the instruction or event then does there; the words of the spec decode as written out; each check of WellFormed refuses an ill-formed term. -/


namespace Sys2Proof.Machine

/-- Registers with numbers. -/
def Ctx.nums (c : Ctx) (l : List (Nat × Quad)) : Ctx := l.foldl (fun c e => c.wr e.1 e.2) c

/-- A capability in a window. -/
def Ctx.cap (c : Ctx) (n : Nat) (x : Cap) : Ctx := (c.wr n x.head .caph).wr (n + 1) x.tail .capt

/-- A register with a presence state. -/
def Ctx.pres (c : Ctx) (n : Nat) (p : Pres) : Ctx := c.setRegAt (c.ix n) { c.reg n with pres := p }

/-- A register with a recorded fault. -/
def Ctx.faulted (c : Ctx) (n : Nat) (f : RFault) : Ctx := c.setRegAt (c.ix n) { c.reg n with fault := some f }

end Sys2Proof.Machine

namespace Sys2Proof.Tests

open Sys2Proof.Machine Sys2Proof.Spec

set_option maxRecDepth 8000
set_option Elab.async false

/-! ## Small states -/

/-- A context with a firing of launch 1, process identifier 1. -/
def c0 : Ctx := { busy := true, hb := 1200000, lid := 1, pid := 1, pc := 0x10000, tvec := 0x40000 }

/-- A state whose context 0 is given, in a core of launch 1. -/
def st (c : Ctx) : State := { ctxs := [(0, c)], cores := [(0, { lid := 1 })] }

/-- The whole own scratchpad from an address. -/
def lc (a : Word) : Cap := { cur := a, base := 0, lim := 0x80000, prm := 0x7F, spc := 0 }
/-- The whole cluster space. -/
def cc (a : Word) : Cap := { cur := a, base := 0, lim := 0x800000, prm := 0x7F, spc := 1 }
/-- DEVICE. -/
def dc (a : Word) : Cap := { cur := a, base := 0, lim := 0xFFFFFFFFFFFFFFFF, prm := 0x7F, spc := 2 }

/-- The next state of an outcome. -/
def nx (x : Out) : State := match x with | .next t => t | _ => {}

/-- The outcome is this next state. -/
def goes (x : Out) (t : State) : Bool := match x with | .next u => decide (u = t) | _ => false

/-- At system level, with room for another trap. -/
def sys (c : Ctx) : Ctx := { c with level := .system, tsav := 0x10 }

/-- The outcome writes this number to a register and goes on to the next halfword. -/
def gives (x : Out) (d : RegNo) (v : Word) : Bool := match x with
  | .next u => (u.me.reg d.toNat) == { bits := v.setWidth 128 } && u.me.pc == 0x10002
  | _ => false

/-! ## Scalar instructions -/

def sA : State := st ((c0).nums [(1, 0xFFFFFFFFFFFFFFF9), (2, 2), (3, 0), (4, 0x80000000000000000000000000000005)])

theorem witness_ScalarTwoSources : (∀ p ∈ scalarTwo, ∀ o ∈ [({ d := 5, a := 1, b := 2 } : Ops), { d := 1, a := 1, b := 3 }, { d := 63, a := 4, b := 1 }],
    sA.me.ready [o.d.toNat, o.a.toNat, o.b.toNat] = true ∧ sA.me.numbers [o.a.toNat, o.b.toNat] = true ∧
    gives (exec (p.1 o) sA) o.d (p.2 (sA.lo o.a) (sA.lo o.b))) := by decide +kernel

theorem test_division : (nx (exec (.div { d := 5, a := 1, b := 2 }) sA)).lo 5 = 0xFFFFFFFFFFFFFFFD ∧
    (nx (exec (.rem { d := 5, a := 1, b := 2 }) sA)).lo 5 = 0xFFFFFFFFFFFFFFFF ∧ (nx (exec (.div { d := 5, a := 1, b := 3 }) sA)).lo 5 = 0xFFFFFFFFFFFFFFFF ∧
    (nx (exec (.rem { d := 5, a := 1, b := 3 }) sA)).lo 5 = sA.lo 1 ∧
    (nx (exec (.div { d := 5, a := 1, b := 2 }) (st ((c0).nums [(1, 0x8000000000000000), (2, 0xFFFFFFFFFFFFFFFF)])))).lo 5 = 0x8000000000000000 := by decide +kernel

theorem test_mulh_clz : (nx (exec (.mulh { d := 5, a := 1, b := 1 }) (st ((c0).nums [(1, 0x8000000000000000)])))).lo 5 = 0x4000000000000000 ∧
    (nx (exec (.clz { d := 5, b := 1 }) (st ((c0).nums [(1, 1)])))).lo 5 = 63 ∧ (nx (exec (.clz { d := 5, b := 3 }) sA)).lo 5 = 64 ∧
    (nx (exec (.popc { d := 5, b := 1 }) sA)).lo 5 = 62 := by decide +kernel

theorem witness_ScalarImmediateAndCounts : (∀ p ∈ scalarImm, ∀ o ∈ [({ d := 5, a := 1, imm := 3 } : Ops), { d := 6, a := 1, imm := 0xFFFFFFFFFFFFFFFF }],
    sA.me.ready [o.d.toNat, o.a.toNat] = true ∧ sA.me.numbers [o.a.toNat] = true ∧ gives (exec (p.1 o) sA) o.d (p.2 (sA.lo o.a) o.imm)) ∧
    (∀ p ∈ scalarCount, ∀ o ∈ [({ d := 5, b := 1 } : Ops), { d := 5, b := 3 }],
    sA.me.ready [o.d.toNat, o.b.toNat] = true ∧ sA.me.numbers [o.b.toNat] = true ∧ gives (exec (p.1 o) sA) o.d (p.2 (sA.lo o.b))) := by decide +kernel

theorem witness_SelectImmediateMove :
    (∀ o ∈ [({ d := 2, a := 1, b := 3 } : Ops), { d := 3, a := 1, b := 2 }],
      sA.me.ready [o.d.toNat, o.a.toNat, o.b.toNat] = true ∧ sA.me.numbers [o.d.toNat, o.a.toNat, o.b.toNat] = true ∧
      gives (exec (.sel o) sA) o.d (if sA.lo o.d = 0 then sA.lo o.b else sA.lo o.a)) ∧
    sA.me.ready [7] = true ∧ (nx (exec (.li { d := 7, imm := 0x1234 }) sA)).lo 7 = 0x1234 ∧
    (∀ l ∈ [(0 : BitVec 2), 1, 2], sA.me.ready (span 8 (2 ^ l.toNat) ++ span 4 (2 ^ l.toNat)) = true ∧
      goes (exec (.mov { d := 8, b := 4, l := l }) sA) ((sA.putL 8 (sA.win 4 (2 ^ l.toNat))).endNext)) := by decide +kernel

theorem witness_ScalarFrame : sA.me.doubleTrap = false ∧ sA.me.phase = .idle ∧ (nx (exec (.add { d := 5, a := 1, b := 2 }) sA)).me.regAt 1 = sA.me.regAt 1 := by decide +kernel

def sR (f : Ctx → Ctx) : State := st (f (sA.me))

theorem witness_RegisterChecks :
    goes (exec (.add { d := 5, a := 1, b := 2 }) (sR (·.pres 1 .leased))) ((sR (·.pres 1 .leased)).takeTrap 0 .lease 1 false 1) ∧
    goes (exec (.add { d := 5, a := 1, b := 2 }) (sR (·.faulted 2 ⟨.pois, 9⟩)))
      (((sR (·.faulted 2 ⟨.pois, 9⟩)).updMe (fun c => c.wr 2 0)).takeTrap 0 .pois 9 false 1) ∧
    goes (exec (.add { d := 5, a := 1, b := 2, epa := true }) (sR (·.pres 1 .empty))) ((sR (·.pres 1 .empty)).takeTrap 0 .empty 1 false 1) ∧
    goes (exec (.add { d := 5, a := 1, b := 2 }) (sR (·.pres 1 .empty))) ((sR (·.pres 1 .empty)).blocked 6 0 2) := by decide +kernel

/-! ## LOCAL accesses -/

def sL (a : Word) : State := st (((c0).nums [(1, 0x1122334455667788)]).cap 2 (lc a))

theorem witness_LocalWords : ∀ n ∈ [(4, 0x7FFFC), (8, 0x7FFF8), (8, 0), (4, 4)],
    let s := sL (BitVec.ofNat 64 n.2)
    s.me.holdsCap 2 = true ∧ s.me.ready (4 :: span 2 2) = true ∧ s.me.ready (1 :: span 2 2) = true ∧ s.me.storable [1] = true ∧
    s.reaches (s.capAt 2) (BitVec.ofNat 64 n.2) n.1 [pRD] [0] n.1 = true ∧ s.reaches (s.capAt 2) (BitVec.ofNat 64 n.2) n.1 [pWR] [0] n.1 = true ∧
    s.free (BitVec.ofNat 64 n.2) n.1 true = true ∧ s.free (BitVec.ofNat 64 n.2) n.1 false = true ∧
    (nx (exec (if n.1 = 4 then .ldw { d := 4, b := 2 } else .ldd { d := 4, b := 2 })
      (nx (exec (if n.1 = 4 then .stw { a := 1, b := 2 } else .std { a := 1, b := 2 }) s)))).lo 4 = if n.1 = 4 then 0x55667788 else 0x1122334455667788 := by decide +kernel

theorem witness_LocalStoreFrame : (sL 0x100).Inv ∧ (sL 0x100).me.doubleTrap = false ∧ (sL 0x100).me.phase = .idle ∧
    (localAccess { a := 1, b := 2 } (sL 0x100) 8 true).toOption = some 0x100 ∧ (localAccess { a := 1, b := 2, imm := 3 } (sL 0x100) 8 true).toOption = none ∧
    (nx (exec (.std { a := 1, b := 2 }) (sL 0x100))).mine.numAt (spad 0 0x108) 8 = 0 ∧
    (nx (exec (.std { a := 1, b := 2 }) (sL 0x100))).numAt (spad 0 0x100) 8 = 0 := by
  refine ⟨rfl, ?_⟩; decide +kernel

theorem witness_StoreThenLoad : let s := sL 0x100
    s.me.ready ([4, 1] ++ span 2 2) = true ∧ s.reaches (s.capAt 2) 0x100 8 [pRD, pWR] [0] 8 = true ∧ s.free 0x100 8 true = true ∧ s.free 0x100 8 false = true := by decide +kernel

/-- The older of two queued stores is performed; the younger waits. -/
theorem witness_StoreQueue : let s := nx (exec (.std { a := 1, b := 2, imm := 8 }) (nx (exec (.stw { a := 1, b := 2 }) { sL 0x100 with tagged := [spad 0 0x100 / 32] })))
    s.me.storeq.length = 2 ∧ (s.me.storeq.map (·.kind)) = [.bytes, .bytes] ∧ s.tagged = [spad 0 0x100 / 32] ∧ s.Inv ∧ (s.drain 0).me.storeq.length = 1 ∧
    (s.drain 0).numAt (spad 0 0x100) 8 = 0x55667788 ∧ (s.drain 0).numAt (spad 0 0x108) 8 = 0 ∧ (s.drain 0).tagged = [] ∧ s.mine.numAt (spad 0 0x108) 8 = 0x1122334455667788 := by
  refine ⟨by decide +kernel, by decide +kernel, by decide +kernel, rfl, ?_⟩; decide +kernel

/-! ## Control -/

theorem witness_Branches : (∀ p ∈ branches, ∀ o ∈ [({ a := 1, imm := 3 } : Ops), { a := 3, imm := 0xFFFFFFFFFFFFFFFF }],
      sA.me.ready [o.a.toNat] = true ∧ sA.me.numbers [o.a.toNat] = true ∧
      goes (exec (p.1 o) sA) (sA.endAt (if p.2 (sA.lo o.a) then sA.me.pc + (2 * o.imm).setWidth 56 else sA.nextPc))) ∧
    (∀ p ∈ maskBranches, goes (exec (p.1 { a := 0, imm := 5 }) sA) (sA.endAt 0x1000A) ∧ goes (exec (p.1 { a := 3, imm := 5 }) sA) (sA.endAt 0x10002)) ∧
    sA.me.ready [2] = true ∧ sA.me.numbers [2] = true ∧ goes (exec (.jr { a := 2 }) sA) ((sA.endAt 2)) := by decide +kernel

def sStack (n : Nat) : State := st { sA.me with rstack := (List.range n).map (fun i => BitVec.ofNat 56 (2 * i + 0x100)), rsb := 0x0000100000000800, sp := 0x800 }

theorem witness_CallAndReturn : (sStack 7).me.rstack.length < 8 ∧ (nx (exec (.call { imm := 4 }) (sStack 7))).me.rstack.head? = some 0x10002 ∧
    (nx (exec (.call { imm := 4 }) (sStack 7))).me.pc = 0x10008 ∧ (nx (exec (.callr { a := 2 }) (sStack 0))).me.pc = 2 ∧
    (sStack 1).me.rstack = [0x100] ∧ (nx (exec .ret (sStack 1))).me.pc = 0x100 := by decide +kernel

theorem witness_CallSpills : let s := sStack 8
    s.me.rstack.length = 8 ∧ s.me.rstack.getLast? = some 0x10E ∧ s.me.rsbOk = true ∧ s.me.sp.toNat + 8 ≤ s.me.rsbLim ∧ s.free s.me.sp 8 true = true ∧
    (nx (exec (.call { imm := 4 }) s)).mine.numAt (spad 0 0x800) 8 = 0x10E ∧ (nx (exec (.call { imm := 4 }) s)).me.sp = 0x808 := by decide +kernel

theorem witness_PlainZGroup : (st { c0 with event := true }).me.event = true ∧ (nx (exec .wfe (st { c0 with event := true }))).me.event = false ∧
    (nx (exec .wfe (st c0))).me.wait ≠ none ∧ (nx (exec .hb (st { c0 with hb := 3, hbi := 7 }))).me.hb = 7 ∧ (nx (exec .nop (st c0))).me.pc = 0x10002 := by decide +kernel

theorem witness_ExceptionEntry : (st c0).me.doubleTrap = false ∧ (nx (exec .brk (st c0))).me.pc = 0x40000 + 0x19 * 64 ∧ (nx (exec .brk (st c0))).me.level = .system ∧
    (nx (exec .brk (st c0))).me.tpc = 0x10000 ∧ (nx (exec .brk (st c0))).me.tsav = 1 ∧ (nx (exec .brk (st c0))).me.tcause = 0x19 := by decide +kernel

theorem witness_SystemCall : (st c0).me.doubleTrap = false ∧ (nx (exec (.trap { imm := 7 }) (st c0))).me.tval = 7 ∧ (nx (exec (.trap { imm := 7 }) (st c0))).me.tcause = 0x18 ∧
    decode [0xE407] = .ok (.trap { imm := 7 }) 1 ∧ decode [0xF001, 0xE407] = .ok (.trap { imm := 39 }) 2 ∧ decode [0xE427] = .trap .ill 0x1E427 1 := by decide +kernel

def sS (f : Ctx → Ctx) : State := st (f (sys c0))

theorem witness_ReturnFromException : let s := sS (fun c => { c with tpc := 0x2000, tsav := 0x40 })
    s.me.level = .system ∧ s.me.tpc.getLsbD 0 = false ∧ (nx (exec .eret s)).me.pc = 0x2000 ∧ (nx (exec .eret s)).me.level = .user ∧
    (nx (exec .eret s)).me.stepping = .armed ∧ (nx (exec .eret (st { s.me with stepping := .armed }))).me.stepping = .due ∧ (st c0).me.level = .user ∧ (nx (exec .eret (st c0))).me.tcause = 0x1C := by decide +kernel

theorem witness_DoubleTrap : (st { c0 with level := .system, tsav := 0 }).me.doubleTrap = true ∧ (st { c0 with tvec := 0 }).me.doubleTrap = true ∧
    ((st { c0 with tvec := 0 }).takeTrap 0 .brk 0 false 1).me.busy = false := by decide +kernel

theorem witness_OddTargets : let s := st ({ c0 with rstack := [] }.nums [(1, 0x2001)])
    s.me.ready [1] = true ∧ s.me.numbers [1] = true ∧ (s.lo 1).getLsbD 0 = true ∧ goes (exec (.jr { a := 1 }) s) (s.takeTrap 0 .align 0x2001 false 1) ∧
    (push s s.nextPc).toOption.isSome = true ∧ goes (exec (.callr { a := 1 }) s) (s.takeTrap 0 .align 0x2001 false 1) ∧
    (sS (fun c => { c with tpc := 3 })).me.tpc.getLsbD 0 = true ∧ goes (exec .eret (sS (fun c => { c with tpc := 3 }))) ((sS (fun c => { c with tpc := 3 })).takeTrap 0 .align 3 false 1) ∧
    s.me.pc.getLsbD 0 = false ∧ goes (exec (.b { imm := 1 }) s) (s.endAt 0x10002) := by decide +kernel

/-! ## Capabilities and state registers -/

def sC : State := st (((c0).nums [(1, 0x10), (4, 0x41)]).cap 2 { cur := 0x100, base := 0x40, lim := 0x200, prm := 0x43, spc := 0 })

theorem witness_CapabilityInstructions : sC.me.ready (span 6 2 ++ span 2 2 ++ [1]) = true ∧ sC.me.holdsCap 2 = true ∧ sC.me.numbers [1] = true ∧
    (sC.capAt 2).base.toNat ≤ (sC.capAt 2).cur.toNat ∧ (sC.capAt 2).cur.toNat + (sC.lo 1).toNat ≤ (sC.capAt 2).lim.toNat ∧
    (nx (exec (.cinc { d := 6, a := 2, b := 1 }) sC)).capAt 6 = { cur := 0x110, base := 0x40, lim := 0x200, prm := 0x43, spc := 0 } ∧
    (nx (exec (.csetb { d := 6, a := 2, b := 1 }) sC)).capAt 6 = { cur := 0x100, base := 0x100, lim := 0x110, prm := 0x43, spc := 0 } ∧
    (nx (exec (.cperm { d := 6, a := 2, b := 4 }) sC)).capAt 6 = { cur := 0x100, base := 0x40, lim := 0x200, prm := 0x41, spc := 0 } ∧
    goes (exec (.cinci { d := 2, a := 2, imm := 8 }) sC) ((sC.putL 2 (capRegs { sC.capAt 2 with cur := 0x108 })).endNext) ∧
    goes (exec (.cgeta { d := 6, b := 2 }) sC) ((sC.putL 6 ((sC.win 2 2).map (fun v => (v.1, .data)))).endNext) := by decide +kernel

theorem witness_TagReport : (∀ o ∈ [({ d := 5, b := 2 } : Ops), { d := 5, b := 1 }, { d := 1, b := 1 }],
      (sC.me.reg o.b.toNat).pres ≠ .leased ∧ sC.me.ready [o.d.toNat] = true) ∧ (nx (exec (.tagof { d := 5, b := 2 }) sC)).lo 5 = 1 ∧
    (nx (exec (.tagof { d := 5, b := 1 }) (st ((c0).pres 1 .empty)))).lo 5 = 4 ∧ (nx (exec (.tagof { d := 1, b := 1 }) (st ((c0).faulted 1 ⟨.pois, 0⟩)))).lo 1 = 16 ∧
    goes (exec (.tagof { d := 5, b := 1 }) (st ((c0).pres 1 .leased))) ((st ((c0).pres 1 .leased)).takeTrap 0 .lease 1 false 1) := by decide +kernel

theorem witness_StateRegisterAccess : (st c0).me.level = .user ∧ (∀ n ∈ sysOnly, (nx (exec (.srd { d := 5, imm := BitVec.ofNat 64 n }) (st c0))).me.tval = BitVec.ofNat 64 n) ∧
    (sS id).me.level = .system ∧ (∀ n ∈ [0, 1, 2, 5, 9, 0x10, 0x20, 0x3F, 0x43, 0x100], gives (exec (.srd { d := 5, imm := BitVec.ofNat 64 n }) (sS id)) 5 ((sS id).sreg n) ∧
      goes (exec (.swr { a := 1, imm := BitVec.ofNat 64 n }) (sS id)) (((sS id).writeSreg n 0).endNext)) ∧ 0x40 ∉ sysOnly := by decide +kernel

/-! ## Vectors and masks -/

/-- Sixteen lanes in a window. -/
def Ctx.lanes16 (c : Ctx) (n : Nat) (l : List (BitVec 32)) : Ctx := c.wrList n ((laneRegs l).map (fun q => (q, Tag.data)))

/-- Lanes 1.0, 2.5, −3.0, 0, NaN and integers, with mask m2 on the even lanes. -/
def sV : State := st (Ctx.lanes16 (Ctx.lanes16 { c0 with masks := Vector.ofFn (fun (i : Fin 8) => if i.val = 2 then 0x5555 else 0) } 8
  [0x3F800000, 0x40200000, 0xC0400000, 0, 0x7FC00000, 7, 0xFFFFFFFF, 0x80000000, 1, 2, 3, 4, 5, 6, 7, 8]) 12
  [0x3F800000, 0x3F800000, 0x40400000, 0, 0x3F800000, 2, 2, 0xFFFFFFFF, 0, 0, 0, 33, 1, 1, 1, 1])

def oV : Ops := { d := 16, a := 8, b := 12, msk := 2 }

theorem witness_LaneArithmetic : (∀ f ∈ laneForms, ∀ t ∈ [VTy.i32, .u32, .f32],
      sV.me.ready (span oV.d 4 ++ (if f.useA then span oV.a 4 else []) ++ span oV.b 4) = true ∧
      sV.me.numbers ((f.sources oV).flatMap (fun w => span w 4)) = true ∧ noAbn sV (lanesOn sV oV false) (f.sources oV) 16 = true) ∧
    (nx (exec (.vadd false false .f32 oV) sV)).me.lane 16 0 = 0x40000000 ∧ (nx (exec (.vadd false false .f32 oV) sV)).me.lane 16 1 = 0 ∧
    (nx (exec (.vdiv true false .i32 oV) sV)).me.lane 16 8 = 1 ∧ (nx (exec (.vdiv false false .i32 oV) sV)).me.lane 16 8 = 0xFFFFFFFF ∧
    (nx (exec (.vmul false true .f32 { d := 16, a := 8, b := 12 }) sV)).lo 16 = 0x3F800000 := by decide +kernel

theorem witness_LaneConversion : sV.me.ready (span 16 4 ++ span 8 4) = true ∧ noAbn sV 0xFFFF [8] 16 = true ∧
    (nx (exec (.vcvt .i32 false .f32 { d := 16, b := 8 }) sV)).me.lane 16 1 = 2 ∧ (nx (exec (.vcvt .i32 false .f32 { d := 16, b := 8 }) sV)).me.lane 16 4 = 0 ∧
    (nx (exec (.vcvt .e4m3 true .f32 { d := 16, b := 1 }) (st ((c0).nums [(1, 0x43FA0000)])))).lo 16 = 0x7E := by decide +kernel

theorem witness_LaneReductions : sV.me.ready (span 12 4 ++ span 8 4) = true ∧ sV.me.ready (20 :: span 8 4) = true ∧ sV.me.numbers (span 8 4 ++ span 12 4) = true ∧
    (nx (exec (.vcmp .lt false .i32 { c := 3, a := 12, b := 8, msk := 2 }) sV)).me.mask 3 = 0x5510 ∧
    (nx (exec (.vred .max .u32 { d := 20, b := 8 }) sV)).lo 20 = 0xFFFFFFFF ∧
    (nx (exec (.vscan .add .i32 { d := 20, b := 8, msk := 2 }) sV)).me.lane 20 2 = 0xFFC00000 := by decide +kernel

/-- VRED.ADD.F32 of 2^24 and fifteen times 1.0 is 2^24, with NX (R119). -/
theorem test_reduction_order : let s := st (Ctx.lanes16 c0 8 (0x4B800000 :: List.replicate 15 0x3F800000))
    (nx (exec (.vred .add .f32 { d := 20, b := 8 }) s)).lo 20 = 0x4B800000 ∧ (nx (exec (.vred .add .f32 { d := 20, b := 8 }) s)).me.fcs = 0x10 := by decide +kernel

theorem witness_LaneMovement : sV.me.ready (span 16 4 ++ span 8 4 ++ span 12 4) = true ∧ sV.me.numbers (span 8 4 ++ span 12 4 ++ span 16 4) = true ∧
    (nx (exec (.vsel .u32 oV) sV)).me.lane 16 5 = 2 ∧ (nx (exec (.vsel .u32 oV) sV)).me.lane 16 6 = 0xFFFFFFFF ∧
    (nx (exec (.vperm .u32 oV) sV)).me.lane 16 12 = 0x40200000 ∧ (nx (exec (.vslide true .u32 { d := 16, a := 8, b := 1 }) sV)).me.lane 16 5 = 7 ∧
    (nx (exec (.vslide false .u32 { d := 16, a := 8, b := 2 }) (st (sV.me.nums [(2, 15)])))).me.lane 16 15 = 0x3F800000 ∧
    (nx (exec (.vext .u32 { d := 20, a := 8, b := 2 }) (st (sV.me.nums [(2, 0x1F)])))).lo 20 = 8 := by decide +kernel

theorem witness_LaneMerge : (16 : RegNo) ≠ 0 ∧ (16 : RegNo).toNat % 4 = 0 ∧ (putVec sV 16 false 1 (fun _ => 9)).me.lane 16 0 = 9 ∧
    (putVec sV 60 true 1 (fun _ => 9)).lo 60 = 9 := by decide +kernel

theorem witness_MaskInstructions : sV.me.ready [5] = true ∧ sV.me.numbers [5] = true ∧ (nx (exec (.mnot { d := 3, b := 2 }) sV)).me.mask 3 = 0xAAAA ∧
    (nx (exec (.mand { d := 0, a := 2, b := 2 }) sV)).me.mask 0 = 0xFFFF ∧ (nx (exec (.mpopc { d := 5, b := 2 }) sV)).lo 5 = 8 ∧
    (nx (exec (.mfirst { d := 5, b := 3 }) sV)).lo 5 = 16 ∧ (nx (exec (.mset { d := 7, b := 5 }) (st (sV.me.nums [(5, 0x12345)])))).me.mask 7 = 0x2345 := by decide +kernel

/-! ## Memory -/

def sM (c : Cap) : State := { st ((((c0).nums [(1, 0xFF80)]).cap 2 c).cap 6 (lc 0x40)) with tagged := [2 ^ 43 + 2] }

theorem witness_OwnAccesses : let s := sM (lc 0x40)
    s.me.holdsCap 2 = true ∧ s.isOwn 0 0x40 = true ∧ (∀ z ∈ [Sz.b, .h, .w, .d, .q], s.reaches (s.capAt 2) 0x40 (szBytes z) [pRD] [0, 1, 2] (szBytes z) = true ∧
      s.reaches (s.capAt 2) 0x40 (szBytes z) [pWR] [0, 1, 2] (szBytes z) = true ∧ s.free 0x40 (szBytes z) true = true ∧ s.free 0x40 (szBytes z) false = true) ∧
    s.me.ready (5 :: span 2 2) = true ∧ s.me.ready (1 :: span 2 2) = true ∧ s.me.storable [1] = true ∧
    (nx (exec (.ld true .b { d := 5, b := 2 }) (nx (exec (.st .h { a := 1, b := 2 }) s)))).lo 5 = 0xFFFFFFFFFFFFFF80 ∧
    s.me.ready (span 8 2 ++ span 2 2) = true ∧ s.me.holdsCap 6 = true ∧ s.reaches (s.capAt 2) 0x40 32 [pRD, pLC] [0, 1, 2] 32 = true ∧
    s.reaches (s.capAt 2) 0x40 32 [pWR, pSC] [0, 1, 2] 32 = true ∧ s.free 0x40 32 true = true ∧
    (nx (exec (.ldc { d := 8, b := 2 }) (nx (exec (.stc { a := 6, b := 2 }) s)))).capAt 8 = lc 0x40 ∧
    (nx (exec (.ldc { d := 8, b := 2 }) (nx (exec (.stc { a := 6, b := 2 }) s)))).me.holdsCap 8 = true ∧
    ((nx (exec (.st .b { a := 1, b := 2 }) s)).drain 0).tagged = [] := by decide +kernel

theorem witness_RemoteAccesses : ∀ c ∈ [cc 0x80010, dc 0x20000], let s := sM c
    s.me.holdsCap 2 = true ∧ s.isOwn c.spc c.cur = false ∧ (∀ z ∈ [Sz.b, .q], s.reaches (s.capAt 2) c.cur (szBytes z) [pRD] [0, 1, 2] (szBytes z) = true ∧
      s.reaches (s.capAt 2) c.cur (szBytes z) [pWR] [0, 1, 2] (szBytes z) = true) ∧ s.room c.spc 1 = true ∧
    ((nx (exec (.ld false .w { d := 5, b := 2 }) s)).me.reg 5).pres = .empty ∧ (nx (exec (.ld false .w { d := 5, b := 2 }) s)).net.length = 1 ∧
    (nx (exec (.st .w { a := 1, b := 2 }) s)).net.length = 1 ∧ (nx (exec (.st .w { a := 1, b := 2 }) s)).me.pc = 0x10002 := by decide +kernel

/-- Every store slot of the cluster network in use. -/
def sFull : State := { sM (cc 0x80010) with net := (List.range 64).map (fun i => { id := i, g := 0, fire := 0, lid := 1, pid := 1, body := .acc { kind := .store, space := 1, pieces := [], weight := 1 } }) }

theorem witness_RemoteAccesses_full : sFull.room 1 1 = false ∧ (nx (exec (.st .w { a := 1, b := 2 }) sFull)).me.pc = 0x10000 ∧
    (nx (exec (.st .w { a := 1, b := 2 }) sFull)).net.length = 64 := by decide +kernel

theorem witness_VectorAccesses : (∀ p ∈ vectorLoads, let s := st (sV.me.cap 2 (lc 0x100))
      (vecChecks s (s.capAt 2) 2 .i32 none pRD (laneList s { d := 16, a := 20, b := 2, imm := 4, msk := 2 } (p.2.2 s { d := 16, a := 20, b := 2, imm := 4, msk := 2 }))).toOption.isSome = true ∧
      (nx (exec (p.1 .i32 { d := 16, a := 20, b := 2, imm := 4, msk := 2 }) s)).me.pc = 0x10002) ∧
    (∀ p ∈ vectorStores, let s := st (sV.me.cap 2 (lc 0x100))
      let o : Ops := { c := 8, a := if p.2.2.1 then 20 else 8, b := 2, imm := 4, msk := 2 }
      s.me.phase = .idle ∧ (vecChecks s (s.capAt 2) 2 .i32 (some 8) pWR (laneList s o (p.2.2.2 s o))).toOption.isSome = true ∧
      (nx (exec (p.1 .i32 o) s)).me.pc = 0x10002) ∧
    (nx (exec (.vst .i32 { a := 8, b := 2 }) (st (sV.me.cap 2 (lc 0x100))))).mine.numAt (spad 0 0x104) 4 = 0x40200000 := by decide +kernel

/-! ## Atomics and fences -/

theorem witness_CoreAtomics : let s := sM (lc 0x40)
    s.me.holdsCap 2 = true ∧ s.me.numbers [1, 5] = true ∧ atomReady s (s.capAt 2) 0x40 4 = true ∧ atomReady s (s.capAt 2) 0x40 8 = true ∧
    s.me.ready (5 :: 1 :: span 2 2) = true ∧ isAbn ((s.lo 1).setWidth 32) = false ∧
    (∀ e ∈ [(AmoOp.add, 0xFF8A), (.and, 0), (.or, 0xFF8A), (.xor, 0xFF8A), (.min, 10), (.max, 0xFF80), (.minu, 10), (.maxu, 0xFF80), (.swap, 0xFF80)],
      let t := nx (exec (.amo false false e.1 { d := 5, a := 1, b := 2 }) (s.store 1 (spad 0 0x40) (leBytes 4 10)))
      t.numAt (spad 0 0x40) 4 = e.2 ∧ t.lo 5 = 10) ∧
    (nx (exec (.amo true true .add { a := 1, b := 2 }) s)).numAt (spad 0 0x40) 8 = 0xFF80 ∧
    (nx (exec (.cas false { d := 5, a := 1, b := 2 }) s)).numAt (spad 0 0x40) 4 = 0xFF80 ∧
    (nx (exec (.cas false { d := 1, a := 1, b := 2 }) s)).numAt (spad 0 0x40) 4 = 0 := by decide +kernel

def sAt (p : Phase) : State := let s := sM (dc 0x20000); st { s.me with phase := p }

theorem witness_RemoteAtomics : let s := sAt .idle
    s.me.holdsCap 2 = true ∧ s.me.ready (5 :: 1 :: span 2 2) = true ∧ s.me.numbers [1] = true ∧
    s.reaches (s.capAt 2) 0x20000 8 [pRD, pWR, pAT] [0, 1, 2] 8 = true ∧ (nx (exec (.amo false true .add { d := 5, a := 1, b := 2, scp := .dev }) s)).net.length = 1 ∧
    (nx (exec (.amo false true .add { d := 5, a := 1, b := 2, scp := .dev }) s)).me.pc = 0x10000 ∧
    (nx (exec (.amo false true .add { d := 5, a := 1, b := 2, scp := .dev }) (sAt (.done { data := 42 })))).lo 5 = 42 ∧
    (nx (exec (.amo false true .add { d := 5, a := 1, b := 2, scp := .dev }) (sAt (.done { fault := some ⟨.xlat, 7⟩ })))).me.tcause = 0x11 ∧
    (sM (cc 0x80000)).reaches (cc 0x80000) 0x80000 4 [pRD, pWR, pAT] [0, 1] 4 = true := by decide +kernel

theorem witness_quiet : quiet (sM (lc 0x40)) := by
  refine ⟨?_, ?_, ?_, ?_, ?_, ?_, ?_, ?_, ?_, ?_, ?_, ?_⟩ <;> decide +kernel

theorem witness_Fences : let s := sM (lc 0x40)
    s.me.ready [1, 5] = true ∧ s.me.numbers [1, 5] = true ∧ goes (exec (.fnc .d .ar { a := 1, b := 5, scp := .dev }) s) (s.endNext) ∧ goes (exec (.fnca .ar { scp := .sys }) s) (s.endNext) ∧
    s.net = [] ∧ (sS id).me.level = .system ∧
    ((nx (exec (.fncInv { a := 1, b := 4, scp := .sys }) { st (sys (c0.nums [(1, 0), (4, 0x20000)])) with dies := [(0, { tlb := [(1, { pid := 1, vpn := 1, leaf := 7 }), (1, { pid := 1, vpn := 9, leaf := 7 })] })] })).dieAt 0).tlb.length = 1 ∧
    (nx (exec (.fncInv { scp := .dev }) s)).me.tcause = 0x1C := by decide +kernel

theorem witness_FenceReports : let s := st { c0 with clusterRef := some ⟨.lock, 0x55⟩, deviceRef := some ⟨.xlat, 0x66⟩ }
    s.cluStores = 0 ∧ s.devStores = 0 ∧ s.net.any (fun m => m.isLoad s.cur s.me.fire) = false ∧ s.net.any (fun m => m.isPosted s.cur s.me.fire || m.isSld s.cur s.me.fire) = false ∧ s.queueOut = false ∧
    s.me.clusterRef = some ⟨.lock, 0x55⟩ ∧ (nx (exec (.fnca .ar { scp := .clu }) s)).me.tval = 0x55 ∧ (nx (exec (.fnca .ar { scp := .clu }) s)).me.tcause = 0x10D ∧
    (nx (exec (.fnca .ar { scp := .clu }) s)).me.clusterRef = none := by decide +kernel

/-! ## Varifloat -/

/-- 1.5 and 2 at a working length of eight bytes, in registers 8 and 10, as the head and fraction of R142 give them. -/
def sF : State := st ((c0).nums [(8, BitVec.ofNat 128 (2 ^ 127 + (2 ^ 29 + 7 * 2 ^ 24 + 57 * 2 ^ 16 + 16383))), (10, BitVec.ofNat 128 (2 ^ 29 + 7 * 2 ^ 24 + 65 * 2 ^ 16 + 16384)), (3, 5)])

theorem witness_VarifloatArithmetic : sF.me.ready (span 12 1 ++ span 8 1 ++ span 10 1) = true ∧ sF.me.numbers (span 8 1 ++ span 10 1 ++ span 12 1) = true ∧
    8 * sF.me.vfLen ≤ vfBits 1 ∧ vfHolds sF 8 1 = true ∧ vfHolds sF 10 1 = true ∧ vfHolds sF 12 1 = true ∧
    (∀ p ∈ vfArithmetic, precise sF (vfRound sF.me.rm sF.me.vfLen (p.2.2 sF.me.vfLen (sF.vfAt 8 1) (sF.vfAt 10 1)) (p.2.1 sF.me.rm (sF.vfAt 8 1) (sF.vfAt 10 1)).1).1 = true ∧
      (nx (exec (p.1 { d := 12, a := 8, b := 10 }) sF)).me.pc = 0x10002) ∧
    ((nx (exec (.fvmul { d := 12, a := 8, b := 10 }) sF)).vfAt 12 1).exp = 16384 ∧ ((nx (exec (.fvmul { d := 12, a := 8, b := 10 }) sF)).vfAt 12 1).frac = 2 ^ 63 ∧
    (nx (exec (.fvadd { d := 12, a := 8, b := 10 }) (st { sF.me with prc := 0x14107 }))).me.tcause = 0x0A := by decide +kernel

theorem witness_VarifloatOthers : sF.me.ready [5, 3] = true ∧ sF.me.numbers [3] = true ∧ (nx (exec (.pset { d := 5, b := 3 }) sF)).me.prc = 5 ∧ (nx (exec (.pset { d := 5, b := 3 }) sF)).lo 5 = 7 ∧
    (nx (exec (.psetW { d := 5, imm := 31 }) sF)).me.prc = 27 ∧ (nx (exec (.fvlenW { d := 5 }) sF)).lo 5 = 12 ∧
    (sF.vfAt 8 1).num.isNan = false ∧ (nx (exec (.fvcmp { d := 5, a := 8, b := 10 }) sF)).lo 5 = 0xFFFFFFFFFFFFFFFF ∧
    (nx (exec (.fvcvtToi { d := 5, b := 10 }) sF)).lo 5 = 2 ∧ (nx (exec (.fvcvtTof { d := 5, b := 8 }) sF)).lo 5 = 0x3FC00000 ∧
    (nx (exec (.fvsigGet { d := 5, b := 8 }) sF)).lo 5 = 57 ∧
    ((nx (exec (.fvcvtFromi { d := 12, b := 3 }) sF)).vfAt 12 1).exp = 16385 ∧ isAbn ((sF.lo 3).setWidth 32) = false ∧
    ((nx (exec (.fvsigSet { d := 12, a := 8, b := 3 }) sF)).vfAt 12 1).cnt = 5 ∧ ((nx (exec (.fvrnd { d := 12, b := 8, imm := 4 }) sF)).vfAt 12 1).len = 4 ∧
    8 * 12 ≤ vfBits 1 ∧ ¬ (8 * 13 ≤ vfBits 1) ∧ 8 * 28 ≤ vfBits 2 := by decide +kernel

def sFM : State := st ((sF.me.nums [(14, 5)]).cap 2 (lc 0x100))

theorem witness_VarifloatMemory : sFM.me.holdsCap 2 = true ∧ (sFM.vfAt 8 1).len = 8 ∧ sFM.reaches (sFM.capAt 2) 0x100 12 [pWR] [0, 1, 2] 1 = true ∧
    (∀ p ∈ vfPieces 0x100 (sFM.vfAt 8 1).bytes 12, sFM.isOwn 0 p.va = true ∧ sFM.free p.va p.n true = true) ∧
    (let t := nx (exec (.fvst { a := 8, b := 2 }) sFM)
     (t.capAt 2).cur = 0x10C ∧ t.me.pc = 0x10002 ∧
     (let u := nx (exec (.fvld { d := 12, b := 2 }) { t with ctxs := [(0, t.me.cap 2 (lc 0x100))] })
      u.vfAt 12 1 = sFM.vfAt 8 1 ∧ (u.capAt 2).cur = 0x10C)) ∧
    (let t := nx (exec (.fvstIx { c := 8, a := 14, b := 2, imm := 8 }) sFM)
     t.me.pc = 0x10002 ∧ (vfRound sFM.me.rm 8 (cntOf (sFM.vfAt 8 1).ulps 8) (sFM.vfAt 8 1).num).1.len = 8 ∧
     (nx (exec (.fvldIx { d := 12, a := 14, b := 2, imm := 8 }) t)).vfAt 12 1 = sFM.vfAt 8 1) := by decide +kernel

/-! ## Verdicts -/

theorem witness_VerdictBounds : sound { isOpen := true, dim := 1, query := [3], planes := 0 } ∧ sound { isOpen := true, dim := 1, query := [3], planes := 8 } := by
  refine ⟨⟨rfl, by decide, fun _ _ => rfl⟩, ⟨rfl, by decide, fun h => by simp at h⟩⟩

theorem witness_VerdictKeepsWinners : let v : Verdict := { isOpen := true, dim := 1, query := [3], acc := List.replicate 16 0, alive := 0xFFFF }
    v.planes < 8 ∧ v.src ≤ 1 ∧ (v.step (List.replicate 16 0) 400).2.getLsbD 15 = true ∧ (v.step (List.replicate 16 0) 381).2 = 0 := by decide +kernel

/-- Query bytes in registers 4 to 7, control word in 1 with dimension 3 and threshold 5, a cell and planes at 0x200. -/
def sD : State := st ((((c0).nums [(4, 0x030201), (1, 0x0000000500000003)])).cap 2 (lc 0x200))

def sDo (n : Nat) : State := st { sD.me with verdict := { (openVerdict 1 (sD.win 4 4) (sD.lo 1) (0, 0)) with planes := n } }

theorem witness_VerdictInstructions : sD.me.ready (1 :: span 4 4) = true ∧ sD.me.numbers (span 4 4 ++ [1]) = true ∧ badControl (sD.lo 1) = false ∧
    sD.me.ready (span 2 2) = true ∧ sD.me.holdsCap 2 = true ∧ sD.reaches (sD.capAt 2) 0x200 4 [pRD] [0, 1, 2] 4 = true ∧
    (nx (exec (.vdopenGeqImm { a := 4, c := 1 }) sD)).me.verdict.query = [1, 2, 3] ∧ (nx (exec (.vdopenGeqImm { a := 4, c := 1 }) sD)).me.verdict.imm = 5 ∧
    (sDo 0).me.verdict.isOpen = true ∧ (sDo 0).me.verdict.src ≠ 0 ∧ (sDo 0).reaches ((sDo 0).capAt 2) 0x200 16 [pRD] [0, 1] 1 = true ∧
    (∀ p ∈ planePieces 5 (0x200 : Word) 4 16, (sDo 0).isOwn 0 p.va = true) ∧ (sDo 0).free 0x200 16 false = true ∧
    (nx (exec (.vdps { d := 20, b := 2 }) (sDo 0))).me.verdict.planes = 1 ∧ ((nx (exec (.vdps { d := 20, b := 2 }) (sDo 0))).capAt 2).cur = 0x210 ∧
    (sDo 8).me.verdict.planes = 8 ∧ (nx (exec (.vdfin { d := 20 }) (sDo 8))).me.verdict.isOpen = false ∧
    (nx (exec (.vdlow { d := 20 }) (sDo 0))).me.lane 20 0 = BitVec.ofInt 32 (-768) ∧ (nx (exec (.vdupr { d := 20 }) (sDo 0))).me.lane 20 0 = 762 ∧
    (nx (exec (.vdchkLive { a := 3, b := 20 }) sD)).me.mask 3 = 0xFFFF ∧
    atomReady sD (sD.capAt 2) 0x200 4 = true ∧ (nx (exec (.vtraise { d := 20, a := 1, b := 2 }) sD)).numAt (spad 0 0x200) 4 = 3 := by decide +kernel

/-! ## The further clauses of the statements -/

/-- EMPTY registers: source b under the trap policy; waits on source b, on the destination, and on one that MRECV has left pending. -/
theorem witness_RegisterChecks_empty :
    goes (exec (.add { d := 5, a := 1, b := 2, epb := true }) (sR (·.pres 2 .empty))) ((sR (·.pres 2 .empty)).takeTrap 0 .empty 2 false 1) ∧
    goes (exec (.add { d := 5, a := 1, b := 2 }) (sR (·.pres 2 .empty))) (emptyWait (sR (·.pres 2 .empty)) 2) ∧
    goes (exec (.add { d := 5, a := 1, b := 2 }) (sR (·.pres 5 .empty))) ((sR (·.pres 5 .empty)).blocked 6 0 6) ∧
    (let s := sR (fun c => { c.pres 2 .empty with recvs := [{ hdr := 9, pay := 0, mask := 0x30 }] })
     goes (exec (.add { d := 5, a := 1, b := 2 }) s) (s.blocked 3 4 3)) := by decide +kernel

/-- The spill of CALLR, the refill of RET and the limits of the spill area: the pointer at BASE + 8 and at the last place of the area. -/
theorem witness_CallSpills_refill :
    (nx (exec (.callr { a := 2 }) (sStack 8))).me.pc = 2 ∧ (nx (exec (.callr { a := 2 }) (sStack 8))).me.sp = 0x808 ∧
    (nx (exec (.call { imm := 4 }) (st { (sStack 8).me with sp := 0xFF8 }))).me.tcause = 0 ∧
    (nx (exec (.call { imm := 4 }) (st { (sStack 8).me with sp := 0xFF9 }))).me.tval = 0xFF9 ∧
    (nx (exec (.call { imm := 4 }) (st { (sStack 8).me with rsb := 0x0000100400000800 }))).me.tval = 0x800 ∧
    (let s (v : Byte) (sp : Word) : State := { st { (sStack 0).me with sp := sp } with mem := [(spad 0 0x800, v)] }
     (s 6 0x808).me.rstack = [] ∧ (s 6 0x808).me.sp.toNat ≠ (s 6 0x808).me.rsbBase ∧ (s 6 0x808).free 0x800 8 false = true ∧
     (nx (exec .ret (s 6 0x808))).me.pc = 6 ∧ (nx (exec .ret (s 6 0x808))).me.sp = 0x800 ∧
     (nx (exec .ret (s 7 0x808))).me.tval = 7 ∧ (nx (exec .ret (s 7 0x808))).me.sp = 0x808 ∧
     (nx (exec .ret (s 6 0x807))).me.tval = 0x807 ∧ (nx (exec .ret (s 6 0x1008))).me.tval = 0x1008) := by decide +kernel

/-- A double trap of an actor's firing: the actor is disabled, and the message goes to tag 15 of the supervisor, which is core 1 for core 0. -/
theorem witness_DoubleTrap_effects :
    (let s : State := { st { c0 with tvec := 0, recvs := [{ hdr := 9, pay := 16, mask := 1 }] } with
       cyc := 0x99, cores := [(0, { lid := 1, actors := [(3, { en := true, ctx := some 0 })], rings := [(0x100, { occ := 2 })] })] }
     let t := s.takeTrap 0 .brk 0 false 1
     (s.ctxAt 0).doubleTrap = true ∧ t.myCore.actors = [(3, { en := false, ctx := none })] ∧ t.myCore.rings = [(0x100, { occ := 2 })] ∧
     t.me.busy = false ∧ t.me.fire = 1 ∧ t.me.recvs = [] ∧
     t.net.map (fun m => match m.body with | .packet p => (p.to_, p.tag, p.bytes) | .faultCopy bs => (0, 0, bs) | _ => (9, 9, [])) =
       [(1, 15, leBytes 2 0 ++ [3, 0x19] ++ leBytes 4 0 ++ leBytes 8 0x10000 ++ leBytes 8 1 ++ leBytes 8 0x99),
        (0, 0, leBytes 2 0 ++ [3, 0x19] ++ leBytes 4 0 ++ leBytes 8 0x10000 ++ leBytes 8 1 ++ leBytes 8 0x99)]) := by decide +kernel

/-- The writable bits of PRC, a bank format with a reserved code, ILD with and without messages in its ring. -/
theorem witness_StateRegisterValues :
    ((sS id).writeSreg 2 (BitVec.allOnes 64)).sreg 2 = 0x1FF1B ∧ ((sS id).writeSreg 0x21 (BitVec.allOnes 64)).sreg 0x21 &&& 0x1F = 0 ∧
    ((sS id).writeSreg 0x2F 0x30001).sreg 0x2F = 0x30001 ∧
    (sS id).myCore.inbox = [] ∧ ((sS id).writeSreg 0x0E (BitVec.allOnes 64)).sreg 0x0E = 0x7FFF0 ∧ ((sS id).writeSreg 0x0E 0x504100).sreg 0x0E = 0x504100 ∧
    (let s : State := { sS id with cores := [(0, { lid := 1, inbox := [(0, 2)] })] }
     goes (.next (s.writeSreg 0x0E 0x504100)) s) := by decide +kernel

/-- .FADD at CORE scope that finds a value of the ABN payload class. -/
theorem witness_CoreAtomics_abn :
    (let s := (sM (lc 0x40)).store 1 (spad 0 0x40) (leBytes 4 0xFFBA2345)
     isAbn ((s.lo 1).setWidth 32) = false ∧ isAbn (BitVec.ofNat 32 (s.mine.numAt (spad 0 0x40) 4)) = true ∧
     (nx (exec (.amo false false .fadd { d := 5, a := 1, b := 2 }) s)).me.tval = 0x40 ∧
     (nx (exec (.amo true false .fadd { a := 1, b := 2 }) s)).me.deviceRef = some ⟨.abn, 0x40⟩ ∧
     (nx (exec (.amo true false .fadd { a := 1, b := 2 }) s)).me.pc = 0x10002) := by decide +kernel

/-- CAS, .NR and SYS: each sends one request; a posted atomic completes, but one of SYS scope waits for its translation. -/
theorem witness_RemoteAtomics_forms :
    (let kinds (t : State) := t.net.map (fun m => match m.body with | .atom x => (x.kind, x.nr) | _ => (.amo .add, false))
     let o : Ops := { d := 5, a := 1, b := 2, scp := .dev }
     let y : Ops := { a := 1, b := 2, scp := .sys }
     (sAt .idle).storesOut 0 0 = false ∧
     kinds (nx (exec (.cas true { o with scp := .sys }) (sAt .idle))) = [(.cas 0, false)] ∧
     (nx (exec (.cas true o) (sAt (.done { data := 9 })))).lo 5 = 9 ∧
     kinds (nx (exec (.amo true true .add { o with d := 0 }) (sAt .idle))) = [(.amo .add, true)] ∧ (nx (exec (.amo true true .add { o with d := 0 }) (sAt .idle))).me.pc = 0x10002 ∧
     kinds (nx (exec (.amo true true .add y) (sAt .idle))) = [(.amo .add, true)] ∧ (nx (exec (.amo true true .add y) (sAt .idle))).me.pc = 0x10000 ∧
     (nx (exec (.amo true true .add y) (sAt .idle))).me.wait = none ∧ (nx (exec (.amo true true .add y) (sAt (.done {})))).me.pc = 0x10002 ∧
     (nx (exec (.amo true true .add y) (sAt (.done { fault := some ⟨.xlat, 7⟩ })))).me.tval = 7) := by decide +kernel

/-- FVCMP of a quiet and of a signalling NaN; FVCVT.FROMF of a subnormal, whose count is that of its significant bits. -/
theorem witness_VarifloatOthers_nan :
    (let s : State := nx (exec (.fvcvtFromf { d := 12, b := 3 }) (st (sF.me.nums [(3, 0x7FC00000)])))
     (s.vfAt 12 1).num.isNan = true ∧ (nx (exec (.fvcmp { d := 5, a := 12, b := 8 }) s)).lo 5 = 2 ∧
     ((nx (exec (.fvcvtFromf { d := 12, b := 3 }) (st (sF.me.nums [(3, 5)])))).vfAt 12 1).num.isNan = false) := by decide +kernel

/-- FVCVT.FROMF of a signalling NaN keeps it signalling or not as R155 says; FVCMP with it gives 2, and NV when it signals. -/
theorem witness_FVCMP_signals : (let x : State := nx (exec (.fvcvtFromf { d := 12, b := 3 }) (st (sF.me.nums [(3, 0x7FA00000)])))
    (x.vfAt 12 1).num.isNan = true ∧ (nx (exec (.fvcmp { d := 5, a := 12, b := 8 }) x)).lo 5 = 2) := by decide +kernel

namespace Units

/-! ## The matrix engine -/

/-- Descriptors: register 8 an 8 × 8 INT8 tile at 0, register 9 a 4 × 8 one at 0x100, register 10 a 4 × 4 one at 0x200, register 11 a 4 × 4 INT32 one in bank 1. -/
def sE : State := { st ((c0).nums [(8, BitVec.ofNat 128 (8 * 2 ^ 24 + 8 * 2 ^ 40 + 8 * 2 ^ 46)), (9, BitVec.ofNat 128 (0x100 + 8 * 2 ^ 24 + 4 * 2 ^ 40 + 8 * 2 ^ 46)),
    (10, BitVec.ofNat 128 (0x200 + 4 * 2 ^ 24 + 4 * 2 ^ 40 + 4 * 2 ^ 46)), (11, BitVec.ofNat 128 (0x8000 + 16 * 2 ^ 24 + 4 * 2 ^ 40 + 4 * 2 ^ 46)), (12, 0x44), (13, 5)]) with
    cores := [(0, { lid := 1, bfmt := Vector.ofFn (fun (i : Fin 16) => if i.val = 0 then 1 else if i.val = 1 then 12 else 0), sets := Vector.replicate 2 { int := true } })] }

theorem witness_canIssue : canIssue sE [] ∧ canIssue sE [sE.opnd 8 .mul, sE.opnd 9 .mul] ∧ canIssue sE [sE.opnd 11 .drain] ∧ canIssue sE [sE.opnd 8 .load] ∧
    canIssue sE [sE.opnd 10 .packed, sE.opnd 8 .mul] ∧ canIssue sE [sE.opnd 9 .prune, sE.opnd 10 .pruned] ∧ canIssue sE [sE.opnd 10 .expand, sE.opnd 9 .expanded] := by
  refine ⟨?_, ?_, ?_, ?_, ?_, ?_, ?_⟩ <;> (refine ⟨?_, ?_, ?_, ?_, ?_, ?_, ?_, ?_, ?_⟩ <;> first | rfl | decide +kernel)

theorem witness_EngineIssue : sE.me.ready [8, 9] = true ∧ sE.me.numbers [8, 9, 10, 11, 12] = true ∧
    pairAll (sE.opnd 8 .mul) (sE.opnd 9 .mul) = some (some (sE.myCore.setType 0)) ∧ pairAll (sE.opnd 10 .packed) (sE.opnd 8 .mul) = some (some true) ∧
    sameElts (sE.opnd 9 .prune) (sE.opnd 10 .pruned) = true ∧ sameElts (sE.opnd 10 .expand) (sE.opnd 9 .expanded) = true ∧
    (∀ e ∈ (sE.opnd 8 .load).1.elts (sE.opnd 8 .load).2.1, holdsInt e = true) ∧ ((sE.opnd 8 .load).1.elts (sE.opnd 8 .load).2.1).length = 1 ∧
    (sE.opnd 8 .mul).1.kx = (sE.opnd 9 .mul).1.kx ∧ sE.myCore.setType 0 = true ∧ sE.me.ready (span 20 4 ++ [13]) = true ∧
    (∀ i ∈ [Instr.mzero false true, .mma false { a := 8, b := 9 }, .mdrn false true { b := 11 }, .mdrnR true false { d := 20, b := 13 }, .mlda false true { b := 8 },
        .mmas false .s24 false { a := 12, b := 10, c := 8 }, .cmpr .s24 false { d := 20, a := 9, b := 10 }, .mxpd .s24 false { a := 12, b := 10, c := 9 }],
      (nx (exec i sE)).myCore.equeue.length = 1 ∧ (nx (exec i sE)).me.pc = 0x10002) ∧
    metaCount .s24 false 4 8 * shapeKeep .s24 * shapeIw .s24 ≤ 128 ∧ metaBad (metaEntries .s24 0x44 2) = none ∧ metaCount .s24 false 4 8 = 2 ∧
    ((nx (exec (.cmpr .s24 false { d := 20, a := 9, b := 10 }) sE)).me.reg 20).pres = .leased := by decide +kernel

/-- An operation of context 0 in core 0's queue. -/
def op0 : EOp := { id := 3, g := 0, cid := 0, lid := 1, pid := 1, kind := .mzero true, set := 0 }

def sEo (op : EOp) (p : Option Prog) : State := { st { sE.me with prog := p } with cores := [(0, { lid := 1, equeue := [op] })], nextId := 4 }

theorem witness_EngineControl : sE.me.ready ([13, 12] ++ (List.range 1).map (4 + ·)) = true ∧ sE.me.prog = none ∧
    (let s := st ((c0).nums [(1, 0x2000), (2, 0x84)])
     (s.lo 1).getLsbD 0 = false ∧ (nx (exec (.fork { a := 1, b := 2 }) s)).me.prog = some { pc := 0x2000, first := 4, count := 2 } ∧
     ((nx (exec (.fork { a := 1, b := 2 }) s)).me.reg 5).pres = .leased) ∧
    (let s := sEo { op0 with fin := true, flags := 1 } (some { pc := 0, first := 4, count := 1, ended := true })
     (s.opsOf s.cur).all (fun e => e.fin && e.susp.isNone) = true ∧ (nx (exec .rdv s)).me.fcs = 0x10 ∧ (nx (exec .rdv s)).me.prog = none ∧ (nx (exec .rdv s)).opsOf 0 = []) ∧
    (nx (exec (.mstat { d := 5 }) sE)).me.pc = 0x10002 ∧
    (let s := sEo op0 (some { pc := 0, first := 4, count := 1 })
     (s.opsOf s.cur).all (fun e => !e.started || e.susp.isSome) = true ∧ (nx (exec .mstatAbort s)).me.prog = none) := by decide +kernel

/-- Context 0 of launch 1 whose engine program is at 0x10000, with its code there. -/
def sCode (bs : List Byte) : State := ({ sE with ctxs := [(0, { sE.me with prog := some { pc := 0x10000, first := 8, count := 8 } })] } : State).placeCode bs

/-- The words of the three instructions of programs: ENDP; ELOOP g13, +2; EBUMP g9, g9, g13 (R33, R205). -/
def wEndp : List Byte := [0x02, 0xF8, 0x00, 0x24]
def wEloop : List Byte := [0x02, 0xF8, 0x02, 0xF0, 0xA0, 0x29]
def wEbump : List Byte := [0x02, 0xF8, 0x90, 0xF4, 0x2D, 0x2D]

theorem witness_EngineProgram : sE.me.ready [20] = true ∧ sE.me.ready [20, 8, 13] = true ∧ (nx (exec .endp sE)).me.tval = illVal 0 9 ∧
    (nx (exec (.eloop { a := 20 }) sE)).me.tval = illVal 20 9 ∧ (nx (exec (.ebump { d := 20, a := 8, b := 13 }) sE)).me.tval = illVal 8 9 ∧
    (∀ e ∈ [(wEndp, Instr.endp, 2), (wEloop, .eloop { a := 13, imm := 2 }, 3), (wEbump, .ebump { d := 9, a := 9, b := 13 }, 3)],
      let s := sCode e.1
      s.opsOf s.cur = [] ∧ (s.fetch 0 0x10000).1 = .instr e.2.1 e.2.2 ∧ (s.fetch 0 0x10000).2.ctxs = s.ctxs) ∧
    ((nx (exec (.engineProgramStep 0) (sCode wEndp))).me.prog.map (·.ended)) = some true ∧
    (nx (exec (.engineProgramStep 0) (sCode wEloop))).lo 13 = 4 ∧ ((nx (exec (.engineProgramStep 0) (sCode wEloop))).me.prog.map (·.pc)) = some 0x10004 ∧
    fld ((nx (exec (.engineProgramStep 0) (sCode wEbump))).bits 9) 18 0 = 0x105 ∧ ((nx (exec (.engineProgramStep 0) (sCode wEbump))).me.prog.map (·.pc)) = some 0x10006 := by
  decide +kernel

theorem witness_EngineEvents : (let s := sEo op0 none
      (s.coreAt 0).atWork 0 = some op0 ∧ op0.started = false ∧ (s.coreAt 0).heldBack op0 = false ∧ goes (exec (.engineOpStart 0 0) s) (s.updOp 0 3 (fun e => { e with started := true }))) ∧
    (let op := { op0 with started := true }
     let s := sEo op none
     (s.coreAt 0).atWork 0 = some op ∧ op.lives s = true ∧ (nx (exec (.engineOpComplete 0 0 false) s)).myCore.sets[0].int = true ∧
     (nx (exec (.engineOpComplete 0 0 false) s)).myCore.equeue.all (·.fin) = true) := by decide +kernel

/-- A started MLDA of one row of 8 raw bytes at DEVICE address 0x10000, whose translation the die holds. -/
def opPeer : EOp := { op0 with kind := .mlda true, started := true, dregs := [8], descs := [BitVec.ofNat 128 (8 * 2 ^ 24 + 2 ^ 40 + 8 * 2 ^ 46 + 2 ^ 19 + 2 ^ 80 + 0x10 * 2 ^ 84)], bf := [[1]] }
def sPeer : State := (({ sEo opPeer none with mem := [(0x10003, 7)] } : State).placeCode [])

theorem witness_PeerRow : (sPeer.coreAt 0).atWork 0 = some opPeer ∧ opPeer.nextRow = some (0, 0) ∧
    opPeer.fetch = none ∧ (sPeer.coreAt 0).fenced = false ∧ sPeer.stopsRows 1 = false ∧
    (let t := nx (exec (.peerRowFetch 0 0 0) sPeer)
     t.myCore.equeue.map (·.fetch) = [some { operand := 0, row := 0, left := 1 }] ∧
     t.net.map (fun m => match m.body with | .acc a => a.pieces | _ => []) = [[{ part := 0, va := 0x10000, n := 8 }]]) ∧
    (let op := { opPeer with fetch := some { operand := 0, row := 0, left := 1 } }
     let s (fs : List (Nat × RFault)) : State := { sEo op none with net := [{ id := 4, g := 0, fire := 0, lid := 1, pid := 1, stage := .answered {}, body := .acc { kind := .load, space := 2, pieces := [], weight := 1, got := if fs.isEmpty then [(0, 0x07000000)] else [], faults := fs, row := some (0, 3) } }] }
     (s []).behindReply ((s []).net.headD default) = false ∧ op.lives (s []) = true ∧
     (nx (exec (.loadReply 4) (s []))).myCore.equeue.map (fun e => (e.fetch, e.rows)) = [(none, [(0, 0, [0, 0, 0, 7, 0, 0, 0, 0])])] ∧
     (nx (exec (.loadReply 4) (s [(0, ⟨.xlat, 0x10000⟩)]))).myCore.equeue.map (fun e => (e.fetch, e.susp)) = [(none, some ⟨.xlat, 0x10000⟩)]) := by decide +kernel

/-- The operands and sets of the completion tests: A (0, 0) = 3, A (0, 1) = 2, B (0, 0) = 5, B (0, 1) = 7, a packed 9, and two elements in each set. -/
def sEs : State := { sE with
  mem := [(spad 0 0, 3), (spad 0 1, 2), (spad 0 0x100, 5), (spad 0 0x101, 7), (spad 0 0x200, 9)]
  cores := [(0, { sE.myCore with sets := Vector.replicate 2 { int := true, elems := [(0, 0x11), (33, 0x22)] } })] }

/-- The state after an instruction, then the start of its operation on a set. -/
def begun (i : Instr) (set : Nat) : State := nx (execEngineOpStart 0 set (nx (exec i sEs)))
/-- And after its completion. -/
def ended (i : Instr) (set : Nat) : State := nx (execEngineOpComplete 0 set false (begun i set))

theorem witness_EngineEvents_complete :
    (∀ e ∈ [(Instr.mma false { a := 8, b := 9 }, 0), (.mmas false .s24 false { a := 12, b := 10, c := 8 }, 0), (.mdrn false true { b := 11 }, 0),
        (.mdrnR true false { d := 20, b := 12 }, 1), (.mlda false true { b := 8 }, 0), (.cmpr .s24 false { d := 20, a := 9, b := 10 }, 2),
        (.mxpd .s24 false { a := 12, b := 10, c := 9 }, 2)],
      let s := begun e.1 e.2
      ((s.coreAt 0).atWork e.2).map (fun op => op.set == e.2 && op.cid == 0 && op.started && op.susp.isNone && op.fetch.isNone && op.nextRow.isNone && op.task.isNone && op.lives s) = some true ∧
      (ended e.1 e.2).myCore.equeue.all (·.fin) = true) ∧
    ((ended (.mma false { a := 8, b := 9 }) 0).myCore.sets[0].elems.get 0 0 = 0x11 + 3 * 5 + 2 * 7) ∧
    ((ended (.mma false { a := 8, b := 9 }) 0).myCore.sets[0].elems.get 0 33 = 0x22) ∧
    ((ended (.mmas false .s24 false { a := 12, b := 10, c := 8 }) 0).myCore.sets[0].elems.get 0 0 = 0x11 + 9 * 3) ∧
    (let t := ended (.mdrn false true { b := 11 }) 0
     t.numAt (spad 0 0x8000) 4 = 0x11 ∧ t.numAt (spad 0 0x8014) 4 = 0x22 ∧ t.myCore.sets[0] = { int := true }) ∧
    (let t := ended (.mlda false true { b := 8 }) 0
     t.myCore.sets[0].elems.get 0 0 = 3 ∧ t.myCore.sets[0].elems.get 0 1 = 2 ∧ t.myCore.sets[0].elems.get 0 33 = 0) ∧
    (let t := ended (.cmpr .s24 false { d := 20, a := 9, b := 10 }) 2
     t.numAt (spad 0 0x200) 2 = 0x705 ∧ t.me.reg 20 = { bits := 0x44 }) ∧
    (let t := ended (.mxpd .s24 false { a := 12, b := 10, c := 9 }) 2
     t.numAt (spad 0 0x100) 2 = 9) ∧
    ((ended (.mdrnR true false { d := 20, b := 14 }) 1).me.reg 20 = { bits := 0x11 }) := by decide +kernel

/-! ## Actors, spawns, neighbour links -/

def pk (t : Nat) : Packet := { from_ := 64, to_ := 0, tag := t }

def sT : State := { st ((c0).nums [(1, 0x2A)]) with cores := [(0, { lid := 1, tagsEn := 0x22, edge := [pk 5, pk 2] })] }

theorem witness_RouteTags : sT.me.ready [4, 1] = true ∧ sT.me.numbers [1] = true ∧ (nx (exec (.ten { d := 4, b := 1 }) sT)).myCore.tagsEn = 0x2A ∧
    (nx (exec (.ten { d := 4, b := 1 }) sT)).lo 4 = 0x22 ∧ (nx (exec (.tdis { d := 4, b := 1 }) sT)).myCore.tagsEn = 0 ∧
    (nx (exec (.tpnd { d := 4, b := 1 }) sT)).lo 4 = 0x20 := by decide +kernel

/-- A descriptor with entry point 0x10000, priority 4 and one routed input on tag 1: a ring of 2 tokens of 16 bytes at 0x1000. -/
def actBytes : List Byte := leBytes 8 0x10000 ++ leBytes 8 4 ++ leBytes 8 (0x1000 + 2 * 2 ^ 19 + 3 * 2 ^ 31 + 2 ^ 37 + 2 ^ 45 + 2 * 2 ^ 60) ++ List.replicate 56 0

def sC : State := { (st (((c0).nums [(1, 2), (5, 6)]).cap 2 (lc 0x200))).store 1 (spad 0 0x200) actBytes with cores := [(0, { lid := 1 })] }

def sCa : State := nx (exec (.actdef { d := 4, a := 1, b := 2 }) sC)

theorem witness_ActorControl : sC.me.numbers [1] = true ∧ sC.me.ready ([4, 1] ++ span 2 2) = true ∧ sC.me.holdsCap 2 = true ∧
    sC.reaches (sC.capAt 2) 0x200 80 [pRD] [0] 16 = true ∧ sC.free 0x200 80 false = true ∧ ((sC.myCore.actors.find 2).bind (·.ctx)) = none ∧
    (actorOf sC.myCore 2 (ownRead sC 0x200 80)).isSome = true ∧ sCa.lo 4 = 0 ∧ ((sCa.myCore.actors.find 2).map (·.prio)) = some 4 ∧
    ((nx (exec (.actctlEna { d := 4, a := 1, b := 5 }) sCa)).myCore.actors.find 2).map (·.en) = some true ∧
    ((nx (exec (.actctlDis { d := 4, a := 1, b := 5 }) sCa)).myCore.actors.find 2).map (·.en) = some false ∧
    ((nx (exec (.actctlPri { d := 4, a := 1, b := 5 }) sCa)).myCore.actors.find 2).map (·.prio) = some 6 ∧
    (nx (exec (.actctlSpri { d := 4, a := 1, b := 5 }) sCa)).myCore.spri = 6 ∧ (nx (exec (.actctlFlush { d := 4, a := 1, b := 5 }) sCa)).myCore.rings = [(0x1000, {})] ∧
    (nx (exec (.actctlStat { d := 4, a := 1, b := 5 }) sCa)).me.pc = 0x10004 := by decide +kernel

/-- SPAWN of 1 argument to core 5 at 0x2000; a neighbour word naming context 1, register 8 to the east. -/
def sS : State := st ((c0).nums [(1, BitVec.ofNat 128 (0x2000 + 5 * 2 ^ 64 + 2 ^ 75)), (8, 77), (2, BitVec.ofNat 128 (1 + 1 * 4 + 8 * 16))])

theorem witness_SpawnAndNeighbours : sS.me.phase = .idle ∧ sS.me.ready ([4, 1] ++ span 8 1) = true ∧ sS.me.numbers [1, 2] = true ∧
    (let t := nx (exec (.spawn { d := 4, a := 1, b := 8 }) sS)
     t.net.map (·.body) = [.spawn 5 0x2000 1 [(77, .data)]] ∧ t.me.phase = .sent 0 ∧ t.me.pc = 0x10000 ∧
     (let u := nx (exec (.spawnArrival 0) t)
      u.net.map (·.body) = [.spawnReply 0 1] ∧
      (nx (exec (.spawn { d := 4, a := 1, b := 8 }) (nx (exec (.spawnReply 1) u)))).lo 4 = 1)) ∧
    neighbour 0 .e = some 1 ∧
    (let s := { sS with cores := [(0, { lid := 1 }), (1, { lid := 1 })] }
     s.loadsOut = false ∧ s.storesTo 1 = false ∧ s.me.ready (span 8 1 ++ [2]) = true ∧ (s.coreAt 1).fenced = false ∧ (s.coreAt 1).lid = s.me.lid ∧
     (nx (exec (.nbw { a := 8, b := 2 }) s)).coreAt 1 = { lid := 1, links := [(3, { ctx := 1, first := 8, vals := [(77, .data)] })] }) ∧
    (((nx (exec (.nbarm { d := 8, b := 2 }) sS)).me.reg 8).pres = .empty ∧ ((nx (exec (.nbarm { d := 8, b := 2 }) sS)).me.reg 8).armed = some .e) ∧
    sS.myCore.links.find (dirCode .e) = none := by decide +kernel

/-! ## Cluster services -/

/-- MAPP of 1 register with tag 3 to cores 0 and 2. -/
def sM : State := { st ((c0).nums [(1, 0x00130005), (2, 99), (3, 8)]) with cores := [(0, { lid := 1 }), (2, { lid := 1 })] }

theorem witness_Messages : sM.me.phase = .idle ∧ sM.me.ready ([4, 1] ++ span 2 1) = true ∧ sM.me.numbers [1] = true ∧ sM.me.storable (span 2 1) = true ∧
    (∀ c ∈ maskCores 5, (sM.coreAt (sM.clu * 16 + c)).lid = sM.me.lid) ∧
    (let t := nx (exec (.mapp { c := 4, a := 2, b := 1 }) sM)
     t.net.length = 2 ∧ t.me.phase = .part 0 0 ∧ t.net.map (fun m => match m.body with | .packet p => (p.to_, p.tag, p.regs) | _ => (0, 0, [])) = [(0, 3, [99]), (2, 3, [99])]) ∧
    (let s := st { sM.me with phase := .part 0 0x00040001 }
     (nx (exec (.mapp { c := 4, a := 2, b := 1 }) s)).lo 4 = 0x00040001) ∧
    sM.me.ready ([4] ++ span 8 8 ++ [3]) = true ∧ sM.me.recvs.length < 2 ∧ (nx (exec (.mrecv { c := 4, a := 8, b := 3 }) sM)).me.recvs = [{ hdr := 4, pay := 8, mask := 8 }] ∧
    ((nx (exec (.mrecv { c := 4, a := 8, b := 3 }) sM)).me.reg 15).pres = .empty := by decide +kernel

/-- Context 0 as the one SIGWAIT member of phaser 1; register 1 holds 1, register 2 a registration word (mode 3, op 1). -/
def sP (m : Member) (ph : Phase) : State :=
  let s := st { (c0).nums [(1, 1), (2, 7)] with phase := ph }
  { s with clusters := [(0, { phasers := [(1, { phase := 4, op := 1, lid := 1, members := [m], last := 9 })] })] }
def mem3 : Member := { g := 0, mode := 3, counts := true, mark := 3 }

theorem witness_PhaserInstructions : (sP mem3 .idle).me.numbers [1, 2] = true ∧ (sP mem3 .idle).me.ready [4, 1, 2] = true ∧
    ((sP mem3 (.done { data := 7 })).lo 2).toNat = 7 ∧ (nx (exec (.phreg { d := 4, a := 1, b := 2 }) (sP mem3 (.done { data := 7 })))).lo 4 = 7 ∧
    ((sP mem3 .idle).phaser 0 1).member 0 = some mem3 ∧ (nx (exec (.phsig { d := 4, a := 1, b := 2 }) (sP mem3 (.done { data := 4 })))).lo 4 = 4 ∧
    (nx (exec (.phdrop { d := 4, b := 1 }) (sP mem3 (.done {})))).lo 4 = 0 ∧
    (let m := { mem3 with completed := true, val := 42 }
     (nx (exec (.phadv { d := 4, a := 1, b := 2 }) (sP m (.part 2 0)))).lo 4 = 42 ∧ (sP m .idle).loadsOut = false ∧ (sP m .idle).nrOut = false ∧
     (sP m .idle).cluStoresOut = false ∧ (nx (exec (.phwait { d := 4, b := 1 }) (sP m .idle))).lo 4 = 42) ∧
    (let t := nx (exec (.phreg { d := 4, a := 1, b := 2 }) { sP mem3 .idle with clusters := [] })
     let u := nx (exec (.phreg { d := 4, a := 1, b := 2 }) (nx (exec (.phaserRequest 0) t)))
     u.lo 4 = 0 ∧ (u.phaser 0 1).members = [{ mem3 with mark := 0 }]) := by decide +kernel

/-- A record of a task with identifier 7: A 8 × 8 and B 4 × 8 INT8 tiles, D an 8 × 4 INT32 one in bank 1, all in core 0's scratchpad; the type INT32. -/
def recBytes : List Byte := leBytes 16 (8 * 2 ^ 24 + 8 * 2 ^ 40 + 8 * 2 ^ 46 + 2 ^ 23) ++ leBytes 16 (0x100 + 8 * 2 ^ 24 + 4 * 2 ^ 40 + 8 * 2 ^ 46 + 2 ^ 23) ++
  leBytes 16 (0x8000 + 16 * 2 ^ 24 + 8 * 2 ^ 40 + 4 * 2 ^ 46 + 2 ^ 23) ++ leBytes 2 (1 + 256) ++ leBytes 6 0 ++ leBytes 8 7

def sQ : State := ({ sE with ctxs := [(0, ((c0).nums [(1, 7), (5, 64)]).cap 2 (lc 0x4000))] } : State).store 1 (spad 0 0x4000) recBytes

/-- The task of the record in the state given. -/
def sQt (x : TaskState) : State := let t := nx (exec (.tqput { d := 4, b := 2 }) sQ)
  t.updClu 0 (fun u => { u with tasks := u.tasks.map (fun k => { k with st := x, flags := 1 }) })

theorem witness_TasksAndWaitTable : sQ.me.ready (4 :: span 2 2) = true ∧ sQ.me.holdsCap 2 = true ∧ sQ.reaches (sQ.capAt 2) 0x4000 64 [pRD] [0, 1] 16 = true ∧
    sQ.isOwn 0 0x4000 = true ∧ sQ.free 0x4000 64 false = true ∧ tqStatus sQ (ownRead sQ 0x4000 64) = 0 ∧
    ((nx (exec (.tqput { d := 4, b := 2 }) sQ)).cluAt 0).tasks.map (fun k => (k.id, k.lid, k.g)) = [(7, 1, 0)] ∧
    (nx (exec (.tqput { d := 4, b := 2 }) (sQt .pending))).lo 4 = 2 ∧
    (let s := sQt .done
     ((s.cluAt 0).task 1 7).map (fun k => (k.st, k.joined)) = some (.done, false) ∧ (nx (exec (.tqwait { d := 4, b := 1 }) s)).me.fcs = 0x10 ∧
     s.myTasks.all (fun k => k.st == .done) = true ∧ (nx (exec (.tqwaitAll { d := 4 }) s)).lo 4 = 1) ∧
    (nx (exec (.waittRead { d := 4, b := 1 }) sQ)).lo 4 = 0 ∧ sQ.isSupervisor 0 = true ∧ ((nx (exec (.waittArm { d := 4, b := 5 }) sQ)).cluAt 0).monLimit = 64 := by decide +kernel

theorem witness_quiet : Sys2Proof.Spec.quiet sQ := ⟨rfl, rfl, rfl, rfl, rfl, rfl, by decide, rfl, rfl, rfl, rfl, rfl⟩

/-! ## Edges and cluster units -/

/-- Core 0 of launch 1 with tags 0 to 6 enabled, an inbox ring of 2 slots at 0x4000, an actor with the routed input of actBytes and a routed output on ring 0x2000. -/
def act0 : Actor := { entry := 0x10000, en := true, fifos := [{ ring := 0x1000, cap := 2, size := 16, rate := 1, tag := 1, bind := 2 }, {}, {}, {},
  { ring := 0x2000, cap := 4, size := 16, rate := 1, tag := 3, dst := 5, bind := 2 }] }
def k0 : Core := { lid := 1, tagsEn := 0x7F, ild := 0x204000, actors := [(2, act0)], rings := [(0x1000, {}), (0x2000, { occ := 2, head := 1 })] }
def pkt (t : Nat) (msg : Bool) : Packet := { from_ := 64, to_ := 0, tag := t, msg := msg, regs := [0x77] }
def sK (k : Core) (p : Packet) : State := { st c0 with cores := [(0, k)], net := [{ id := 4, g := 64, fire := 0, lid := 1, pid := 1, body := .packet p }], nextId := 5 }

theorem witness_EdgePackets :
    (∀ p ∈ [pkt 1 false, pkt 3 true, pkt 4 false], let s := sK k0 p
      s.msg 4 = some { id := 4, g := 64, fire := 0, lid := 1, pid := 1, body := .packet p } ∧ (s.coreAt 16).fenced = false ∧ (s.coreAt 0).open_ = true ∧
      s.behindPacket { id := 4, g := 64, fire := 0, lid := 1, pid := 1, body := .packet p } p.isFault p.to_ = false ∧
      s.behindAccess { id := 4, g := 64, fire := 0, lid := 1, pid := 1, body := .packet p } 0 = false ∧ (s.cluAt 1).returned = [] ∧ (s.coreAt 0).holds p.tag = false) ∧
    (match (sK k0 (pkt 1 false)).myCore.landing (pkt 1 false) with | .fifo f => f.ring == 0x1000 | _ => false) = true ∧
    (let t := nx (exec (.routedPacketArrival 4) (sK k0 (pkt 1 false)))
     (t.myCore.rings.get {} 0x1000).occ = 1 ∧ t.numAt (spad 0 0x1000) 8 = 0x77 ∧ t.me.event = true ∧ t.net = []) ∧
    k0.landing (pkt 3 true) = .slot 0 ∧
    (let t := nx (exec (.inboxDelivery 4) (sK k0 (pkt 3 true)))
     t.myCore.inbox = [(0, 3)] ∧ t.numAt (spad 0 0x4010) 8 = 0x77 ∧ t.numAt (spad 0 0x4000) 4 = 16 + 3 * 2 ^ 16 + 2 ^ 20 ∧ t.net = []) ∧
    k0.landing (pkt 4 false) = .no ∧ (nx (exec (.routedPacketArrival 4) (sK k0 (pkt 4 false)))).myCore.edge = [pkt 4 false] ∧
    (let s := { sK { k0 with edge := [pkt 4 false, pkt 1 false] } (pkt 4 false) with net := [] }
     s.myCore.edge.find? (·.tag == 1) = some (pkt 1 false) ∧ (nx (exec (.heldPacketDelivery 0 1) s)).myCore.edge = [pkt 4 false]) ∧
    (let s := { sK k0 (pkt 4 false) with net := [], clusters := [(1, { returned := [pkt 4 false] })] }
     (nx (exec (.packetReoffer 1 0 4) s)).myCore.edge = [pkt 4 false] ∧ ((nx (exec (.packetReoffer 1 0 4) s)).cluAt 1).returned = []) ∧
    (let t := nx (exec (.outputDrain 0 2 4) { sK k0 (pkt 4 false) with net := [] })
     (t.myCore.rings.get {} 0x2000).flight = 1 ∧ t.net.length = 1) := by decide +kernel

def sM1 (b : Body) (ph : Phase) : State := { st { c0 with phase := ph } with cores := [(0, k0)], net := [{ id := 4, g := 0, fire := 0, lid := 1, pid := 1, body := b }], nextId := 5 }

theorem witness_SpawnAndReceiveEvents :
    (let s := sM1 (.spawn 0 0x2000 1 []) (.sent 4)
     s.msg 4 = some { id := 4, g := 0, fire := 0, lid := 1, pid := 1, body := .spawn 0 0x2000 1 [] } ∧ (s.coreAt 0).fenced = false ∧
     s.behindAccess { id := 4, g := 0, fire := 0, lid := 1, pid := 1, body := .spawn 0 0x2000 1 [] } 0 = false ∧
     s.behindPacket { id := 4, g := 0, fire := 0, lid := 1, pid := 1, body := .spawn 0 0x2000 1 [] } false 0 = false ∧
     (nx (exec (.spawnArrival 4) s)).myCore.spawnFifo = [{ pc := 0x2000, lid := 1, args := [] }] ∧
     (nx (exec (.spawnArrival 4) s)).net.map (·.body) = [.spawnReply 4 0]) ∧
    (nx (exec (.spawnReply 4) (sM1 (.spawnReply 3 1) (.sent 3)))).me.phase = .done { data := 1 } ∧
    (nx (exec (.mappAcceptanceReply 4) (sM1 (.mappReply 3 2 true) (.part 3 1)))).me.phase = .part 3 5 ∧
    (let s := ({ st { c0 with recvs := [{ hdr := 4, pay := 8, mask := 8 }] } with cores := [(0, { k0 with inbox := [(0, 2), (1, 3)] })] } : State).rawWrite 0 0x40A0 (leBytes 16 9)
     s.poisonedAt (spad 0 (s.myCore.slotAt 1)) 144 = none ∧ (nx (exec (.mrecvDelivery 0) s)).lo 8 = 9 ∧ (nx (exec (.mrecvDelivery 0) s)).me.recvs = [] ∧
     (nx (exec (.mrecvDelivery 0) s)).myCore.inbox = [(0, 2)]) := by decide +kernel

theorem witness_HeartbeatWaitAndLink :
    (let s := st { c0 with hb := 0 }
     s.me.busy = true ∧ (nx (exec (.heartbeatMiss 0) s)).myCore.fenced = true ∧ (nx (exec (.heartbeatMiss 0) s)).net.length = 4) ∧
    (let s := st { c0 with wait := some { kind := 1, obj := 2, ilen := 2, since := 0, left := 0, waited := 77 } }
     s.me.waits = true ∧ (nx (exec (.waitTimeout 0) s)).me.tval = 77 ∧ (nx (exec (.waitTimeout 0) s)).me.tcause = 0x15) ∧
    (let s := { st (c0.setRegAt 8 { pres := .empty, armed := some .e }) with cores := [(0, { lid := 1, links := [(1, { ctx := 0, first := 8, vals := [(5, .data)] })] })] }
     (s.me.regAt 8).armed = some .e ∧ (nx (exec (.neighbourWriteLand 0 .e) s)).me.regAt 8 = { bits := 5 } ∧ (nx (exec (.neighbourWriteLand 0 .e) s)).myCore.links = []) := by
  decide +kernel

def sPh (op : Nat) (ms : List Member) : State :=
  { sM1 (.phaser op 1 5) (.sent 4) with clusters := [(0, { phasers := [(1, { phase := 4, op := 1, lid := 1, members := ms })] })] }

theorem witness_ClusterUnitEvents :
    ((sPh 2 [mem3]).phaser 0 1).member 0 = some mem3 ∧ (sPh 2 [mem3]).msg 4 ≠ none ∧
    (let t := nx (exec (.phaserRequest 4) (sPh 2 [mem3]))
     t.me.phase = .done { data := 4 } ∧ (t.phaser 0 1).phase = 5 ∧ (t.phaser 0 1).last = 5 ∧ (t.phaser 0 1).members.map (fun m => (m.completed, m.val)) = [(true, 5)]) ∧
    (nx (exec (.phaserRequest 4) (sPh 1 []))).me.phase = .done { data := 1 } ∧
    (let s := sQt .pending
     let t := (s.cluAt 0).tasks.headD default
     (s.cluAt 0).tasks.find? (s.cluAt 0).ready = some t ∧ s.engineFree 0 1 = true ∧ (stepTile t.bytes 0 0).home 0 = 0 ∧
     (nx (exec (.tileTaskDispatch 0) s)).myCore.equeue.length = 3 ∧ ((nx (exec (.tileTaskDispatch 0) s)).cluAt 0).tasks.map (·.st) = [.running 0]) ∧
    (let s := sQt (.running 0)
     let k := ((s.cluAt 0).tasks.map (·.key)).headD 0
     (s.coreAt 0).equeue = [] ∧ ((nx (exec (.tileTaskComplete 0 k) s)).cluAt 0).tasks.map (·.st) = [.done]) ∧
    (let s := { st { c0 with wait := some { kind := 1, obj := 2, ilen := 2, since := 3, left := 9, waited := 77 } } with clusters := [(0, { monLimit := 5, hang := 6 })] }
     s.me.waits = true ∧ s.me.doubleTrap = false ∧ (nx (exec (.hang 0) s)).me.tcause = 0x1A ∧ (nx (exec (.hang 0) s)).me.tval = 1 + 2 + 32 + 3 * 2 ^ 16) ∧
    ((nx (exec (.flagUnionUpdate 0) { st c0 with clusters := [(0, { flagsIn := [{ core := 3, flags := 1, born := 0 }, { core := 2, flags := 2, born := 0 }] })] })).cluAt 0).cfu = 0x80010 := by decide +kernel

theorem witness_ClusterReset :
    (let s := { sK k0 (pkt 4 false) with mem := [(spad 0 8, 7), (spad 16 8, 7)], clusters := [(0, { resetReq := true, cfu := 3, monLimit := 5 })] }
     s.Inv ∧ (nx (exec (.clusterReset 0) s)).mem = [(spad 16 8, 7)] ∧ (nx (exec (.clusterReset 0) s)).me.busy = false ∧ (nx (exec (.clusterReset 0) s)).myCore.open_ = false) ∧
    (let s := { st c0 with clusters := [(0, { resetting := true })], cores := [(3, { fenced := true, resetting := true })] }
     ((nx (exec (.clusterResetComplete 0) s)).coreAt 3).open_ = true) := by
  refine ⟨⟨rfl, ?_⟩, ?_⟩ <;> decide +kernel

def pc1 : Piece := { part := 0, va := 0x80100, n := 4, bytes := [1, 2, 3, 4] }
def sAc (k : AccKind) (stg : Stage) (got : Tab Nat) (fs : List (Nat × RFault)) : State :=
  { st { (c0.setRegAt 8 { pres := .empty }) with loads := [{ key := 9, dest := [8], left := 1, how := .raw 4 false }] } with
    net := [{ id := 4, g := 0, fire := 0, lid := 1, pid := 1, stage := stg, body := .acc { kind := k, space := 1, pieces := [pc1], weight := 1, key := 9, got := got, faults := fs } }] }

theorem witness_ClusterAccessEvents :
    (let s := sAc .store .new [] []
     (s.net.headD default).homeCore = some 1 ∧ s.atHomeNow (s.net.headD default) 1 = true ∧ (homeCheck s 1 0x100 4 true false).toOption = some () ∧
     (nx (exec (.remoteAccessAtHome 4) s)).numAt (spad 1 0x100) 4 = 0x04030201) ∧
    (let s := { sAc .load .new [] [] with mem := [(spad 1 0x100, 7)] }
     (nx (exec (.remoteAccessAtHome 4) s)).net.map (fun m => match m.body with | .acc a => a.got | _ => []) = [[(0, 7)]]) ∧
    (nx (exec (.loadReply 4) (sAc .load (.answered {}) [(0, 77)] []))).me.regAt 8 = { bits := 77 } ∧
    ((nx (exec (.loadReply 4) (sAc .load (.answered {}) [] [(0, ⟨.pois, 5⟩)]))).me.regAt 8).fault = some ⟨.pois, 5⟩ ∧
    (nx (exec (.clusterStoreAck 4) (sAc .store (.answered {}) [] [(0, ⟨.pois, 5⟩)]))).me.clusterRef = some ⟨.pois, 5⟩ ∧
    (let s := { st { c0 with phase := .sent 4 } with mem := [(spad 1 0x100, 7)], net := [{ id := 4, g := 0, fire := 0, lid := 1, pid := 1, body := .atom { kind := .amo .add, space := 1, va := 0x80100, dbl := false, val := 3, nr := false, scp := .clu } }] }
     s.atHomeNow (s.net.headD default) 1 = true ∧ (atomHome s 1 0x100 4).toOption = some () ∧ (nx (exec (.clusterAtomicAtHome 4 false) s)).numAt (spad 1 0x100) 4 = 10 ∧
     (nx (exec (.loadReply 4) (nx (exec (.clusterAtomicAtHome 4 false) s)))).me.phase = .done { data := 7 }) := by decide +kernel

/-! ## Copies and streams -/

/-- Capabilities to 0x1000 (destination) and 0x100 (source) of the own scratchpad in windows 2 and 4; the control word in register 6. -/
def sX (w : Nat) (slots : Tab CopySlot) : State :=
  { st ({ ((c0).nums [(6, BitVec.ofNat 128 w)]).cap 2 (lc 0x1000) |>.cap 4 (lc 0x100) with copies := slots }) with mem := [(spad 0 0x100, 7), (spad 0 0x102, 9)] }

def full16 : Tab CopySlot := (List.range 16).map (fun i => (i, { held := true }))

theorem witness_CopyIssue : (sX 4 []).me.ready ([6] ++ span 2 2 ++ span 4 2) = true ∧ (sX 4 []).me.holdsCap 2 = true ∧ (sX 4 []).me.holdsCap 4 = true ∧
    (sX 4 []).me.numbers [6] = true ∧
    (nx (exec (.cpy { c := 6, a := 2, b := 4 }) (sX 4 full16))).bits 6 = BitVec.ofNat 128 (2 ^ 80) ∧
    (∀ n, n < 16 → ((sX 4 full16).me.copies.get {} n).held = true) ∧
    (let s := sX 4 []
     let d := (0, (0x1000 : Word))
     let x := (0, (0x100 : Word))
     let bf := fun cid : Nat => (s.coreAt cid).bfmt.toList
     let sides := copySides bf s.cur .cpy 4 d x
     copyShapeBad bf s.cur .cpy 4 d x = false ∧ (sideCaps s (s.capAt 4) pRD [0, 1, 2] sides.2).toOption = some () ∧
     (sideCaps s (s.capAt 2) pWR [0, 1, 2] sides.1).toOption = some () ∧ locksFree s [] (Sys2Proof.Spec.copyRanges bf s.cur .cpy 4 d x) = true ∧
     (Sys2Proof.Spec.copyRanges bf s.cur .cpy 4 d x).all (fun r => (s.coreAt r.cid).resAt r.base r.len == none && (s.coreAt r.cid).poolAt r.base r.len == none) = true ∧
     (nx (exec (.cpy { c := 6, a := 2, b := 4 }) s)).me.pc = 0x10002 ∧
     (nx (exec (.cpy { c := 6, a := 2, b := 4 }) (sX 4 [(0, { held := true, perf := true })]))).me.copies.map (·.1) = [0, 1]) ∧
    (let t := { sX (2 ^ 16 * 4 + 4) [] with cores := [(0, { lid := 1, bfmt := Vector.replicate 16 1 })] }
     (nx (exec (.cpyx .s24 false { c := 6, a := 2, b := 4 }) t)).me.copies.map (fun e => (e.1, e.2.kind)) = [(0, .cpyx .s24 false)]) ∧
    ((nx (exec (.cpyx .s24 false { c := 6, a := 2, b := 4 }) (sX (2 ^ 16 * 4 + 4) []))).me.tval = BitVec.ofNat 64 (2 ^ 60 + 2)) ∧
    ((nx (exec (.cpym { c := 6, a := 2, b := 4 }) ({ (sX (2 ^ 33 + 4) []) with ctxs := [(0, (sX (2 ^ 33 + 4) []).me.cap 2 (cc 0x1000))], cores := [(0, { lid := 1 }), (1, { lid := 1 })] } : State))).me.copies.map (fun e => (e.1, e.2.kind)) = [(0, .cpym)]) ∧
    ((nx (exec (.cpym { c := 6, a := 2, b := 4 }) ({ (sX 4 []) with ctxs := [(0, (sX 4 []).me.cap 2 (cc 0x1000))], cyc := 9 } : State))).me.copies.map (fun e => (e.1, e.2.kind, e.2.doneAt)) = [(0, .cpym, some 9)]) ∧
    (let s := { sX 24 [] with cores := [(0, { lid := 1, bfmt := Vector.replicate 16 (BitVec.ofNat 64 (11 + 2 ^ 19)) })] }
     let bf := fun cid : Nat => (s.coreAt cid).bfmt.toList
     scaleBad bf 0 (0, 0x100) 24 = none) := by decide +kernel

/-- A request of slot 3, 4 raw bytes from 0x100 to 0x1000. -/
def cs0 : CopySlot := { gen := 5, held := true, queued := true, promise := 100, ctl := 4, dst := (0, 0x1000), src := (0, 0x100) }
def sJ (r : CopySlot) : State := { sX 4 [(3, r)] with ctxs := [(0, { (sX 4 [(3, r)]).me.nums [(7, ticket r 3)] with copies := [(3, r)] })], cyc := 200 }

theorem witness_CopyJoin : (sJ cs0).me.ready [8, 7] = true ∧ (sJ cs0).me.numbers [7] = true ∧ (sJ cs0).copyOf ((sJ cs0).bits 7) = some (3, cs0) ∧
    (sJ { cs0 with held := false }).copyOf ((sJ cs0).bits 7) = none ∧
    (nx (exec (.cpoll { d := 8, b := 7 }) (sJ { cs0 with held := false }))).lo 8 = 3 ∧ (nx (exec (.cwait { d := 8, b := 7 }) (sJ { cs0 with held := false }))).lo 8 = 0 ∧
    (nx (exec (.cpoll { d := 8, b := 7 }) (sJ cs0))).lo 8 = 2 ∧
    (nx (exec (.cwait { d := 8, b := 7 }) (sJ { cs0 with doneAt := some 150, flags := 1 }))).lo 8 = 150 ∧
    (nx (exec (.cwait { d := 8, b := 7 }) (sJ { cs0 with doneAt := some 150, flags := 1 }))).me.fcs = 0x10 ∧
    (nx (exec (.cpoll { d := 8, b := 7 }) (sJ { cs0 with doneAt := some 150 }))).lo 8 = 1 ∧
    (nx (exec (.cwait { d := 8, b := 7 }) (sJ { cs0 with doneAt := some 150, fault := some ⟨.xlat, 9⟩ }))).me.tcause = 0x111 := by decide +kernel

theorem witness_CopyEvents :
    (let r := { cs0 with perf := true }
     (((nx (exec (.copyComplete 0 3) (sJ r))).me.copies.get {} 3).doneAt) = some 200 ∧ (nx (exec (.copyComplete 0 3) (sJ r))).me.event = true) ∧
    (let r := { cs0 with ctl := 0 }
     ((sJ r).copyQueue 0 0).any (fun x => decide (x.order < r.order)) = false ∧ converts r.fmts 0 r.dst r.src = false ∧
     ((nx (exec (.copyRequestPerform 0 3) (sJ r))).me.copies.get {} 3).perf = true) ∧
    (let t := nx (exec (.copyRequestPerform 0 3) (sJ cs0))
     (t.me.copies.get {} 3).perf = true ∧ t.numAt (spad 0 0x1000) 4 = 0x090007) ∧
    (let t := nx (exec (.copyRequestPerform 0 3) (sJ { cs0 with src := (0, 0x13E) }))
     (t.me.copies.get {} 3).perf = false ∧ (t.me.copies.get {} 3).pos = 2) ∧
    (let s := sJ { cs0 with kind := .cpym, ctl := BitVec.ofNat 64 (4 + 6 * 2 ^ 32), dst := (1, 0x1000) }
     let t := nx (exec (.copyRequestPerform 0 3) s)
     maskCores 6 = [1, 2] ∧ (s.coreAt 0).open_ = true ∧ (s.coreAt 1).open_ = true ∧ (s.coreAt 2).open_ = true ∧ (t.me.copies.get {} 3).perf = true ∧
     t.numAt (spad 1 0x1000) 4 = 0x090007 ∧ t.numAt (spad 2 0x1000) 4 = 0x090007) ∧
    (let s := sJ cs0
     let s : State := { s with ctxs := [(0, { s.me with wait := some { kind := 6, obj := 0, ilen := 2, since := 0, left := 9, waited := 0 }, phase := .part 3 (cwaitMark + 5) })] }
     (nx (exec (.promiseMiss 0) s)).me.tcause = 0x10C ∧ (nx (exec (.promiseMiss 0) s)).me.tval = 100) := by decide +kernel

/-- A stream word in register 1: tag 3 to core 2; core 2 runs the launch. -/
def sO (c : Ctx) : State := { st ((c).nums [(1, 0x1802), (8, 77)]) with cores := [(0, { lid := 1 }), (2, { lid := 1 })] }
def x2 : Stream := { target := 2, tag := 3, count := 4 }

theorem witness_Streams : (sO c0).me.ready [4, 1] = true ∧ (sO c0).me.numbers [1] = true ∧ fld ((sO c0).lo 1) 14 11 = 3 ∧ fld ((sO c0).lo 1) 10 0 = 2 ∧
    (sO c0).routeFree 0 2 = true ∧ (nx (exec (.sopen { d := 4, b := 1 }) (sO c0))).me.stream = some { target := 2, tag := 3 } ∧
    (nx (exec (.sopen { d := 4, b := 1 }) (sO c0))).strLinks.length = 2 ∧
    (nx (exec (.sopen { d := 4, b := 1 }) (sO { c0 with stream := some x2 }))).lo 4 = 1 ∧
    (sO { c0 with stream := some x2 }).streamBusy 0 = false ∧ (nx (exec (.ssend { b := 8 }) (sO { c0 with stream := some x2 }))).me.stream = some { x2 with count := 5 } ∧
    (nx (exec (.ssend { b := 8 }) (sO { c0 with stream := some x2 }))).net.length = 1 ∧
    (nx (exec (.sclose { d := 4 }) (sO { c0 with stream := some x2 }))).lo 4 = 4 ∧ (nx (exec (.sclose { d := 4 }) (sO { c0 with stream := some x2 }))).me.stream = none ∧
    (nx (exec (.streamRouteRetry 0) (sO { c0 with phase := .part 2 (sopenMark + 3) }))).me.stream = some { target := 2, tag := 3 } ∧
    (let s := { sO { c0 with stream := some x2 } with cores := [(1, { fenced := true })] }
     strCores 0 2 = [0, 2, 0, 1] ∧ (nx (exec (.streamBreak 0) s)).me.stream = some { x2 with broken := true }) := by decide +kernel

/-! ## DEVICE -/

/-- The page 0x10000 of process identifier 1, its translation cached. -/
def sDev (c : Ctx) (m : Msg) : State := { (st c).placeCode [] with net := [m], nextId := 9, ctxs := [(0, c)] }
def pc2 : Piece := { part := 0, va := 0x10008, n := 4, bytes := [1, 2, 3, 4] }
def accM (k : AccKind) (stg : Stage) (fs : List (Nat × RFault)) : Msg :=
  { id := 4, g := 0, fire := 0, lid := 1, pid := 1, stage := stg, body := .acc { kind := k, space := 2, pieces := [pc2], weight := 1, key := 9, faults := fs } }

theorem witness_DeviceAccessEvents :
    (∀ k ∈ [AccKind.store, .load],
      (translate (sDev c0 (accM k .new [])) 0 1 0x10008 [if k.stores then lWR else lRD]).1.map (·.2) = some (.home 0x10008) ∧
      (nx (exec (.translation 4) (sDev c0 (accM k .new [])))).net.map (·.stage) = [.home 0x10008] ∧
      (nx (exec (.heldRequestRelease 4) (sDev c0 (accM k .held [])))).net.map (·.stage) = [.home 0x10008]) ∧
    (accM .store .new []).devAddr = some 0x10008 ∧
    (let s := sDev c0 (accM .store (.home 0x10008) [])
     s.behindRoute (accM .store (.home 0x10008) []) 0x10008 = false ∧ s.lineLocked 0 0x10008 4 = false ∧ pieceLoc 0x10008 pc2 = 0x10008 ∧
     (nx (exec (.deviceAccessAtHome 4) s)).numAt 0x10008 4 = 0x04030201) ∧
    (let s := { sDev c0 (accM .load (.home 0x10008) []) with mem := [(0x10009, 7)] }
     (nx (exec (.deviceAccessAtHome 4) s)).net.map (fun m => match m.body with | .acc a => a.got | _ => []) = [[(0, 0x700)]]) ∧
    (let s := sDev c0 (accM .load (.io (8 * 2 ^ 38)) [])
     s.behind (accM .load (.io (8 * 2 ^ 38)) []) (fun _ => true) = false ∧
     (nx (exec (.ioAccess 4 true 0x1122334455) s)).net.map (fun m => match m.body with | .acc a => a.got | _ => []) = [[(0, 0x22334455)]]) ∧
    (nx (exec (.deviceStoreAck 4) (sDev c0 (accM .store (.answered {}) [(0, ⟨.pois, 5⟩)])))).me.deviceRef = some ⟨.pois, 5⟩ := by decide +kernel

def atM (id : Nat) (nr : Bool) (op : AmoOp) (v : Word) : Msg :=
  { id := id, g := 0, fire := 0, lid := 1, pid := 1, stage := .home 0x10008, body := .atom { kind := .amo op, space := 2, va := 0x10008, dbl := false, val := v, nr := nr, scp := .dev } }

theorem witness_DeviceAtomicEvents :
    (let s := { sDev { c0 with phase := .sent 4 } (atM 4 false .add 5) with mem := [(0x10008, 7)] }
     s.behindRoute (atM 4 false .add 5) 0x10008 = false ∧ (nx (exec (.deviceAtomicAtHome 4 false) s)).numAt 0x10008 4 = 12 ∧
     (nx (exec (.loadReply 4) (nx (exec (.deviceAtomicAtHome 4 false) s)))).me.phase = .done { data := 7 }) ∧
    (∀ op ∈ [(AmoOp.add, 0), (.minu, 3), (.maxu, 0xFFFFFFFF)],
      let s := { sDev c0 (atM 4 true op.1 0xFFFFFFFF) with net := [atM 4 true op.1 0xFFFFFFFF, atM 6 true op.1 (if op.1 = .add then 1 else 3)] }
      (nx (exec (.routerMerge 4 6) s)).net.map (fun m => match m.body with | .atom a => (a.val, a.also) | _ => (0, [])) = [(BitVec.ofNat 64 op.2, [{ g := 0, fire := 0, lid := 1, va := 0x10008 }])]) := by decide +kernel

/-! ## Spatial memory -/

/-- Field 7 of process identifier 1: two coordinates of which one owns, records of 32 bytes, x from 0 to 2; core 0 owns below 1, core 1 from there on, each with bank 2. -/
def treeN : List Quad := [BitVec.ofNat 128 (2 ^ 16 + 2 * 2 ^ 32 + 0x3F800000 * 2 ^ 64), BitVec.ofNat 128 (3 + 4 * 2 ^ 32), BitVec.ofNat 128 (3 + 2 ^ 16 + 4 * 2 ^ 32)]
def fs0 : FSlot := { word := BitVec.ofNat 64 (1 + 2 + 7 * 4 + 2 ^ 10 + 2 * 2 ^ 12), desc := 0x10000, pid := 1, home := 0x10000, lo := [0], hi := [0x40000000], dir := 0x100000, dirk := 10, nodes := treeN, banks := [2] }
def kf (l : Word) (pool : Tab PoolSlot) : Core := { lid := l, fslots := Vector.ofFn (fun (i : Fin 4) => if i.val = 1 then fs0 else {}), pool := pool, bfmt := Vector.replicate 16 0x0E }

/-- A FIELD capability to the whole of field 7 with a cursor. -/
def fc (h : Word) : Cap := { cur := h, base := 7 * 2 ^ 56, lim := 8 * 2 ^ 56, prm := 0x7F, spc := 3 }
/-- The handle of serial 5. -/
def h5 : Word := BitVec.ofNat 64 (7 * 2 ^ 56 + 5)

/-- A position (1.5, 3.0) in window 4, the capability in window 2, the ring control (0x4000, 4 entries, axes 1 and 2) in register 8, a box in window 12. -/
def cF : Ctx := ((c0).nums [(4, 0x404000003FC00000), (8, BitVec.ofNat 128 (0x4000 + 4 * 2 ^ 19 + 3 * 2 ^ 29)), (14, 0x4080000040800000)]).cap 2 (fc h5)
def sFd (c : Ctx) (net : List Msg) : State := { st c with cores := [(0, kf 1 []), (1, kf 1 [])], net := net, nextId := 9 }

theorem witness_SpatialInstructions : (sFd cF []).me.holdsCap 2 = true ∧ (sFd cF []).myCore.fieldSlot 1 7 = some fs0 ∧
    (fs0.adjust ((sFd cF []).position 4)).toOption = some [0x3FC00000, 0x40400000] ∧ (sFd cF []).me.numbers (span 4 2) = true ∧ (sFd cF []).me.ready (6 :: span 4 2 ++ span 2 2) = true ∧
    (sFd cF []).reaches (fc h5) (fieldBase (fc h5)) (2 ^ 56) [pWR] [3] 1 = true ∧ (sFd cF []).reaches (fc h5) h5 1 [pWR] [3] 1 = true ∧
    fs0.owner [0x3FC00000, 0x40400000] = 1 ∧ fs0.owner [0x3F000000, 0x40400000] = 0 ∧
    (∀ i ∈ [Instr.snew { d := 6, a := 4, b := 2 }, .sput { d := 6, a := 4, b := 2 }, .sdel { d := 6, b := 2 }], (nx (exec i (sFd cF []))).net.length = 1 ∧
      (nx (exec i (sFd cF []))).me.phase = .sent 9) ∧
    (∀ i ∈ [Instr.sputNr { a := 4, b := 2 }, .sld { d := 6, b := 2 }, .sst { a := 4, b := 2, imm := 16 }], (nx (exec i (sFd cF []))).net.length = 1 ∧
      (nx (exec i (sFd cF []))).me.pc = 0x10002) ∧ ((nx (exec (.sld { d := 6, b := 2 }) (sFd cF []))).me.reg 6).pres = .empty ∧
    (let s := sFd { cF with phase := .done { data := 9 } } []
     (nx (exec (.snew { d := 6, a := 4, b := 2 }) s)).lo 6 = 9 ∧ (nx (exec (.sput { d := 6, a := 4, b := 2 }) s)).lo 6 = 9 ∧ (nx (exec (.sdel { d := 6, b := 2 }) s)).lo 6 = 9) ∧
    (nx (exec (.sdel { d := 6, b := 2 }) (sFd { cF with phase := .done { fault := some ⟨.hndl, h5⟩ } } []))).me.tcause = 0x10 := by decide +kernel

def q0 : Query := { fld := 7, desc := 0x10000, home := 0x10000, stamp := 3, slot := 0, region := (sFd cF []).lanes 12, radial := false, axes := 3, ring := 0x4000, nent := 4, size := 32, owners := [0, 1], started := true }

theorem witness_SpatialQueries :
    (nx (exec (.shwait { d := 6, b := 20 }) (sFd cF []))).me.pc = 0x10002 ∧
    (nx (exec (.shwait { d := 6, b := 20 }) (sFd { cF with spFail := some (2, h5) } []))).bits 6 = BitVec.ofNat 128 (h5.toNat * 2 ^ 64 + 2) ∧
    (nx (exec (.shwait { d := 6, b := 20 }) (sFd { cF with spFail := some (16, h5) } []))).me.tcause = 0x110 ∧
    (let s := sFd cF []
     s.me.ready (8 :: span 12 4 ++ span 2 2) = true ∧ s.me.numbers (span 12 4 ++ [8]) = true ∧ fld (s.lo 8) 28 19 = 4 ∧
     ((s.myCore.fslots.toList.filter (·.bound)).flatMap (·.banks)) = [2] ∧ (List.range 16).all (fun i => !f32Nan (s.me.lane 12 i)) = true ∧
     (∀ i ∈ [Instr.sqbox { c := 8, a := 12, b := 2 }, .sqrad { c := 8, a := 12, b := 2 }], (nx (exec i s)).me.phase = .sent 9 ∧ (nx (exec i s)).net.length = 1) ∧
     fs0.visited q0 = [0, 1]) ∧
    (nx (exec (.sqbox { c := 8, a := 12, b := 2 }) (sFd { cF with phase := .done { data := 7 } } []))).lo 8 = 7 ∧
    (let s := sFd { (cF).nums [(20, 0)] with queries := [(0, { q0 with delivered := 5 })] } []
     s.me.queries.find (fld (s.bits 20) 64 64) = some { q0 with delivered := 5 } ∧ (nx (exec (.sqtake { d := 6, b := 20 }) s)).me.take = some (6, 0) ∧
     (let t := nx (exec (.sqend { d := 6, b := 20 }) s)
      t.me.queries = [(0, { q0 with delivered := 5, acks := some [0, 1] })] ∧ t.net.length = 2 ∧ t.me.pc = 0x10000)) ∧
    (∀ q ∈ [{ q0 with delivered := 5, started := false }, { q0 with delivered := 5, acks := some [] }],
      let t := nx (exec (.sqend { d := 6, b := 20 }) (sFd { (cF).nums [(20, 0)] with queries := [(0, q)] } []))
      t.lo 6 = 5 ∧ t.me.queries = [] ∧ t.me.pc = 0x10002) ∧
    (let s := { sFd cF [] with cores := [(0, kf 1 [(0x10020, { st := .live, handle := h5 })])], mem := [(spad 0 0x1002A, 0x80), (spad 0 0x1002B, 0x3F)] }
     s.coords fs0 0 0x10020 = [0x3F800000, 0] ∧
     (nx (exec (.sown { d := 6, a := 4, b := 2 }) s)).lo 6 = 1 ∧ (nx (exec (.scount { d := 24, a := 20, b := 2 }) s)).me.lane 24 1 = 1 ∧
     (nx (exec (.sscan { d := 24, a := 20, b := 2 }) s)).lo 24 = h5 ∧ (nx (exec (.sscan { d := 24, a := 20, b := 2 }) s)).bits 25 = BitVec.ofNat 128 (2 + 0x10020 * 2 ^ 64) ∧
     (nx (exec (.sscan { d := 24, a := 8, b := 2 }) s)).bits 25 = BitVec.ofNat 128 (2 ^ 127)) := by decide +kernel

/-- The descriptor of field 7 as it stands in memory, with its tree. -/
def descBytes : List Byte := leBytes 8 0 ++ leBytes 8 (1 + 2 * 4 + 7 * 2 ^ 10 + 3 * 2 ^ 18) ++ leBytes 12 0 ++ leBytes 12 0x40000000 ++
  leBytes 8 0x100000 ++ leBytes 8 10 ++ leBytes 8 0 ++ treeN.flatMap (fun q => leBytes 16 q.toNat)

def sBind (slot : Word) (k : Core) (ph : Phase) : State :=
  { ({ st c0 with ilen := 1 } : State).placeCode [] with ctxs := [(0, { ((c0).nums [(5, slot.setWidth 128)]).cap 2 (dc 0x10000) with phase := ph })], cores := [(0, k), (1, kf 1 [])] }

theorem witness_FieldBinding :
    (nx (exec (.sfldBind { d := 6, a := 2, b := 5 }) (sBind 1 (kf 1 []) .idle))).lo 6 = 1 ∧
    (let s := sBind 3 { lid := 1, bfmt := Vector.replicate 16 0x0E } (.done { bytes := descBytes })
     let nodes := (List.range ((descBytes.length - 64) / 16)).map (fun n => recDesc (descBytes.drop 64) n)
     nodes = treeN ∧ s.locOf (s.capAt 2).cur = some 0x10000 ∧ descriptorOk descBytes nodes = true ∧ slotOf descBytes nodes 0 1 0x10000 0x10000 = fs0 ∧
     (nx (exec (.sfldBind { d := 6, a := 2, b := 5 }) s)).lo 6 = 0 ∧ (nx (exec (.sfldBind { d := 6, a := 2, b := 5 }) s)).myCore.fslot 3 = fs0 ∧
     (nx (exec (.sfldBind { d := 6, a := 2, b := 5 }) s)).me.pc = 0x10002) ∧
    (nx (exec (.sfldDrop { d := 6, b := 5 }) (sBind 0 (kf 1 []) .idle))).lo 6 = 1 ∧
    (nx (exec (.sfldDrop { d := 6, b := 5 }) (sBind 1 (kf 1 [(0x10000, { st := .live, handle := h5 })]) .idle))).lo 6 = 6 ∧
    (nx (exec (.sfldDrop { d := 6, b := 5 }) (sBind 1 (kf 1 []) .idle))).lo 6 = 0 ∧
    ((nx (exec (.sfldDrop { d := 6, b := 5 }) (sBind 1 (kf 1 []) .idle))).myCore.fslot 1).bound = false := by decide +kernel

def rq (op : SpOp) (stp : SpStep) (posted : Bool) : SpReq := { op := op, fld := 7, desc := 0x10000, home := 0x10000, handle := h5, step := stp, posted := posted }
def spM (x : SpReq) : Msg := { id := 4, g := 0, fire := 0, lid := 1, pid := 1, body := .sp x }
/-- One request in flight; SWEEP is 6; the directory names core 0. -/
def sRq (x : SpReq) (p0 p1 : Tab PoolSlot) (h : Home) : State :=
  { sFd { c0 with phase := .sent 4 } [spM x] with cores := [(0, kf 1 p0), (1, kf 1 p1)], mem := [(0x10000, 6)], homes := [(fieldKey 1 7, h)] }
def live5 : PoolSlot := { st := .live, handle := h5, born := 1 }
def hauling : PoolSlot := { live5 with busy := some 4 }
def hom : Home := { dir := [(h5, 0, false)] }
/-- A position of each owner. -/
def posA : List (BitVec 32) := [0x3F000000, 0x40000000]
def posB : List (BitVec 32) := [0x3FC00000, 0x40000000]
/-- The step of the one request. -/
def stepOf (t : State) : Option (SpStep × Nat) := (t.spAt 4).map (fun e => (e.2.step, e.2.owner))
/-- Its answer, and the place from which it comes. -/
def ansOf (t : State) : Option (Nat × Answer) := (t.msg 4).bind (fun m => match m.stage with | .answered a => some (m.from_, a) | _ => none)
/-- The same state once the answer has arrived. -/
def home4 (t : State) : State := nx (exec (.loadReply 4) t)

theorem witness_SpatialRequestEvents_owner :
    (let x := rq .del .owner false
     let s := sRq x [(0x10000, { st := .tomb, handle := h5, died := 3, fwd := some 1 })] [] hom
     s.spAt 4 = some (spM x, x) ∧ s.atOwner (spM x) x = true ∧ s.serving (spM x) x 0 = some fs0 ∧ (s.coreAt 0).liveCopy fs0 h5 = none ∧
     stepOf (nx (exec (.handleForward 4) s)) = some (.owner, 1)) ∧
    (let x := rq .del .dir false
     (sRq x [] [] hom).spFirst (spM x) x = true ∧ stepOf (nx (exec (.directoryResolve 4) (sRq x [] [] hom))) = some (.owner, 0) ∧
     (let t := nx (exec (.directoryResolve 4) (sRq x [] [] {}))
      ansOf t = some (4096, { fault := some ⟨.hndl, h5⟩ }) ∧ (home4 t).me.phase = .done { fault := some ⟨.hndl, h5⟩ } ∧ (home4 t).net = [])) ∧
    (let x := rq .del (.placed 1 0x10000) false
     stepOf (nx (exec (.sweepReservation 4) (sRq x [] [] hom))) = some (.stamped 1 0x10000 6, 0) ∧
     ((nx (exec (.sweepReservation 4) (sRq x [] [] hom))).homes.get {} (fieldKey 1 7)).unsettled = [6]) ∧
    (let x := rq .del (.settling 6 0) false
     (let t := nx (exec (.reservationSettle 4) (sRq x [] [] { hom with unsettled := [5, 6] }))
      ansOf t = some (1, { data := 0 }) ∧ (home4 t).me.phase = .done { data := 0 }) ∧
     ((nx (exec (.reservationSettle 4) (sRq x [] [] { hom with unsettled := [5, 6] }))).homes.get {} (fieldKey 1 7)).unsettled = [5]) ∧
    (let x := rq (.create posA) .owner false
     let s := sRq x [(0x10000, live5)] [] hom
     s.away (spM x) x 0 = false ∧ s.creating (spM x) x = false ∧ (s.coreAt 0).freeOffset fs0 = some 0x10020 ∧ s.unlocked 0 0x10020 32 = true ∧
     (let t := nx (exec (.recordCreateAtOwner 4) s)
      stepOf t = some (.placed 0 0x10020, 0) ∧ t.numAt (spad 0 0x10020) 8 = 7 * 2 ^ 56 + 1 ∧ t.numAt (spad 0 0x10028) 4 = 0x3F000000)) ∧
    (let x := rq (.create posA) (.stamped 0 0x10000 6) false
     let s := sRq x [(0x10000, { live5 with st := .inbound })] [] {}
     (let t := nx (exec (.recordCreateAtOwner 4) s)
      stepOf t = some (.settling 6 0, 0) ∧ t.myCore.pool = [(0x10000, { live5 with born := 6 })] ∧ (t.homes.get {} (fieldKey 1 7)).dir = [(h5, 0, false)] ∧
      t.myCore.serials.get 0 (fieldKey 1 7) = 1)) := by decide +kernel

theorem witness_SpatialRequestEvents_copy :
    (let x := rq (.write 16 [9]) .owner true
     let s := sRq x [(0x10000, live5)] [] hom
     (s.coreAt 0).liveCopy fs0 h5 = some (0x10000, live5) ∧ live5.serves 4 = true ∧ (nx (exec (.spatialWriteAtOwner 4) s)).numAt (spad 0 0x10010) 1 = 9 ∧
     stepOf (nx (exec (.spatialWriteAtOwner 4) s)) = some (.ended 0, 0)) ∧
    (let s := sRq (rq (.put posA) .owner true) [(0x10000, live5)] [] hom
     fs0.owner posA = 0 ∧ (nx (exec (.spatialWriteAtOwner 4) s)).numAt (spad 0 0x10008) 4 = 0x3F000000) ∧
    (let s := sRq (rq (.put posB) .owner true) [(0x10000, live5)] [] hom
     stepOf (nx (exec (.haulSend 4) s)) = some (.moving 1, 0) ∧ (nx (exec (.haulSend 4) s)).myCore.pool = [(0x10000, hauling)]) ∧
    (let x := rq (.put posB) (.moving 1) true
     let s := { sRq x [(0x10000, hauling)] [] hom with mem := [(spad 0 0x10018, 5)] }
     s.away (spM x) x 1 = false ∧ s.hauled (spM x) x = some (fs0, 0x10000, hauling) ∧
     (let t := nx (exec (.haulInstall 4) s)
      stepOf t = some (.placed 1 0x10000, 0) ∧ t.numAt (spad 1 0x10008) 4 = 0x3FC00000 ∧ t.numAt (spad 1 0x10018) 1 = 5)) ∧
    (let x := rq (.put posB) (.moving 1) true
     let s := { sRq x [(0x10000, hauling)] [] hom with cores := [(0, kf 1 [(0x10000, hauling)]), (1, { kf 1 [] with fslots := Vector.ofFn (fun (i : Fin 4) => if i.val = 1 then { fs0 with banks := [] } else {}) })] }
     stepOf (nx (exec (.haulFail 4) s)) = some (.ended 2, 0) ∧ (nx (exec (.haulFail 4) s)).myCore.pool = [(0x10000, live5)]) ∧
    (let x := rq (.put posB) (.stamped 1 0x10040 6) true
     let s := sRq x [(0x10000, hauling)] [(0x10040, { st := .inbound, handle := h5 })] hom
     s.reserved (spM x) x 1 0x10040 = some fs0 ∧
     (let t := nx (exec (.haulInstall 4) s)
      stepOf t = some (.settling 6 1, 0) ∧ t.myCore.pool = [(0x10000, { live5 with st := .tomb, died := 6, fwd := some 1 })] ∧
      (t.coreAt 1).pool = [(0x10040, { st := .live, handle := h5, born := 6 })] ∧ (t.homes.get {} (fieldKey 1 7)).dir = [(h5, 1, false)])) ∧
    (let x := rq (.read 16 16 77) .owner false
     let s := { sRq x [(0x10000, live5)] [] hom with mem := [(spad 0 0x10010, 5)], ctxs := [(0, { (c0.setRegAt 8 { pres := .empty }) with loads := [{ key := 77, dest := [8], left := 1, how := .record 1 }] })] }
     s.poisonedAt (spad 0 0x10000) 32 = none ∧ s.postedBefore (spM x) x = false ∧
     (let t := nx (exec (.recordReadAtOwner 4) s)
      ansOf t = some (1, { bytes := leBytes 16 5 }) ∧ (home4 t).me.regAt 8 = { bits := 5 } ∧ (home4 t).me.loads = []) ∧
     (let t := { s with net := [{ spM { x with step := .ended 3 } with stage := .answered { fault := some ⟨.fab, h5⟩ } }] }
      (home4 t).me.regAt 8 = { pres := .empty, fault := some ⟨.fab, h5⟩, window := [8] })) ∧
    (nx (exec (.spatialPostedAck 4) (sRq (rq (.put posA) (.ended 2) true) [] [] hom))).me.spFail = some (2, h5) := by decide +kernel

theorem witness_SpatialQueryEvents :
    (let s := sRq (rq (.take 1 q0) .owner false) [] [] { hom with queries := [(0, 2)] }
     (List.range 64).find? (fun i => ((s.homes.get {} (fieldKey 1 7)).queries.find i).isNone) = some 1 ∧
     (let t := nx (exec (.queryTake 4) s)
      t.numAt 0x10000 8 = 7 ∧ ansOf t = some (4096, { data := BitVec.ofNat 128 (6 + 2 ^ 64) }) ∧ stepOf t = some (.ended 0, 0) ∧
      (home4 t).me.phase = .done { data := BitVec.ofNat 128 (6 + 2 ^ 64) } ∧ (home4 t).me.queries = [(1, { q0 with stamp := 6, slot := 1 })])) ∧
    (let s : State := { sFd { c0 with queries := [(0, { q0 with started := false })] } [] with homes := [(fieldKey 1 7, { unsettled := [4] })] }
     (nx (exec (.queryVisitStart 0 0) s)).net.length = 2 ∧ (nx (exec (.queryVisitStart 0 0) s)).me.queries = [(0, { q0 with pending := [0, 1] })]) ∧
    (let x := rq (.visit 0 3) .owner false
     let q := { q0 with pending := [0, 1], taken := some 0 }
     let s : State := { sRq x [(0x10000, live5), (0x10020, { live5 with born := 5 })] [] hom with ctxs := [(0, { c0 with queries := [(0, q)] })] }
     s.ringFree 0 q = false ∧ (nx (exec (.queryOwnerScan 4) s)).me.queries.map (fun e => (e.2.edge.length, e.2.pending)) = [(1, [1])]) ∧
    (let x := rq (.stop 0) .owner false
     let s : State := { sRq x [] [] hom with ctxs := [(0, { c0 with queries := [(0, { q0 with acks := some [0, 1] })] })] }
     s.away (spM x) x 0 = false ∧ (nx (exec (.queryOwnerScan 4) s)).me.queries = [(0, { q0 with acks := some [1] })] ∧ (nx (exec (.queryOwnerScan 4) s)).net = []) ∧
    (let q := { q0 with edge := [(h5, [1, 2])] }
     let s := sFd { c0 with queries := [(0, q)] } []
     s.ringFree 0 q = true ∧ (nx (exec (.queryResultDelivery 0 0) s)).numAt (spad 0 0x4000) 2 = 0x201 ∧
     (nx (exec (.queryResultDelivery 0 0) s)).me.queries = [(0, { q0 with filled := [(0, h5)], next := 1, delivered := 1 })]) ∧
    (let s := sFd { c0 with queries := [(0, { q0 with filled := [(1, h5)] })], take := some (8, 0) } []
     (nx (exec (.queryEventDelivery 0) s)).bits 8 = BitVec.ofNat 128 (h5.toNat + 0x4020 * 2 ^ 64)) ∧
    ((nx (exec (.queryEventDelivery 0) (sFd { c0 with queries := [(0, q0)], take := some (8, 0) } []))).me.take = none) ∧
    (let s := { sRq (rq .del .owner false) [(0x10000, { st := .tomb, handle := h5, died := 3 })] [] { queries := [(0, 3)] } with mem := [(spad 0 0x10008, 7)] }
     (nx (exec (.tombstoneReclaim 0 0x10000) s)).myCore.pool = [] ∧ (nx (exec (.tombstoneReclaim 0 0x10000) s)).mem = []) := by decide +kernel

/-! ## Groups, reductions, peers -/

/-- Group 3, generation 2, of context 0, with its record in package 5; its gid. -/
def grp0 : Group := { gen := 2, st := .opened, record := (5, 6, 0x4000), recVa := 0x20000 }
def gid0 : Nat := 3 + 2 * 2 ^ 23
def sG (x : Group) (ph : Phase) (net : List Msg) : State :=
  let s := ({ st c0 with ilen := 1 } : State).placeCode []
  { s with ctxs := [(0, { (((c0).nums [(5, BitVec.ofNat 128 gid0), (7, 0x1122)]).cap 2 (dc 0x10000)) with phase := ph })], groups := [(3, x)], net := net, nextId := 9, cyc := 3000000 }

theorem witness_GroupInstructions : (sG grp0 .idle []).groupOf gid0 = some (3, grp0) ∧
    (let s := sG grp0 (.done { data := 3 }) []
     s.me.ready (6 :: span 2 2) = true ∧ s.me.holdsCap 2 = true ∧ s.reaches (s.capAt 2) 0x10000 16 [pRD, pWR, pAT] [2] 16 = true ∧
     (nx (exec (.gopen { d := 6, b := 2 }) s)).lo 6 = BitVec.ofNat 64 gid0) ∧
    (let s := sG grp0 .idle []
     (translate s 0 1 0x10008 [lWR]).1.map (·.2) = some (.home 0x10008) ∧
     (let t := nx (exec (.stg .d { a := 7, b := 2, c := 5, imm := 8 }) s)
      t.me.pc = 0x10002 ∧ (t.groups.get {} 3).seq = 1 ∧ (t.groups.get {} 3).sent = [(portOf 0x10008, 1)] ∧ t.net.length = 1 ∧ (t.net.headD default).path.isSome = true)) ∧
    (let s := sG { grp0 with st := .committing, step := .finished 0x20100 } (.part groupMark 3) []
     s.inCommit 3 = true ∧ (nx (exec (.gcommit { d := 6, b := 5 }) s)).lo 6 = 0x20100 ∧ (nx (exec (.gcommit { d := 6, b := 5 }) s)).groups.get {} 3 = { gen := 2 }) ∧
    (let s := sG { grp0 with st := .committing, step := .finished 0, gabort := true } (.part groupMark 3) []
     (nx (exec (.gabort { d := 6, b := 5 }) s)).me.pc = 0x10002) ∧
    (nx (exec (.gcommit { d := 6, b := 5 }) (sG { grp0 with st := .committing, step := .lost } .idle []))).me.tcause = 0x1E ∧
    (let s := sG { grp0 with sent := [(160, 1)] } .idle []
     s.stgOut gid0 = 0 ∧ ((nx (exec (.gcommit { d := 6, b := 5 }) s)).groups.get {} 3).step = .prepared ∧ (nx (exec (.gcommit { d := 6, b := 5 }) s)).net.length = 1 ∧
     ((nx (exec (.gabort { d := 6, b := 5 }) s)).groups.get {} 3).step = .deciding ∧ (nx (exec (.gstat { d := 6, b := 5 }) s)).lo 6 = 0x101) ∧
    (nx (exec (.gstat { d := 6, b := 7 }) (sG grp0 .idle []))).lo 6 = 0 ∧ (nx (exec (.gcommit { d := 6, b := 7 }) (sG grp0 .idle []))).me.tcause = 0x1E := by decide +kernel

def stg0 : Stg := { gid := gid0, seq := 0, pkg := 5, port := 1, phys := 0x4008, bytes := [7, 8], mir := none }
def stM : Msg := { id := 4, g := 0, fire := 0, lid := 1, pid := 1, stage := .peer 5 none 0x4008, path := some 2, body := .stg stg0 }
def gpM (op : GroupOp) : Msg := { id := 4, g := 0, fire := 0, lid := 1, pid := 1, body := .group op gid0 5 1 }
def ent0 : Staged := { gid := gid0, seq := 0, phys := 0x4008, bytes := [7, 8], lid := 1, va := stM.va }
def sGp (x : Group) (p : Port) (m : List Msg) : State := { sG x .idle m with ports := [(161, p)] }

theorem witness_GroupEvents :
    ((nx (exec (.stgReceive 4 false) (sGp grp0 {} [stM]))).ports.get {} 161) = { entries := [ent0], recv := [(gid0, 1)] } ∧
    ((nx (exec (.stgReceive 4 true) (sGp grp0 { entries := [ent0] } [stM]))).ports.get {} 161) = { recv := [(gid0, 1)], doomed := [gid0] } ∧
    (let s := sGp { grp0 with st := .committing, step := .prepared, sent := [(160, 1), (161, 1)] } { entries := [ent0], recv := [(gid0, 1)] } [gpM (.prepare 1)]
     (nx (exec (.prepare 4) s)).ports.get {} 161 = { entries := [ent0], recv := [(gid0, 1)], prepared := [(gid0, 3000000, (5, 6, 0x4000))] } ∧
     ((nx (exec (.prepare 4) s)).groups.get {} 3).answers = [(161, true)]) ∧
    (let s := sGp { grp0 with st := .committing, step := .prepared, sent := [(161, 1)] } { entries := [ent0], recv := [(gid0, 1)], doomed := [gid0] } [gpM (.prepare 1)]
     ((nx (exec (.prepare 4) s)).groups.get {} 3).answers = [(161, false)] ∧ ((nx (exec (.prepare 4) s)).groups.get {} 3).step = .deciding) ∧
    (let x := { grp0 with st := .committing, step := .telling, sent := [(160, 1), (161, 1)] }
     (let t := nx (exec (.publish 4) (sGp x { entries := [ent0] } [gpM .publish]))
      t.numAt (peerLoc 5 0x4008) 2 = 0x807 ∧ (t.groups.get {} 3).acked = [161] ∧ t.net = [] ∧ t.ports.get {} 161 = {}) ∧
     (let t := nx (exec (.groupAbortAtPort 4) (sGp x { entries := [ent0] } [gpM .abort]))
      t.mem = [] ∧ (t.groups.get {} 3).acked = [161] ∧ t.ports.get {} 161 = {})) ∧
    ((nx (exec (.prepareAnswerTimeout gid0) (sGp { grp0 with st := .committing, step := .prepared, since := 1800000 } {} []))).groups.get {} 3).reason = 2 ∧
    ((nx (exec (.publishAckTimeout gid0) (sGp { grp0 with st := .committing, step := .telling, since := 1800000, sent := [(161, 1)], tried := 1 } {} []))).groups.get {} 3).step = .finished 0x10100 ∧
    (let s (v : Nat) := { sGp {} { entries := [ent0], prepared := [(gid0, 600000, (5, 6, 0x5000))] } [] with
        mem := [(peerLoc 5 0x5000, 3), (peerLoc 5 0x5003, 1), (peerLoc 5 0x5008, BitVec.ofNat 8 v)] }
     (s 1).numAt (peerLoc 5 0x5000) 8 = gid0 ∧ (s 1).recordLocked (5, 6, 0x5000) = false ∧ (nx (exec (.preparedLockTimeout 161 gid0) (s 1))).numAt (peerLoc 5 0x4008) 2 = 0x807 ∧
     (nx (exec (.preparedLockTimeout 161 gid0) (s 2))).numAt (peerLoc 5 0x4008) 2 = 0 ∧ (nx (exec (.preparedLockTimeout 161 gid0) (s 2))).ports.get {} 161 = {}) ∧
    (nx (exec (.groupDrainEnd gid0) (sGp { grp0 with st := .draining, sent := [(161, 1)], acked := [161] } {} []))).groups.get {} 3 = { gen := 2 } := by decide +kernel

/-- FRED of two words at 0x100 into 0x200, collective 6, round 9, SUMW. -/
def sR1 (reds : Tab RedSlot) : State :=
  { st { (((c0).nums [(6, BitVec.ofNat 128 (6 + 9 * 2 ^ 16 + 2 * 2 ^ 32)), (7, BitVec.ofNat 128 (1 + 5 * 2 ^ 8))]).cap 2 (lc 0x100)).cap 4 (lc 0x200) with reds := reds } with
    mem := [(spad 0 0x100, 3), (spad 0 0x104, 4)], colls := [(6, { members := [0, 1], self := some 0 })], cyc := 300000 }
def rd0 : RedSlot := { coll := 6, round := 9, held := true, sent := true }
def rnd0 : Round := { coll := 6, round := 9, op := 0, nel := 2, det := false, got := [(0, [3, 4])], times := [0] }

theorem witness_Reductions :
    (let s := sR1 []
     s.me.ready (6 :: span 2 2 ++ span 4 2) = true ∧ s.reaches (s.capAt 2) 0x100 8 [pRD] [0] 4 = true ∧ s.reaches (s.capAt 4) 0x200 8 [pWR] [0] 4 = true ∧
     s.free 0x100 8 false = true ∧ s.free 0x200 8 true = true ∧ s.myCore.freeLocks ≠ 0 ∧
     (let t := nx (exec (.fred { c := 6, a := 2, b := 4 }) s)
      t.bits 6 = 0x100 ∧ (t.me.reds.get {} 0).elems = [3, 4] ∧ (t.me.reds.get {} 0).coll = 6 ∧ (t.me.reds.get {} 0).round = 9)) ∧
    (nx (exec (.fred { c := 6, a := 2, b := 4 }) (sR1 [(0, rd0), (1, rd0), (2, rd0), (3, rd0)]))).bits 6 = BitVec.ofNat 128 (2 ^ 16) ∧
    (nx (exec (.fredw { d := 8, b := 7 }) (sR1 []))).lo 8 = 2 ∧
    (nx (exec (.fredw { d := 8, b := 7 }) (sR1 [(1, { rd0 with gen := 5, ans := some (1, 3, []), landed := true })]))).lo 8 = 1 + 3 * 2 ^ 32 ∧
    (let s := { sR1 [(1, rd0)] with rounds := [{ rnd0 with times := [100000] }] }
     (nx (exec (.reductionCombine 6 9 1 { op := 0, nel := 2, det := false, elems := [10, 20] }) s)).me.reds = [(1, { rd0 with ans := some (0, 0, [13, 0, 0, 0, 24, 0, 0, 0]) })] ∧
     (nx (exec (.reductionCombine 6 9 1 { op := 0, nel := 2, det := false, elems := [10, 20] }) s)).rounds = [] ∧
     (let u := { s with colls := [(6, { members := [0, 1, 2], self := some 0 })] }
      (nx (exec (.reductionCombine 6 9 1 { op := 0, nel := 2, det := false, elems := [10, 20] }) u)).rounds = [{ rnd0 with got := [(0, [3, 4]), (1, [10, 20])], times := [100000, 300000] }])) ∧
    (let s := { sR1 [(1, rd0)] with rounds := [rnd0] }
     (nx (exec (.reductionTimeout 6 9) s)).me.reds = [(1, { rd0 with ans := some (1, 1, [1, 0, 0, 0, 0, 0, 0, 0]) })] ∧
     (nx (exec (.reductionTimeout 6 9) s)).rounds = [{ rnd0 with ended := true }] ∧
     (nx (exec (.reductionCombine 6 9 1 { op := 0, nel := 2, det := false, elems := [10, 20] }) s)).rounds = [{ rnd0 with ended := true }]) ∧
    (let s := sR1 [(1, { rd0 with ans := some (0, 0, [13, 1]), dst := 0x200 })]
     (nx (exec (.reductionAnswer 0 1) s)).numAt (spad 0 0x200) 2 = 0x10D ∧ ((nx (exec (.reductionAnswer 0 1) s)).me.reds.get {} 1).landed = true) ∧
    (nx (exec (.collectiveSetup 6 [4, 5] none) (sR1 []))).colls = [(6, { members := [4, 5], self := none })] := by decide +kernel

/-- This package's own contribution: alone, the last one, of another length, twice, and too late; an answer to a slot with elements. -/
theorem witness_Reductions_own :
    (let own : RedSlot := { rd0 with sent := false, elems := [3, 4], gen := 5, dst := 0x200 }
     let r1 : Round := { rnd0 with got := [(1, [10, 20])], times := [100000] }
     let s (l : List Round) : State := { sR1 [(1, own)] with rounds := l }
     let k : RedContrib := { op := 9, nel := 9, det := true, elems := [] }
     let t (l : List Round) : State := nx (exec (.reductionCombine 6 9 0 k) (s l))
     (s []).nextRed 6 9 = some (0, 1, own) ∧ (t []).rounds = [{ rnd0 with times := [300000] }] ∧ (t []).me.reds = [(1, { own with sent := true })] ∧
     r1.late (s [r1]) = false ∧ (t [r1]).me.reds = [(1, { own with sent := true, ans := some (0, 0, [13, 0, 0, 0, 24, 0, 0, 0]) })] ∧ (t [r1]).rounds = [] ∧
     (t [{ r1 with nel := 1 }]).me.reds = [(1, { own with sent := true, ans := some (4, 0, []) })] ∧
     (t [{ r1 with got := [(0, [3, 4])] }]).me.reds = [(1, { own with sent := true, ans := some (3, 0, []) })] ∧
     (t [{ r1 with times := [0] }]).me.reds.map (fun e => e.2.ans.map (fun a => (a.1, a.2.1))) = [some (1, 1)] ∧
     (nx (exec (.reductionTimeout 6 9) { sR1 [(1, { own with sent := true })] with rounds := [rnd0] })).me.reds =
       [(1, { own with sent := true, ans := some (1, 1, [1, 0, 0, 0, 0, 0, 0, 0]) })] ∧
     (let c : Coll := { members := [0, 1, 70], self := some 0 }
      let u : State := { s [] with colls := [(6, c)] }
      ({ rnd0 with times := [60000] } : Round).late u = true ∧ ({ r1 with got := [(0, [3, 4]), (1, [10, 20])], times := [100000, 100000] } : Round).late u = false)) := by decide +kernel

def pM (k : AccKind) (mir : Option Nat) (stg : Option Stage) : Msg :=
  { id := 4, g := 0, fire := 0, lid := 1, pid := 1, stage := stg.getD (.peer 5 mir 0x4008), path := some 1, gen := 3, va := 0x30008,
    body := .acc { kind := k, space := 2, pieces := [pc2], weight := 1, key := if k = .load then 9 else 0, todo := [(5, [pc2])] } }
def sPe (m : Msg) : State := { sDev c0 m with cyc := 700000 }

theorem witness_PeerAccesses :
    (let s := { sDev { c0 with fabricRef := some ⟨.fab, 7⟩ } default with net := [] }
     (nx (exec .fncp s)).me.tcause = 0x11D ∧ (nx (exec .fncp s)).me.fabricRef = none ∧ (nx (exec .fncp { s with ctxs := [(0, c0)] })).me.pc = 0x10002) ∧
    (nx (exec (.pcnt { d := 8 }) (sPe (pM .load none none)))).lo 8 = 0x10000 ∧ (nx (exec (.pcntIss { d := 8 }) (sDev (c0.took 2) default))).lo 8 = 0x100000000 ∧
    (let s := sPe (pM .store none none)
     s.lineLocked 5 0x4008 4 = false ∧ pieceLoc 0x4008 pc2 = 0x4008 ∧ (nx (exec (.peerIngress (.ours 4 5 true)) s)).numAt (peerLoc 5 0x4008) 4 = 0x04030201 ∧
     (nx (exec (.peerIngress (.ours 4 5 false)) s)).net.map (·.refusal) = [some ⟨.fab, 0x30008⟩] ∧
     (nx (exec (.fabricTimeout 4) s)).me.fabricRef = some ⟨.fab, 0x30008⟩ ∧ (nx (exec (.fabricTimeout 4) s)).net = []) ∧
    (let s := { sPe (pM .load none none) with mem := [(peerLoc 5 0x4008, 9)] }
     (nx (exec (.peerIngress (.ours 4 5 true)) s)).net.map (fun m => match m.body with | .acc a => a.got | _ => []) = [[(0, 9)]]) ∧
    (let s := { sPe (pM .load none none) with windows := [(0, BitVec.ofNat 128 (1 + 2 * 2 ^ 42 + 3 * 2 ^ 68 + 2 ^ 79))] }
     s.winGrants 3 0x10000 4 [79] = true ∧ (nx (exec (.peerIngress (.store 5 3 7 0x10000 [5])) s)).numAt 0x10000 1 = 5 ∧
     (nx (exec (.peerIngress (.store 5 3 7 0x10000 [5])) s)).replies = [(.peer 5 7, .data [])] ∧
     (nx (exec (.peerIngress (.store 5 4 7 0x10000 [5])) s)).numAt 0x10000 1 = 0 ∧ s.winGrants 3 0x10000 1 [78] = false ∧
     (nx (exec (.peerIngress (.load 5 3 7 0x10000 1)) s)).replies = [(.peer 5 7, .fault .fab)]) ∧
    (let s := { sPe (pM .load none none) with windows := [(0, BitVec.ofNat 128 (1 + 2 * 2 ^ 42 + 3 * 2 ^ 68 + 2 ^ 78))], mem := [(0x10000, 9)] }
     s.winGrants 3 0x10000 1 [78] = true ∧ (nx (exec (.peerIngress (.load 5 3 7 0x10000 1)) s)).replies = [(.peer 5 7, .data [9])]) ∧
    (nx (exec (.peerReply 4 3) { sPe (pM .store none (some (.answered {}))) with cyc := 500000 })).net = [] ∧
    (nx (exec (.peerReply 4 3) (sPe (pM .store none (some (.answered {})))))).net.length = 1 ∧ (nx (exec (.peerReply 4 2) (sPe (pM .store none (some (.answered {})))))).net.length = 1 ∧
    (nx (exec (.peerReply 4 3) { sPe (pM .store none (some (.answered { fault := some ⟨.fab, 1⟩ }))) with cyc := 500000 })).me.fabricRef = some ⟨.fab, 0x30008⟩ ∧
    (nx (exec (.fabricTimeout 4) (sPe (pM .load (some 6) none)))).net.map (·.stage) = [.peer 6 none 0x4008] ∧
    (nx (exec (.mirrorResend 4) (sPe (pM .store (some 6) none)))).net.map (fun m => (m.gen, m.sent)) = [(4, 700000)] ∧
    (let m := { atM 4 false .add 5 with stage := .peer 5 none 0x4008, path := some 1 }
     let s := { sPe m with mem := [(peerLoc 5 0x4008, 9)] }
     (nx (exec (.sysAtomicAtHome 4 false) s)).numAt (peerLoc 5 0x4008) 4 = 14 ∧ (nx (exec (.sysAtomicAtHome 4 false) s)).net.map (·.stage) = [.answered { data := 9 }]) ∧
    (let m := { pM .store none none with path := none, body := .acc { kind := .store, space := 2, pieces := [pc2], weight := 1, ord := true } }
     m.ordered = true ∧ m.toPeer = true ∧ (sPe m).pathFor 0 = some 0 ∧ (nx (exec (.ofStoreRelease 4) (sPe m))).net.map (·.path) = [some 0]) ∧
    (nx (exec (.peerLoss 5) { sPe (pM .load none none) with net := [] })).peerTable = [5] ∧ (nx (exec (.peerReadmit 5) { st c0 with peerTable := [4, 5] })).peerTable = [4] := by
  decide +kernel

/-! ## Launches -/

/-- The fields of a domain control block from offset 0 (R330). -/
def dcbB (kind ovr part parent cl : Nat) (plc img pid : Nat) : List Byte :=
  leBytes 8 (kind + ovr * 4 + part * 2 ^ 10) ++ leBytes 8 parent ++ leBytes 8 cl ++ leBytes 7 0 ++ leBytes 1 plc ++ leBytes 8 pid ++ leBytes 8 img ++
  leBytes 8 0 ++ leBytes 8 5 ++ leBytes 8 0 ++ leBytes 8 4 ++ List.replicate 48 0

/-- A record of an image. -/
def recB (ty : Nat) (bs : List Byte) : List Byte := leBytes 1 ty ++ leBytes 3 (bs.length + 4) ++ bs

/-- An image at 0x20000: one cluster, core 3 with its scratch region and four bytes. -/
def imageB : List Byte :=
  recB 1 (leBytes 2 1 ++ leBytes 2 1 ++ leBytes 2 0 ++ leBytes 2 0 ++ leBytes 2 3 ++ leBytes 2 0 ++ leBytes 4 0x1000 ++ leBytes 4 0x2000) ++
  recB 4 (leBytes 2 5 ++ leBytes 2 0 ++ leBytes 8 777) ++
  recB 8 (leBytes 2 3 ++ leBytes 2 0 ++ leBytes 4 0x40 ++ leBytes 4 4 ++ [1, 2, 3, 4]) ++ recB 0 []

def memL : List Host.Cell := [(0x2000, 0x4001), (0x4000, 0x6001), (0x6000, 0x8001), (0x8010, 2 * 2 ^ 38 + 15)].foldl (fun m (e : Nat × Nat) => Memory.writeL m e.1 (leBytes 8 e.2))
  ([(0x1000, dcbB 0 255 0 0 100 0 0 0), (0x1100, dcbB 1 0 7 0x1000 0 0 0 0), (0x1200, dcbB 2 0 7 0x1100 0 0 0 0), (0x1300, dcbB 3 32 7 0x1200 0 3 0x20000 1), (0x1380, dcbB 3 32 7 0x1200 0 2 0x20000 1),
    (0x20000, imageB), (0x1400, leBytes 8 0x1300 ++ leBytes 8 9000 ++ leBytes 8 0 ++ leBytes 8 55)].foldl (fun m (e : Nat × List Byte) => Memory.writeL m e.1 e.2) [])

def lid2 : Word := 2 + 2 ^ 14
def la : Launch := { lid := lid2, dcb := 0x1300, deadline := 9000, args := 0, tag := 55, arrival := 0, part := 7, pid := 1 }
/-- The window of the first four pages, for partition 7. -/
def win7 : Quad := BitVec.ofNat 128 (1 + 4 * 2 ^ 42 + 7 * 2 ^ 68 + 3 * 2 ^ 76)
def q2 : Queue := { cfg := 0x703, ring := 0x30000, serial := 0 }

/-- A booted package with the partition 7 of clusters 0 to 3, queue 2 and some launches; the context's process identifier belongs to 7. -/
def sLq (ls : List Launch) (c : Ctx) : State :=
  { st c with mem := memL, cyc := 10000, plug := { step := 6, feather := true, root := 0x1000, parts := [(7, { dcb := 0x1100, clusters := [0, 1, 2, 3] })] }
              levelZero := [(1, 0x2000)], partOf := [(1, 7)], queues := [(2, q2)], launches := ls, windows := [(0, win7)] }

theorem witness_LaunchQueues :
    (let s := sLq [] c0
     s.freeEntry 2 = some 0 ∧ s.dcbOk 0x1300 = true ∧ s.dcbOk 0x1200 = false ∧
     (let t := nx (exec (.qdoor 2 0x1400) s)
      t.launches = [{ la with arrival := 0 }] ∧ (t.queue 2).last = 0 ∧ (t.queue 2).lid = lid2) ∧
     ((nx (exec (.qdoor 3 0x1400) s)).queue 3).last = 2 ∧ ((nx (exec (.qdoor 2 0x1440) s)).queue 2).last = 3) ∧
    (let s := sLq [] ((((c0).nums [(5, 2), (7, lid2.setWidth 128), (8, 9)]).cap 2 (lc 0x40)))
     s.me.ready (4 :: 5 :: span 2 2) = true ∧ s.me.numbers [5] = true ∧ s.me.holdsCap 2 = true ∧ s.reaches (s.capAt 2) (s.capAt 2).cur 64 [pRD] [0, 1, 2] 64 = true ∧
     s.free 0x40 64 false = true ∧ (nx (exec (.lqput { d := 4, a := 5, b := 2 }) s)).net.length = 1 ∧
     (nx (exec (.cancel { d := 4, b := 7 }) s)).net.map (·.body) = [.cancel lid2 7] ∧ (nx (exec (.cancel { d := 4, b := 7 }) s)).me.phase = .sent 0 ∧
     (nx (exec (.cancel { d := 4, b := 7 }) (sLq [] { s.me with phase := .done { data := 2 } }))).lo 4 = 2 ∧ (nx (exec (.lqput { d := 4, a := 5, b := 2 }) (sLq [] { s.me with phase := .done { data := 3 } }))).lo 4 = 3) ∧
    (let s := { sLq [] { c0 with phase := .sent 4 } with windows := [], net := [{ id := 4, g := 0, fire := 0, lid := 1, pid := 1, body := .entry 2 (leBytes 8 0x1300 ++ List.replicate 56 0) }] }
     (s.enqueue 2 (leBytes 8 0x1300 ++ List.replicate 56 0) (some (1, 7))).1 = 3 ∧
     (nx (exec (.lqputEntryArrival 4) s)).me.phase = .done { data := BitVec.ofNat 128 (3 * 2 ^ 64) } ∧
     (let u := { s with windows := [(0, win7)] }
      (nx (exec (.lqputEntryArrival 4) u)).me.phase = .done { data := lid2.setWidth 128 })) ∧
    (∀ e ∈ [({ la with st := .pending }, 0, LaunchState.done), ({ la with st := .placing, decided := 10000 }, 0, .done), ({ la with st := .running, clusters := [0] }, 1, .stopping),
        ({ la with st := .stopping }, 2, .stopping), ({ la with part := 8 }, 3, .pending)],
      let s := sLq [e.1] c0
      s.launch lid2 = some e.1 ∧ fld (s.queue 2).cfg 15 8 = 7 ∧ ((nx (exec (.qcan 2 lid2) s)).queue 2).cres = e.2.1 ∧
      (nx (exec (.qcan 2 lid2) s)).launches.map (·.st) = [e.2.2] ∧ (s.cancel lid2 7).1 = e.2.1) ∧
    (let m : Msg := { id := 4, g := 0, fire := 0, lid := 1, pid := 1, body := .cancel lid2 7 }
     let s := { sLq [la] { c0 with phase := .sent 4 } with net := [m] }
     s.plug.step = 6 ∧ s.decision ≤ s.cyc.toNat ∧ (s.ctxAt 0).fire = m.fire ∧ (s.ctxAt 0).phase = .sent 4) ∧
    ((nx (exec (.qcan 2 9) (sLq [] c0))).queue 2).cres = 2 ∧ ((nx (exec (.qch 2 0x100000003) (sLq [] c0))).queue 2).head = 3 ∧
    ((nx (exec (.controlPageWrite 2 0 0xFFFF0 true) (sLq [] c0))).queue 2).cfg = 0xFF00 ∧ ((nx (exec (.controlPageWrite 2 0 0xFFFF0 false) (sLq [] c0))).queue 2).cfg = 0x703 := by
  decide +kernel

def lp : Launch := { la with st := .placing, clusters := [2], acct := 10000 }
def lr : Launch := { la with st := .running, clusters := [2], acct := 10000 }

theorem witness_LaunchLife :
    (let lf := { la with dcb := 0x1380 }
     let s := sLq [{ la with lid := 5, tier := 1 }, lf] c0
     s.sorted.map (·.lid) = [lid2, 5] ∧ s.dcbOk lf.dcb = true ∧ s.placeable (s.readDcb lf) = some [0] ∧
     (nx (exec .dispatchDecision s)).launches.map (fun l => (l.st, l.clusters.length, l.acct)) = [(.pending, 0, 0), (.placing, 1, 10000)]) ∧
    (nx (exec .dispatchDecision (sLq [{ la with dcb := 0x1200 }] c0))).launches.map (fun l => (l.st, l.status)) = [(.done, 4)] ∧
    (let s := sLq [lr] c0
     s.shareDone lr 35 = true ∧ 35 ∈ lr.cids ∧ (nx (exec (.shareComplete lid2.toNat 35) s)).launches = [{ lr with shares := [35] }] ∧
     (let u := sLq [{ lr with shares := lr.cids }] c0
      (nx (exec (.completionRecord lid2.toNat) u)).launches = [] ∧ (nx (exec (.completionRecord lid2.toNat) u)).numAt 0x30000 24 = lid2.toNat + 55 * 2 ^ 64 + 10000 * 2 ^ 128)) ∧
    (let s := sLq [{ la with st := .done, status := 2 }] c0
     (nx (exec (.completionRecord lid2.toNat) s)).numAt 0x30018 1 = 2 ∧ ((nx (exec (.completionRecord lid2.toNat) s)).queue 2).tail = 1 ∧
     (nx (exec (.completionRecord lid2.toNat) { s with queues := [(2, { q2 with tail := 18, head := 2 })] })).launches = s.launches) := by decide +kernel

theorem witness_LaunchLife_placement :
    (let s := sLq [lp] c0
     let t := nx (exec (.launchPlacement lid2.toNat) s)
     s.placeLocked lp = false ∧ (s.place lp).isSome = true ∧ t.owed = s.owed ∧ t.launches.map (·.st) = [.running] ∧
     t.launches.map (·.cores) = [[(35, 0x1000, 0x2000, false)]] ∧ t.launches.map (·.ctl) = [[(5, 777)]] ∧
     t.numAt (spad 35 0x40) 4 = 0x04030201 ∧ (t.coreAt 35).lid = lid2 ∧ (t.coreAt 34).lid = 0 ∧ t.texts.map (·.lid) = [lid2]) := by decide +kernel

theorem witness_LaunchLife_refused :
    (let s := sLq [{ lp with dcb := 0x1200 }] c0
     s.placeLocked { lp with dcb := 0x1200 } = false ∧ s.place { lp with dcb := 0x1200 } = none ∧ (nx (exec (.launchPlacement lid2.toNat) s)).launches.map (fun l => (l.st, l.status)) = [(.done, 4)]) := by decide +kernel

/-- A line of this package's memory locked for a group. -/
def lockLine (phys : Nat) (s : State) : State :=
  { s with ports := [(1, { entries := [{ gid := 9, seq := 0, phys := phys, bytes := [1] }], prepared := [(9, 0, (0, 0, 0))] })] }

/-- What meets a locked line waits: a placement, a decision, a doorbell, an addition to a counter. -/
theorem test_lockedLines :
    (let s := lockLine 0x20000 (sLq [lp] c0)
     s.placeLocked lp = true ∧ (nx (exec (.launchPlacement lid2.toNat) s)).launches.map (·.st) = [.placing]) ∧
    (let s := lockLine 0x1300 (sLq [la] c0)
     s.dcbLocked la.dcb = true ∧ (nx (exec .dispatchDecision s)).launches.map (·.st) = [.pending] ∧ s.entryLocked (s.bytesAt 0x1400 64) = true ∧
     (nx (exec (.qdoor 2 0x1400) s)).launches.length = 1) ∧
    (let s := lockLine 0x1340 (sLq [] c0)
     (s.bump 0x1300 64 3).owed = [(0x1340, 3)] ∧ (s.bump 0x1300 64 3).mem = s.mem ∧ ({ s with ports := [], owed := [(0x1340, 3)] } : State).payOwed.numAt 0x1340 8 = s.numAt 0x1340 8 + 3 ∧
     (s.bump 0x1300 56 3).owed = []) := by decide +kernel

/-- Launches of queue 2 whose ring is full, or whose queue asks for an interrupt. -/
def sLq2 (ls : List Launch) (k : Queue) : State := { sLq ls c0 with queues := [(2, k)], decision := 10001 }

theorem witness_RecordRing :
    (nx (exec (.completionRecord lid2.toNat) (sLq2 [{ la with st := .done, status := 2 }] { q2 with cfg := 0x707 }))).msix = [2] ∧
    (let l := { lr with shares := lr.cids }
     let s := sLq2 [l] { q2 with tail := 18, head := 2 }
     l.cids.all (fun c => l.shares.contains c && s.shareDone l c) = true ∧
     (nx (exec (.completionRecord lid2.toNat) s)).launches.map (fun l => (l.st, l.ended, l.clusters)) = [(.done, 10000, [])]) ∧
    (nx (exec .dispatchDecision (sLq2 [la] q2))).launches = [la] := by decide +kernel

def sv : SavedCluster := { cl := 2, clu := { lid := lid2 }, cores := [(35, { lid := lid2 })], ctxs := [(141, { c0 with lid := lid2 })], bytes := [(spad 35 5, 6)], tagged := []
                           tagPoison := [], poison := [], msgs := [] }

theorem witness_LaunchStops :
    (let s := sLq [la] c0
     (nx (exec (.deadlineMiss lid2.toNat) s)).launches = [{ la with missed := true }] ∧ ((nx (exec (.deadlineMiss lid2.toNat) s)).queue 2).miss = 1 ∧
     (nx (exec (.deadlineMiss lid2.toNat) s)).numAt (0x1200 + 64) 8 = 1 ∧ (nx (exec (.deadlineMiss lid2.toNat) (sLq [{ la with missed := true }] c0))).launches.map (·.missed) = [true]) ∧
    (let l1 := { lr with st := .saving, asked := 2000000 }
     let s := { sLq [l1] c0 with ctxs := [(141, { c0 with lid := lid2 })], mem := Memory.write memL (spad 35 5) 6, cyc := 7000000 }
     s.launchQuiet l1 = true ∧ s.late l1 = false ∧ 141 ∈ lr.ctxs ∧
     (let t := nx (exec (.contextSave lid2.toNat) s)
      t.launches.map (·.st) = [.saved] ∧ (t.ctxAt 141).busy = false ∧ t.launches.map (fun l => l.saved.map (fun c => (c.cl, c.bytes))) = [[(2, [(spad 35 5, 6)])]]) ∧
     (let u := { s with cyc := 9000000 }
      u.clusterQuiet l1 2 = true ∧ ((nx (exec (.saveTimeout lid2.toNat) u)).cluAt 2).resetReq = true ∧ (nx (exec (.saveTimeout lid2.toNat) u)).launches.map (fun l => (l.st, l.status)) = [(.stopping, 3)]) ∧
     (let u := { s with launches := [{ lr with st := .stopping, status := 2, asked := 2000000 }] }
      (nx (exec (.contextSave lid2.toNat) u)).launches.map (fun l => (l.st, l.status)) = [(.done, 2)] ∧ ((nx (exec (.contextSave lid2.toNat) u)).ctxAt 141).busy = false)) ∧
    (let s := sLq [{ lr with st := .saved, saved := [sv] }] c0
     s.cluFree 2 = true ∧ s.budgetOk { lr with st := .saved, saved := [sv] } 1 = true ∧ s.idle 7 = 4 ∧
     (let t := nx (exec (.launchResume lid2.toNat) s)
      t.launches.map (·.st) = [.running] ∧ t.ctxAt 141 = { c0 with lid := lid2 } ∧ Memory.read t.mem (spad 35 5) = 6)) ∧
    (let s := { sLq [lr] c0 with cyc := 10000 + 3 * 1200 + 7 }
     (nx (exec (.ctbExhausted 0x1200) s)).launches = [{ lr with acct := 10000 + 3600 }] ∧ (nx (exec (.ctbExhausted 0x1200) s)).numAt (0x1100 + 56) 8 = 8) ∧
    (let l3 := { lr with lid := 9, tier := 3, clusters := [0, 1, 2, 3] }
     let s := sLq [{ la with tier := 1 }, l3] c0
     s.waiting 7 1 = true ∧ s.reservation 7 1 = 1 ∧ s.tierHeld 7 1 = 0 ∧ s.idle 7 = 0 ∧ s.lacking 7 = 1 ∧ s.victim 7 1 false = some l3 ∧ (nx (exec (.preemptionRequest 7 1) s)).launches.map (·.st) = [.pending, .saving]) ∧
    (let bs := faultBytes 141 2 30 0x2000 lid2 9
     let s := { sLq [lr] c0 with net := [{ id := 4, g := 141, fire := 0, lid := lid2, pid := 1, body := .faultCopy bs }] }
     recNat bs 2 1 = 2 ∧ (nx (exec (.faultMessageReceipt 4) s)).launches = [{ lr with st := .stopping, status := 1, asked := 10000, cause := 30, kind := 2, cid := 35 + 2 ^ 11 }]) ∧
    (let s := { sLq [] c0 with dies := [(1, { ramp := 100 })], plug := { options := [(1, 4)] } }
     ((nx (exec (.rampWindow 1 160) s)).dieAt 1).ramp = 160 ∧ ((nx (exec (.rampWindow 1 1200) s)).dieAt 1).ramp = 175 ∧ ((nx (exec (.rampWindow 1 0) s)).dieAt 1).ramp = 25) := by
  decide +kernel

def fk : Core := { lid := lid2, lastFired := (List.range 8).map (·, 20), actors := [(2, { entry := 0x5000, prio := 4, en := true, fifos := [{ ring := 0x1000, cap := 2, size := 16, rate := 1 }] })]
                   rings := [(0x1000, { occ := 2, head := 1 })] }
def sFi (k : Core) : State := { sLq [{ lr with cores := [(35, 0x1000, 0x2000, false)], argw := [6] }] c0 with cores := [(35, k)], ctxs := [(140, { c0 with lid := lid2 })] }

theorem witness_Firings :
    (let s := sFi fk
     fk.candidate (Config.firstActor 35) = some (4, 2) ∧ (List.range 4).find? (fun i => !(s.ctxAt (4 * 35 + i)).busy) = some 1 ∧
     (let t := nx (exec (.firingStart 35) s)
      (t.ctxAt 141).pc = 0x5000 ∧ (t.ctxAt 141).level = .user ∧ (t.ctxAt 141).lid = lid2 ∧ (t.ctxAt 141).hb = 1200000 ∧ ((t.ctxAt 141).reg 24).bits = 6 ∧
      ((t.ctxAt 141).reg 8).tag = .caph ∧ ((t.ctxAt 141).reg 5).bits = 2 ∧ (t.coreAt 35).actors.map (fun e => (e.2.serial, e.2.ctx)) = [(1, some 1)])) ∧
    (let s := sFi { lid := lid2, lastFired := (List.range 8).map (·, 20), spri := 4, spawnFifo := [{ pc := 0x6000, lid := lid2, args := [(9, .data)] }] }
     (s.coreAt 35).candidate (Config.firstActor 35) = some (4, 32) ∧
     (let t := nx (exec (.firingStart 35) s)
      (t.ctxAt 141).pc = 0x6000 ∧ ((t.ctxAt 141).reg 24).bits = 9 ∧ (t.coreAt 35).spawnFifo = [])) ∧
    (let s := { st c0 with cores := [(0, { lid := 1, actors := [(3, { entry := 0x5000, en := true, ctx := some 0, fifos := [{ ring := 0x1000, cap := 2, size := 16, rate := 1, bind := 1 }] })]
                                           rings := [(0x1000, { occ := 2, head := 1 })] })] }
     s.me.copies = [] ∧ s.me.reds = [] ∧ s.me.queries = [] ∧ s.opsOf 0 = [] ∧ s.me.stream = none ∧ s.myTasks = [] ∧ s.me.rstack = [] ∧ s.me.sp.toNat = s.me.rsbBase ∧
     s.myCore.actors.find? (fun e => e.2.ctx == some (s.cur % 4)) ≠ none ∧
     (let t := nx (exec .fin s)
      t.me.busy = false ∧ t.me.fire = 1 ∧ (t.coreAt 0).rings = (s.myCore.moveTokens (s.myCore.actors.headD default).2).rings ∧ (t.coreAt 0).actors.map (fun e => e.2.ctx) = [none]) ∧
     (nx (exec (.ret) s)).me.busy = false) ∧
    (let s := { st { c0 with level := .system, tsav := 0x20, tcause := 0x1E } with cores := [(0, { lid := 1, actors := [(3, { en := true, ctx := some 0 })] })] }
     bitAt s.me.tsav 5 = true ∧ (nx (exec .fin s)).me.busy = false ∧ ((nx (exec .fin s)).coreAt 0).actors.map (fun e => (e.2.en, e.2.ctx)) = [(false, none)] ∧
     (nx (exec .fin s)).net.length = 2) := by decide +kernel

/-! ## Plug -/

/-- Setup data with three images: a root DCB at 0x1000, package 5, and one window. -/
def fl (i j k : Image) : FlashImage :=
  { plug := i, feather := j, loader := k, pkg := 5, root := 0x1000, rootDcb := leBytes 8 1020 ++ List.replicate 120 0, windows := [(0, BitVec.ofNat 128 (1 + 4 * 2 ^ 42 + 7 * 2 ^ 68))] }

/-- Which images are accepted rests on opaque functions (log 30), so acceptance is assumed; the rest of what boot needs holds. -/
theorem witness_Boot (i j k : Image) (s : State) (hi : i.accepted 1 s.plug.floor = true) (hj : j.accepted 2 (max s.plug.floor i.svn) = true)
    (hk : k.accepted 3 (max s.plug.floor i.svn) = true) : (fl i j k).trained = true ∧ rootOk (fl i j k) = true ∧ (fl i j k).windows.all windowShape = true ∧
    (nx (exec (.packageReset (fl i j k)) s)).plug.step = 6 ∧ (nx (exec (.packageReset (fl i j k)) s)).plug.feather = true ∧
    (nx (exec (.packageReset (fl i j k)) s)).plug.floor = max s.plug.floor i.svn ∧ (nx (exec (.packageReset { fl i j k with trained := false }) s)).plug.step = 4 := by
  have hr : rootOk (fl i j k) = true := by show rootOk (fl {} {} {}) = true; decide +kernel
  have hw : (fl i j k).windows.all windowShape = true := by show (fl {} {} {}).windows.all windowShape = true; decide +kernel
  refine ⟨rfl, hr, hw, ?_, ?_, ?_, ?_⟩ <;>
    simp [exec, execPackageReset, nx, State.boot, bootFails, State.resetPackage, fl, hi, hj, hk, State.bootRecords, State.bootSetup, State.bootStop, State.tell_, State.store] <;>
    simp_all [fl]

theorem witness_BootAndPartitions :
    (let t := nx (exec (.packageReset (fl {} {} {})) (sLq [la] c0))
     t.plug.step = 1 ∧ t.plug.told = [.boot 1 1] ∧ t.launches = [] ∧ t.ctxs = []) ∧
    (nx (exec .plugWatchdogExpiry (sLq [la] c0))).plug = { told := [.watchdog] } ∧
    (nx (exec (.attestationRequest []) (sLq [] c0))).plug.reports.length = 1 ∧
    (let s := sLq [] c0
     (let t := nx (exec (.partitionRequest true (.create 8 0x1500 [4, 5, 6, 7] [] 2 0xA000 0)) s)
      (s.partition (.create 8 0x1500 [4, 5, 6, 7] [] 2 0xA000 0)).isSome = true ∧ t.plug.answers = [true] ∧ t.plug.parts.find 8 = some { dcb := 0x1500, clusters := [4, 5, 6, 7] } ∧
      t.partOf.find 2 = some 8 ∧ t.dcbKind 0x1500 = 1 ∧ t.dcbPart 0x1500 = 8 ∧ t.dcbParent 0x1500 = 0x1000) ∧
     s.partition (.create 8 0x1500 [3, 4, 5, 6] [] 2 0xA000 0) = none ∧ (nx (exec (.partitionRequest true (.create 8 0x1500 [3, 4, 5, 6] [] 2 0xA000 0)) s)).plug.answers = [false] ∧
     (nx (exec (.partitionRequest false (.resize 7 [0, 1, 2, 3, 9])) s)).nclup 7 = 5 ∧
     (s.plug.parts.find 7).isSome = true ∧ (nx (exec (.partitionRequest false (.remove 7)) s)).plug.parts = []) ∧
    (let s := { st c0 with windows := [(0, BitVec.ofNat 128 (1 + 4 * 2 ^ 42 + 7 * 2 ^ 68 + 2 ^ 76))] }
     s.firewallAdmits 0 0x100 4 7 false = true ∧ s.firewallAdmits 0 0x100 4 7 true = false ∧ s.firewallAdmits 0 0x3FFFE 4 7 false = false ∧
     (nx (exec (.firewallRefusal 0 0x100 4 7 true) s)).plug.latched = [(0, 0x100, 1)] ∧
     (nx (exec (.firewallRefusal 0 0x100 4 7 true) { s with plug := { latched := [(0, 0x100, 4)] } })).plug.latched = [(0, 0x100, 5)]) := by decide +kernel

theorem witness_WatchdogsAndSpares :
    (nx (exec .featherWatchdogExpiry { sLq [] c0 with cyc := 120000001 })).plug.feather = false ∧ (nx (exec .featherWatchdogExpiry (sLq [] c0))).plug.feather = true ∧ (nx (exec .featherRestartComplete { sLq [] c0 with plug := { step := 6 } })).plug.feather = true ∧
    (let s := { st c0 with cyc := 96011, clusters := [(0, { beat := 10 }), (1, { beat := 11 }), (2, { spareUsed := true })] }
     ((nx (exec (.livenessBeat 0) s)).cluAt 0).beat = 10 ∧ ((nx (exec (.livenessBeat 1) s)).cluAt 1).beat = 96011 ∧ ((nx (exec (.clusterFailed 0 false) s)).cluAt 0).resetReq = true ∧
     ((nx (exec (.clusterFailed 1 false) s)).cluAt 1).failed = false ∧ ((nx (exec (.clusterFailed 1 true) s)).cluAt 1).failed = true ∧
     ((nx (exec (.coreSpare 17) s)).cluAt 1).spareUsed = true ∧ ((nx (exec (.clusterRetire 2) s)).cluAt 2).retired = true ∧
     (nx (exec (.clusterRetire 2) s)).plug.health = 0x101 ∧ ((nx (exec (.clusterRetire 1) s)).cluAt 1).retired = false) ∧
    (let s := { st c0 with plug := { lanes := [(1, 1), (32, 1), (33, 2)], ways := [(1, 4)], health := 0xFF000000 } }
     (nx (exec (.linkReplay 32 true) s)).plug.health = 0xFF000000 ∧ (nx (exec (.linkReplay 33 true) s)).plug.health = 0xFF000001 ∧
     (nx (exec (.linkReplay 0 true) s)).plug.health = 0xFF000001 ∧ (nx (exec (.linkReplay 1 true) s)).plug.health = 0xFF010001 ∧
     (nx (exec (.sliceCacheWayFail 0) s)).plug.ways.get 0 0 = 1 ∧
     (nx (exec (.sliceCacheWayFail 1) s)).plug.health = 0xFF000001) := by decide +kernel

theorem witness_DramPageFail : let s := { st c0 with plug := { rows := [(Config.dramBank 9, 64)], health := 0xFE000000, failedPages := [8] } }
    64 ≤ s.plug.rows.get 0 (Config.dramBank 9) ∧ (nx (exec (.dramPageFail 9) s)).plug.failedPages = [8, 9] ∧ (nx (exec (.dramPageFail 9) s)).plug.health = 0x02000001 := by
  have h : Tab.get 0 [(Config.dramBank 9, 64)] (Config.dramBank 9) = 64 := by simp [Tab.get]
  simp [exec, execDramPageFail, nx, h, State.tell_, insertNat]
  decide

/-! ## Words of the spec, and what the decoder refuses -/

theorem witness_ReservedEncodings :
    (∀ pg ∈ List.range 8, ∀ op ∈ List.range 64, reservedOp pg op = true → ∀ r ∈ [0, 1, 1023],
      decode ((if pg = 0 then [] else [pageWord pg 5]) ++ [baseWord op r]) = .trap .ill (offend (baseWord op r) (if pg = 0 then 1 else 2)) (if pg = 0 then 1 else 2)) ∧
    reservedOp 3 0x0E = true ∧ reservedOp 0 0x39 = false ∧ reservedOp 7 0x0F = false ∧
    (∀ r ∈ [7, 8, 1023], decode [baseWord 0 r] = .trap .ill (offend (baseWord 0 r) 1) 1) ∧ decode [baseWord 0 6] = .ok .wfe 1 ∧
    decode [pageWord 0 3, 0] = .trap .pfx (offend (pageWord 0 3) 1) 1 := by decide +kernel

/-- Each list of words decodes, to its end, to the instruction beside it. -/
def reads (l : List (List Half × Instr)) : Bool := l.all (fun e => decode e.1 == .ok e.2 e.1.length)

/-- Scalar, capability and control words (R24, R39, R44, R66, R77, R96 to R99, R109). -/
theorem test_scalar_words : reads [
    ([0x0000], .nop), ([0x0006], .wfe), ([0x1523], .bz { a := 9, imm := 3 }), ([0xF680, 0x5509], .sub { d := 40, a := 8, b := 9 }),
    ([0x44A3], .shri { d := 5, a := 5, imm := 3 }), ([0xF430, 0xB085], .sel { d := 3, a := 4, b := 5 }), ([0xF091, 0x2CB4], .li { d := 5, imm := 0x1234 }),
    ([0xE407], .trap { imm := 7 }), ([0xD8A8], .tagof { d := 5, b := 8 })] = true := by decide +kernel

/-- The vector words of the examples after R43 and R123. -/
theorem test_vector_words : reads [
    ([0xF811, 0xF680, 0xFD00, 0x010C], .vadd false false .f32 { d := 40, a := 8, b := 12, msk := 2 }),
    ([0xF811, 0xF680, 0xFD40, 0x010C], .vadd false false .f32 { d := 40, a := 8, b := 12, msk := 2, epa := true }),
    ([0xF811, 0xF680, 0x0D0C], .vfma false false .f32 { d := 40, a := 8, b := 12 }), ([0xF891, 0xF430, 0x350C], .vcmp .lt false .f32 { a := 8, b := 12, c := 3 }),
    ([0xF811, 0x3E88], .vred .add .f32 { d := 20, b := 8 }), ([0xF811, 0xF040, 0x6902], .vld .f32 { d := 8, b := 2, imm := 64 }),
    ([0xF801, 0x8C62], .mnot { d := 3, b := 2 }), ([0xF801, 0x9123], .mpopc { d := 9, b := 3 }), ([0xF881, 0x3FD8], .vred .max .i32 { d := 30, b := 24 }),
    ([0xF801, 0xF580, 0x4FBF], .vins .i32 { d := 24, a := 29, b := 31 }), ([0xF801, 0xF640, 0x441E], .vbcast .i32 { d := 36, b := 30 }),
    ([0xF801, 0xF550, 0x4A1E], .vext .i32 { d := 21, a := 16, b := 30 })] = true := by decide +kernel

/-- Matrix engine, task and verdict words (R205, R209, R228, R247). -/
theorem test_engine_words : reads [
    ([0xF812, 0x0000], .mzero false true), ([0xF80A, 0x0509], .mma true { a := 8, b := 9 }), ([0xF862, 0xF490, 0x0988], .mmas false .s48 true { a := 12, b := 8, c := 9 }),
    ([0xF802, 0x0C0A], .mdrn false false { b := 10 }), ([0xF812, 0x0E85], .mdrnR false false { d := 20, b := 5 }), ([0xF81A, 0x100A], .mlda true true { b := 10 }),
    ([0xF862, 0xF4C0, 0x150A], .cmpr .s48 true { d := 12, a := 8, b := 10 }), ([0xF802, 0x1D4B], .fork { a := 10, b := 11 }), ([0xF802, 0x2000], .rdv),
    ([0xF802, 0x38A0], .mstat { d := 5 }), ([0xF80A, 0x3800], .mstatAbort), ([0xF802, 0x0695], .mma false { a := 20, b := 21 }),
    ([0xF802, 0x2E97], .ebump { d := 20, a := 20, b := 23 }), ([0xF802, 0xF3FA, 0x2AC0], .eloop { a := 22, imm := 0xFFFFFFFFFFFFFFFA }), ([0xF802, 0x2400], .endp),
    ([0xF802, 0x30A2], .tqput { d := 5, b := 2 }), ([0xF80A, 0x34A0], .tqwaitAll { d := 5 }), ([0xF803, 0xF4C0, 0x4102], .vdopenGeq { a := 8, b := 2, c := 12 }),
    ([0xF813, 0xF4C0, 0x4100], .vdopenPos { a := 8, c := 12 }), ([0xF803, 0x4A80], .vdlow { d := 20 }), ([0xF80B, 0x5474], .vdchkAbn { a := 3, b := 20 }),
    ([0xF803, 0xF450, 0x58C2], .vtraise { d := 5, a := 6, b := 2 })] = true := by decide +kernel

/-- Varifloat words (R150, R152). -/
theorem test_varifloat_words : reads [
    ([0xF80B, 0xF00F, 0x0120], .psetW { d := 9, imm := 15 }), ([0xF803, 0xF4A0, 0x0886], .fvsub { d := 10, a := 4, b := 6 }),
    ([0xF803, 0xF481, 0x050C], .fvadd { d := 8, a := 8, b := 12, l := 1 }), ([0xF803, 0x2CA8], .fvsigGet { d := 5, b := 8 }),
    ([0xF803, 0x2502], .fvld { d := 8, b := 2 }), ([0xF80B, 0xF480, 0xF009, 0x2922], .fvstIx { a := 9, b := 2, c := 8, imm := 9 })] = true := by decide +kernel

/-- Words of memory accesses, atomics, fences, copies and streams (R173, R266 to R274, R279, R283). -/
theorem test_memory_words : reads [
    ([0xF814, 0xF008, 0x00A2], .ld false .w { d := 5, b := 2, imm := 8 }), ([0xF854, 0xF008, 0x00A2], .ld true .w { d := 5, b := 2, imm := 8 }),
    ([0xF824, 0xF680, 0x0002], .ld false .q { d := 40, b := 2 }), ([0xF81C, 0xF010, 0x04C2], .st .d { a := 6, b := 2, imm := 16 }),
    ([0xF814, 0xFC01, 0x04E8], .st .w { a := 7, b := 8, of := true }), ([0xF804, 0x0942], .ldc { d := 10, b := 2 }), ([0xF804, 0xF020, 0x0D42], .stc { a := 10, b := 2, imm := 32 }),
    ([0xF884, 0xF450, 0xFC08, 0x10C2], .amo false true .add { d := 5, a := 6, b := 2, scp := .dev }),
    ([0xF84C, 0xF450, 0xFC0C, 0x10C2], .amo false false .fadd { d := 5, a := 6, b := 2, scp := .sys }),
    ([0xF884, 0xF450, 0xFC08, 0x14C2], .cas true { d := 5, a := 6, b := 2, scp := .dev }), ([0xF85C, 0xFC08, 0x2064], .fnc .d .ar { a := 3, b := 4, scp := .dev }),
    ([0xF834, 0xFC04, 0x2064], .fnc .c .rel { a := 3, b := 4, scp := .clu }), ([0xF80C, 0xFC08, 0x2400], .fnca .acq { scp := .dev }),
    ([0xF804, 0xF490, 0x294C], .cpy { a := 10, b := 12, c := 9 }), ([0xF864, 0xF490, 0x314C], .cpyx .s48 true { a := 10, b := 12, c := 9 }),
    ([0xF804, 0x3469], .cwait { d := 3, b := 9 }), ([0xF806, 0x1C64], .sopen { d := 3, b := 4 }), ([0xF806, 0xF402, 0x2008], .ssend { b := 8, l := 2 }),
    ([0xF806, 0x2460], .sclose { d := 3 })] = true := by decide +kernel

/-- Words of cores, clusters, spatial fields, peers and the package (R55, R72, R103, R234 to R253, R296, R312, R353, R378, R393, R413). -/
theorem test_unit_words : reads [
    ([0xF807, 0xF490, 0x0158], .spawn { d := 9, a := 10, b := 24 }), ([0xF817, 0x1464], .actctlPri { d := 3, a := 3, b := 4 }), ([0xF807, 0xF402, 0x1903], .nbw { a := 8, b := 3, l := 2 }),
    ([0xF807, 0x0630], .ten { d := 17, b := 16 }), ([0xF804, 0xF430, 0x1A09], .mapp { a := 16, b := 9, c := 3 }),
    ([0xF807, 0x2064], .phreg { d := 3, a := 3, b := 4 }), ([0xF807, 0x2464], .phdrop { d := 3, b := 4 }),
    ([0xF807, 0xF480, 0x3069], .phadv { d := 8, a := 3, b := 9 }), ([0xF80F, 0x352A], .waittArm { d := 9, b := 10 }),
    ([0xF805, 0xF450, 0x0143], .sfldBind { d := 5, a := 10, b := 3 }), ([0xF80D, 0x0D0C], .sputNr { a := 8, b := 12 }), ([0xF805, 0xF501, 0xF018, 0x100C], .sld { d := 16, b := 12, l := 1, imm := 24 }),
    ([0xF805, 0xF401, 0xF018, 0x160C], .sst { a := 16, b := 12, l := 1, imm := 24 }), ([0xF805, 0xF490, 0x1E0C], .sqbox { a := 16, b := 12, c := 9 }), ([0xF805, 0x2CA0], .shwait { d := 5 }),
    ([0xF806, 0x0000], .fncp), ([0xF80E, 0x04A0], .pcntIss { d := 5 }), ([0xF81E, 0xF490, 0xF008, 0x0CCA], .stg .d { a := 6, b := 10, c := 9, imm := 8 }),
    ([0xF806, 0x1069], .gcommit { d := 3, b := 9 }), ([0xF806, 0xF490, 0x294C], .fred { a := 10, b := 12, c := 9 }), ([0xF806, 0x2C69], .fredw { d := 3, b := 9 }),
    ([0xF807, 0xF450, 0x38C2], .lqput { d := 5, a := 6, b := 2 }), ([0xF807, 0x3CA6], .cancel { d := 5, b := 6 })] = true := by decide +kernel

/-- Each check of WellFormed refuses a term: an unused register, a mask register past m7, a window out of line, a length class where none is, a PX.MOD
field without use, an immediate too wide, five prefixes, and OF on an atomic of CORE scope. -/
theorem smoke_WellFormed :
    ([.clz { d := 1, b := 2 }, .mand { d := 1, a := 2, b := 3 }, .vadd false false .f32 { d := 4, a := 8, b := 12, msk := 7 }, .mov { d := 4, b := 8, l := 2 },
      .amo false true .add { d := 1, a := 2, b := 4, scp := .sys, of := true }, .bz { a := 63, imm := 0x7FFFF }, .qdoor 300 0] : List Instr).all Instr.wellFormed = true ∧
    ([.clz { d := 1, a := 3, b := 2 }, .mand { d := 1, a := 2, b := 8 }, .vadd false false .f32 { d := 6, a := 8, b := 12 }, .mov { d := 4, b := 8, l := 3 }, .mov { d := 6, b := 8, l := 2 },
      .clz { d := 1, b := 2, l := 1 }, .fvadd { d := 8, a := 8, b := 12, l := 2 }, .add { d := 1, a := 2, b := 3, msk := 1 }, .li { d := 1, imm := 0x400000000000 },
      .amo false true .add { d := 33, a := 2, b := 4, scp := .dev, of := true }, .fncInv { a := 1, b := 2 }, .clz { d := 1, b := 2, imm := 1 },
      .vst .f32 { a := 8, b := 2, imm := 0x7FFFFFFF, msk := 1, epa := true }] : List Instr).all (fun i => !i.wellFormed) = true := by decide +kernel

/-- A well-formed instruction of each shape decodes from its words, whatever follows. -/
theorem witness_EncodeDecode : ([.nop, .b { imm := 0xFFFFFFFFFFFFFF00 }, .ldd { d := 63, b := 62, imm := 8 }, .vfma true false .f32 { d := 32, a := 12, b := 60, msk := 3, epa := true, ru := true },
      .stg .d { a := 6, b := 10, c := 9, imm := 8 }, .amo true false .swap { a := 40, b := 2, scp := .sys, of := true }, .mdrnR true true { d := 60, b := 31 }, .sput { d := 5, a := 8, b := 12 }] : List Instr).all (fun i =>
    !i.isEvent && i.wellFormed && (match encode i with | some ws => decide (ws.length ≤ 5) && decode (ws ++ [0xF800, 0xFFFF]) == .ok i ws.length | none => false)) = true := by decide +kernel

/-! ## The step, reset and the flags -/

/-- The state that fetches one instruction of the table and steps. -/
def run1 (nbits w : Nat) : State := nx (step (State.reset.withFetchWord nbits w))

/-- The words of SUB g8, g8, g9 and of MSTAT g5 run as the first instruction after reset. -/
theorem test_first_step : decodeTableWord 16 0x5509 = some (.sub { d := 8, a := 8, b := 9 }) ∧ decodeTableWord 32 0xF80238A0 = some (.mstat { d := 5 }) ∧ decodeTableWord 32 0xF8020695 = some (.mma false { a := 20, b := 21 }) ∧ decodeTableWord 16 0xE800 = none ∧
    (run1 16 0x5509).me.pc = 0x10002 ∧ (run1 32 0xF80238A0).me.pc = 0x10004 := by decide +kernel

/-- A context whose turn is next, with two halfwords of one instruction at its pc in a page that the station caches: RDV and a branch. -/
theorem witness_StepRunsDecoded :
    (let s := State.reset.placeCode [0x02, 0xF8, 0x00, 0x20]
     (match s.nextTurn with | (.ctx g, u) => g == 0 && ({ u with cur := 0 } : State).me.busy && !({ u with cur := 0 } : State).held_ ({ u with cur := 0 } : State).me | _ => false) = true ∧
     s.agenda ≠ [] ∧ s.texts = [] ∧ ({ s with cur := 0 } : State).restarts = false ∧ s.me.hb ≠ 0 ∧ s.me.stepping ≠ .due ∧ s.me.waits = false ∧
     s.poisonedAt 0x10000 2 = none ∧ s.poisonedAt 0x10002 2 = none ∧
     (translate s 0 1 0x10000 [lEX]).1.map (·.2) = some (.home 0x10000) ∧ (translate s 0 1 0x10002 [lEX]).1.map (·.2) = some (.home 0x10002) ∧
     decide ((translate s 0 1 0x10002 [lEX]).2 = s) = true ∧ decodeBytes (Memory.readL s.mem 0x10000 4) = .ok .rdv 2 ∧ (nx (step s)).me.pc = 0x10004) ∧
    (nx (step { st c0 with agenda := [.tick 5] })).cyc = 5 ∧ (nx (step { st c0 with agenda := [.tick 5] })).me.hb = 1199995 ∧
    Instr.isEvent .featherRestartComplete = true ∧ (nx (step { st c0 with plug := { step := 6 }, agenda := [.event (.qch 2 7)] })).agenda = [] ∧
    ((nx (step { st c0 with plug := { step := 6 }, agenda := [.event (.qch 2 7)] })).queue 2).head = 7 ∧ (nx (step { st c0 with agenda := [.event .nop] })).me.pc = 0x10000 := by decide +kernel

theorem witness_ResetInvariant : State.reset.Inv ∧ (State.reset.placeCode [1, 0, 2]).Inv ∧ Memory.read (State.reset.placeCode [1, 0, 2]).mem 0x10002 = 2 ∧ Memory.read (State.reset.placeCode [1, 0, 2]).mem 0x10001 = 0 := by
  refine ⟨rfl, rfl, ?_⟩; decide +kernel

/-- A state that meets the invariant, and a step from it: a store. -/
theorem witness_MemoryInvariant : let s := { ({ st ((c0.nums [(1, 9)]).cap 2 (lc 0x40)) with agenda := [] } : State).placeCode [0x22, 0xD0] with mem := Memory.writeL [] 0x10000 [0x22, 0xD0] }
    s.Inv ∧ (nx (step s)).Inv := by
  refine ⟨rfl, ?_⟩; show Memory.wf _ = true; decide +kernel

theorem witness_FlagSets : (3 : Flags) ≠ 0 ∧ ((st c0).setFlags 3).me.fcs = 0x30 ∧ ((st c0).setFlags 3).cluAt 0 = { flagsIn := [{ core := 0, flags := 3, born := 0 }] } ∧
    (let s : State := { st c0 with clusters := [(0, { cfu := 0xFF0030 })] }
     s.isSupervisor 0 = true ∧ (s.cluAt 0).came.1 ≠ ({ s with cyc := 9 } : State).cyc.toNat ∧ ((({ s with cyc := 9 } : State).writeSreg 0x10 0x10).cluAt 0).cfu = 0xFF0020 ∧
     ((({ s with clusters := [(0, { cfu := 0xFF0030, came := (9, 0x10) })], cyc := 9 } : State).writeSreg 0x10 0x30).cluAt 0).cfu = 0xFF0010 ∧
     ((({ s with clusters := [(0, { flagsIn := [{ core := 2, flags := 2, born := 5 }] })], cyc := 9 } : State).tick 29).cluAt 0).cfu = 0x40020 ∧
     ((({ s with clusters := [(0, { flagsIn := [{ core := 2, flags := 2, born := 5 }] })], cyc := 9 } : State).tick 28).cluAt 0).cfu = 0 ∧
     ({ s with cur := 4 } : State).isSupervisor 1 = false ∧ (({ s with cur := 4 } : State).writeSreg 0x10 0x10).clusters = s.clusters) := by decide +kernel

/-! ## The further clauses of the statements about units -/

/-- FLUSH of a ring into which another actor's firing is producing: it goes on at the block of that firing. -/
theorem witness_ActorControl_flush :
    (let out : Fifo := { ring := 0x1000, cap := 6, size := 16, rate := 3, bind := 1 }
     let in_ : Fifo := { ring := 0x1000, cap := 6, size := 16, rate := 2, bind := 1 }
     let s : State := { st ((c0).nums [(1, 2), (5, 6)]) with turns := 77, cores := [(0, { lid := 1, rings := [(0x1000, { occ := 3 })], actors :=
       [(1, { fifos := [{}, {}, {}, {}, out], en := true, ctx := some 1 }), (2, { fifos := [in_] })] })] }
     s.myCore.producing 0x1000 = true ∧ (nx (exec (.actctlFlush { d := 4, a := 1, b := 5 }) s)).myCore.rings = [(0x1000, { head := 3, gen := 77 })]) := by decide +kernel

/-- SPAWN to an odd address; NBW from a core that is fenced stays. -/
theorem witness_Spawn_odd :
    sS.streamBusy 0 = false ∧ sS.queueOut = false ∧
    (nx (exec (.spawn { d := 4, a := 1, b := 8 }) (st (sS.me.nums [(1, BitVec.ofNat 128 (0x2001 + 5 * 2 ^ 64 + 2 ^ 75))])))).net.map (·.body) = [.spawn 5 0x2000 1 [(77, .data)]] ∧
    (let s : State := { sS with cores := [(0, { lid := 1, fenced := true }), (1, { lid := 1 })] }
     (nx (exec (.nbw { a := 8, b := 2 }) s)).me.pc = 0x10000 ∧ (nx (exec (.nbw { a := 8, b := 2 }) s)).coreAt 1 = { lid := 1 }) := by decide +kernel

/-- The requests that PHREG, PHSIG and PHDROP send; PHWAIT of a WAIT member gives the phase's last value. -/
theorem witness_PhaserInstructions_ask :
    (let s := sP mem3 .idle
     (s.loadsOut = false ∧ s.gate = false ∧ s.queueOut = false ∧ s.cluStoresOut = false) ∧
     (∀ e ∈ [(Instr.phreg { d := 4, a := 1, b := 2 }, Body.phaser 0 1 7), (.phsig { d := 4, a := 1, b := 2 }, .phaser 2 1 7), (.phdrop { d := 4, b := 1 }, .phaser 1 1 0)],
       (nx (exec e.1 s)).net.map (·.body) = [e.2] ∧ (nx (exec e.1 s)).me.phase = .sent 0 ∧ (nx (exec e.1 s)).me.pc = 0x10000 ∧ (nx (exec e.1 s)).me.wait = none)) ∧
    (nx (exec (.phwait { d := 4, b := 1 }) (sP { mem3 with mode := 2, completed := true } .idle))).lo 4 = 9 := by decide +kernel

/-- FIN of a spawned firing: no actor holds the context, and no token moves. -/
theorem witness_Firings_spawned :
    (let s : State := { st c0 with cores := [(0, { lid := 1, actors := [(3, { ctx := some 1 })], rings := [(0x1000, { occ := 2 })] })] }
     s.groups = [] ∧ s.myCore.actors.find? (fun e => e.2.ctx == some (s.cur % 4)) = none ∧ (nx (exec .fin s)).me.busy = false ∧
     (nx (exec .fin s)).myCore = s.myCore) ∧
    (sFi fk).blocks = [] ∧
    ((nx (exec (.firingStart 35) { sFi fk with blocks := [lid2] })).ctxAt 141).busy = false := by decide +kernel

/-- The bytes of the message of a missed heartbeat, its targets, and the copy. -/
theorem witness_HeartbeatMiss_text :
    (let s : State := { st { c0 with hb := 0 } with cyc := 0x99 }
     let bs : List Byte := leBytes 2 0 ++ [1, 0] ++ leBytes 4 0 ++ leBytes 8 0x10000 ++ leBytes 8 1 ++ leBytes 8 0x99
     neighbour 0 .e = some 1 ∧
     (nx (exec (.heartbeatMiss 0) s)).net.all (fun m => match m.body with | .packet p => p.tag == 15 && p.bytes == bs | .faultCopy b => b == bs | _ => false) = true ∧
     (nx (exec (.heartbeatMiss 0) s)).net.any (fun m => match m.body with | .packet p => p.to_ == 1 | _ => false) = true) := by decide +kernel

/-- A placement that knows its pages; a restart of Feather where it runs changes nothing; the fields of a WaitTable read in order. -/
theorem witness_Launch_gates :
    (sLq [lp] c0).peersKnown lp = true ∧ goes (exec .featherRestartComplete (sLq [] c0)) (sLq [] c0) ∧
    (let s : State := { sDev c0 (accM .store .new []) with net := [{ (accM .store .new []) with id := 2, g := 1 }, accM .store .new []] }
     (nx (exec (.translation 4) s)).net.map (·.stage) = [.new, .new]) ∧
    (let s : State := sPe (pM .store none none)
     (s.coreAt 0).fenced = false ∧ s.cyc.toNat < (pM .store none none).sent + 800000 ∧ goes (exec (.peerReply 4 3) s) s) := by decide +kernel

/-! ## The clauses of the fourth sitting -/

/-- Reports: FNC and FNC.INV report as FNCA does, the cluster's record first, then the device's, then at SYS the fabric's. -/
theorem witness_FenceReports_forms :
    (∀ i ∈ [Instr.fnc .d .rel { a := 1, b := 4, scp := .dev }, .fncInv { a := 1, b := 4, scp := .dev }, .fnca .rel { scp := .sys }],
      let c : Ctx := { (c0).nums [(1, 0), (4, 0x20000)] with level := .system, tsav := 0x10, deviceRef := some ⟨.xlat, 0x66⟩ }
      let t := nx (exec i (st c))
      let u := nx (exec i (st { c with clusterRef := some ⟨.lock, 0x55⟩ }))
      (st c).me.ready [1, 4] = true ∧ t.me.deviceRef = none ∧ u.me.clusterRef = none ∧ u.me.deviceRef = some ⟨.xlat, 0x66⟩) ∧
    (let s := st { c0 with deviceRef := some ⟨.xlat, 0x66⟩ }
     (nx (exec (.fnca .ar { scp := .dev }) s)).me.tval = 0x66 ∧ (nx (exec (.fnca .ar { scp := .clu }) s)).me.pc = 0x10002) ∧
    (let s := st { c0 with fabricRef := some ⟨.fab, 0x77⟩ }
     (nx (exec (.fnca .ar { scp := .sys }) s)).me.tval = 0x77 ∧ (nx (exec (.fnca .ar { scp := .dev }) s)).me.pc = 0x10002) ∧
    (let s (sc : Scope) := nx (exec (.fncInv { a := 1, b := 4, scp := sc }) { st { (c0).nums [(1, 0), (4, 0x20000)] with level := .system } with
        dies := [(0, { tlb := [(1, { pid := 1, vpn := 1, leaf := 7 }), (2, { pid := 1, vpn := 1, leaf := 0x407 })] })] })
     ((s .dev).dieAt 0).tlb.map (·.1) = [2] ∧ ((s .sys).dieAt 0).tlb = []) := by decide +kernel

/-- The block of a ring that runs over its end: tokens 4 to 6 of a ring of 6 slots come to stand at its beginning. -/
theorem witness_Firings_turned :
    (let e : Fifo := { ring := 0x1000, cap := 6, size := 16, rate := 3 }
     let s : State := { sFi { fk with actors := [(2, { entry := 0x5000, prio := 4, en := true, fifos := [e] })], rings := [(0x1000, { occ := 3, head := 4 })] } with
       mem := [(spad 35 0x1000, 7), (spad 35 0x1040, 5), (spad 35 0x1050, 6)] }
     let t := nx (exec (.firingStart 35) s)
     (s.coreAt 35).oneBlock (0, e) = false ∧ (t.coreAt 35).oneBlock (0, e) = true ∧ (t.ctxAt 141).pc = 0x5000 ∧
     t.mem = [(spad 35 0x1000, 5), (spad 35 0x1010, 6), (spad 35 0x1020, 7)] ∧ (t.coreAt 35).rings.get {} 0x1000 = { occ := 3 } ∧
     (sFi fk |>.coreAt 35).oneBlock (0, { ring := 0x1000, cap := 2, size := 16, rate := 1 }) = true) := by decide +kernel

/-- A counter that runs out in a core that is fenced already sends its message, once. -/
theorem witness_HeartbeatMiss_again :
    (let s : State := { st { c0 with hb := 0 } with cores := [(0, { lid := 1, fenced := true })] }
     (nx (exec (.heartbeatMiss 0) s)).net ≠ [] ∧ (nx (exec (.heartbeatMiss 0) s)).me.missed = true ∧
     goes (exec (.heartbeatMiss 0) (st { c0 with hb := 0, missed := true })) (st { c0 with hb := 0, missed := true })) := by decide +kernel

/-- Relations of F32 lanes by hand: −0 = +0, 1.0 < 2.5, −3.0 < 1.0, a subnormal above 0, an infinity above the largest finite value, and NaNs. -/
theorem witness_LaneReductions_relation :
    (∀ e ∈ [(Rel.eq, 0x80000000#32, 0#32, true, (0 : Flags)), (.lt, 0x3F800000, 0x40200000, true, 0), (.lt, 0xC0400000, 0x3F800000, true, 0), (.gt, 1, 0, true, 0),
        (.gt, 0x7F800000, 0x7F7FFFFF, true, 0), (.le, 0xFF800000, 0xFF7FFFFF, true, 0), (.ge, 0x40200000, 0x40200000, true, 0), (.lt, 0x80000000, 0, false, 0),
        (.eq, 0x7FC00000, 0, false, 0), (.ne, 0x7FC00000, 0, true, 0), (.ne, 0x7FA00000, 0, true, 16), (.lt, 0x7FC00000, 0, false, 16), (.ge, 0, 0xFFC00000, false, 16)],
      relation e.1 .f32 e.2.1 e.2.2.1 = (e.2.2.2.1, e.2.2.2.2) ∧ relLane e.1 .f32 e.2.1 e.2.2.1 = (e.2.2.2.1, e.2.2.2.2)) ∧
    relation .lt .i32 0xFFFFFFFF 0 = (true, 0) ∧ relation .lt .u32 0xFFFFFFFF 0 = (false, 0) := by decide +kernel

/-- A count below the floor raises PXH after the result has been written (R149). -/
theorem witness_Varifloat_pxh :
    (let s : State := st { sF.me with prc := 0x1FF07, tvec := 0x40000 }
     (∀ i ∈ [Instr.fvsqrt { d := 12, b := 10 }, .fvfma false { d := 12, a := 8, b := 10 }, .fvrnd { d := 12, b := 10, imm := 4 }, .fvcvtFromi { d := 12, b := 3 },
        .fvcvtFromf { d := 12, b := 3 }],
       (nx (exec i s)).me.tcause = (Cause.pxh.code.setWidth 64) ∧ (nx (exec i s)).me.pc = 0x40280) ∧
     ((nx (exec (.fvsqrt { d := 12, b := 10 }) s)).vfAt 12 1).kind = 1 ∧ (nx (exec (.fvsqrt { d := 12, b := 10 }) s)).me.tval = 65) := by decide +kernel

/-- The steps of R37: a fifth prefix, order, repetition, an undefined xop, an unused base field, unused prefixes and fields, lengths, alignment. -/
theorem witness_ReservedEncodings_steps :
    decode [0xF801, 0xF400, 0xFC00, 0xF001, 0xF002, 0x0000] = .trap .pfx (offend 0xF002 5) 5 ∧ decode [0xFD00, 0xF680, 0x5064] = .trap .pfx (offend 0xF680 2) 2 ∧
    decode [0xF001, 0xF801, 0x0000] = .trap .pfx (offend 0xF801 2) 2 ∧ decode [0xFC00, 0xFC00, 0x5064] = .trap .pfx (offend 0xFC00 2) 2 ∧
    decode [pageWord 1 0x78, baseWord 0 0] = .trap .ill (offend (baseWord 0 0) 2) 2 ∧
    decode [pageWord 4 0, baseWord 9 1] = .trap .ill (offend (baseWord 9 1) 2) 2 ∧
    decode [0xF001, 0x5509] = .trap .pfx (offend 0xF001 1) 1 ∧ decode [0xFC80, 0x5509] = .trap .pfx (offend 0xFC80 1) 1 ∧
    decode [0xF410, 0x0000] = .trap .pfx (offend 0xF410 1) 1 ∧
    decode [pageWord 3 0, regWord 12 0 0 3, baseWord 1 0x10A] = .trap .win 0x3F 3 ∧ decode [pageWord 3 0, regWord 12 0 0 2, baseWord 1 0x10A] = .trap .win 0x3F 3 ∧
    decode [pageWord 1 0, regWord 12 0 1 0, baseWord 0 (9 * 32 + 2)] = .trap .win 9 3 ∧ decode [regWord 5 0 0 0, baseWord 0x31 (9 * 32 + 2)] = .trap .win 5 2 := by
  decide +kernel

theorem witness_legalRow : legalRow [0xF801, 0xF400, 0xFC00, 0xF001] ∧ ¬ legalRow [0xF801, 0xF400, 0xFC00, 0xF001, 0xF002] ∧ ¬ legalRow [0xFC00, 0xF400] ∧
    ¬ legalRow [0xF800] ∧ isPx 0xF002 ∧ ¬ isPx 0x1234 := by
  simp [legalRow, isPx]
  decide

theorem witness_unusedMod : unusedMod (formOf (.add {})) 0xFC80 := .inr (.inl ⟨by decide, by decide⟩)

/-- STG takes OF and ignores it (R398): page 6, op6 0x03. -/
theorem test_stg_of : (encode (.stg .d { a := 7, b := 2, c := 5, imm := 8, of := true })).map decode =
    (encode (.stg .d { a := 7, b := 2, c := 5, imm := 8, of := true })).map (fun l => .ok (.stg .d { a := 7, b := 2, c := 5, imm := 8, of := true }) l.length) := by decide +kernel

/-- SDEL at its owner: marked, its reservation, a tombstone with that stamp, and the mark in the directory. -/
theorem witness_SpatialRequestEvents_delete :
    (let s := sRq (rq .del .owner false) [(0x10000, live5)] [] hom
     stepOf (nx (exec (.spatialWriteAtOwner 4) s)) = some (.marked, 0) ∧ (nx (exec (.spatialWriteAtOwner 4) s)).myCore.pool = [(0x10000, hauling)]) ∧
    (let s := sRq (rq .del .marked false) [(0x10000, hauling)] [] hom
     s.lineLocked s.pkgNo 0x10000 8 = false ∧ stepOf (nx (exec (.sweepReservation 4) s)) = some (.stamped 0 0 6, 0)) ∧
    (let s := sRq (rq .del (.stamped 0 0 6) false) [(0x10000, hauling)] [] hom
     let t := nx (exec (.spatialWriteAtOwner 4) s)
     stepOf t = some (.settling 6 0, 0) ∧ t.myCore.pool = [(0x10000, { live5 with st := .tomb, died := 6 })] ∧ (t.homes.get {} (fieldKey 1 7)).dir = [(h5, 0, true)]) := by decide +kernel

/-- A returning SPUT within the claim; writes that meet a haul are held; what forwards and names. -/
theorem witness_SpatialRequestEvents_held :
    (let s := sRq (rq (.put posA) .owner false) [(0x10000, live5)] [] hom
     let t := nx (exec (.spatialWriteAtOwner 4) s)
     ansOf t = some (1, { data := 0 }) ∧ (home4 t).me.phase = .done { data := 0 } ∧ (home4 t).net = [] ∧ t.numAt (spad 0 0x10008) 4 = 0x3F000000) ∧
    (∀ op ∈ [SpOp.put posA, .del, .write 16 [9]],
      let p := { live5 with busy := some 3, queue := [2] }
      let t := nx (exec (.spatialWriteAtOwner 4) (sRq (rq op .owner false) [(0x10000, p)] [] hom))
      t.myCore.pool = [(0x10000, { p with queue := [2, 4] })] ∧ stepOf t = some (.owner, 0)) ∧
    (let s := sRq (rq .del .owner false) [(0x10000, { st := .tomb, handle := h5, died := 3, fwd := some 1 })] [] hom
     (nx (exec (.handleForward 4) s)).spAt 4 = some (spM { rq .del .owner false with owner := 1, hops := 1, via := some 0 }, { rq .del .owner false with owner := 1, hops := 1, via := some 0 })) ∧
    (let x := { rq .del .dir false with via := some 1 }
     ((nx (exec (.directoryResolve 4) (sRq x [] [] hom))).spAt 4).map (fun e => (e.2.via, e.2.named)) = some (none, true)) := by decide +kernel

/-- A result ring in a resident bank is not written, and the result counts all the same. -/
theorem witness_SpatialQueryEvents_resident :
    (let q := { q0 with edge := [(h5, [1, 2])] }
     let s := { sFd { c0 with queries := [(0, q)] } [] with cores := [(0, { kf 1 [] with bfmt := Vector.replicate 16 0x80000000 })] }
     ((s.coreAt 0).resAt 0x4000 2).isSome = true ∧ (nx (exec (.queryResultDelivery 0 0) s)).mem = [] ∧
     (nx (exec (.queryResultDelivery 0 0) s)).me.queries = [(0, { q0 with filled := [(0, h5)], next := 1, delivered := 1 })]) := by decide +kernel

/-- GOPEN: through a mirrored peer page with RAP it opens the lowest free index and waits; its refusals. -/
theorem witness_Gopen :
    (let leaf : Word := BitVec.ofNat 64 (1 + 2 + 4 + 16 + 32 + 64 + 2 ^ 10 + 5 * 2 ^ 12 + 6 * 2 ^ 25)
     let s (leaf : Word) (gs : Tab Group) (cur : Word) : State :=
       { sG grp0 .idle [] with groups := gs, ctxs := [(0, (c0).cap 2 (dc cur))], dies := [(0, { tlb := [(1, { pid := 1, vpn := 1, leaf := leaf })] })] }
     let go (s : State) : State := nx (exec (.gopen { d := 6, b := 2 }) s)
     let t := go (s leaf [(0, { grp0 with fire := 8, record := (5, 6, 0x9000) })] 0x10000)
     (translate (s leaf [] 0x10000) 0 1 0x10000 [lWR]).1.map (·.2) = some (.peer 5 (some 6) 0) ∧
     t.me.pc = 0x10000 ∧ t.me.phase = .sent 9 ∧ t.groups.get {} 1 = { gen := 1, st := .opened, lid := 1, record := (5, 6, 0), recVa := 0x10000 } ∧ t.net.length = 1 ∧
     (go (s leaf [] 0x10008)).me.tval = 0x10008 ∧ (go (s (leaf - 32) [] 0x10000)).me.tcause = Cause.perm.code.setWidth 64 ∧
     (go (s (leaf - 4) [] 0x10000)).me.tcause = Cause.xlat.code.setWidth 64 ∧
     (go (s leaf ((List.range 1024).map (fun i => (i, { grp0 with fire := 8 }))) 0x10000)).bits 6 = BitVec.ofNat 128 (2 ^ 64) ∧
     (go (s leaf ((List.range 8).map (fun i => (i, grp0))) 0x10000)).bits 6 = BitVec.ofNat 128 (2 ^ 65) ∧
     (go (s leaf [(0, { grp0 with record := (5, 6, 0) })] 0x10000)).bits 6 = BitVec.ofNat 128 (3 * 2 ^ 64)) := by decide +kernel

/-- A prepared destination: an OPEN record becomes ABORT; with both copies lost it waits again; another group's record counts as ABORT. -/
theorem witness_PreparedLock :
    (let s : State := { sGp {} { entries := [ent0], prepared := [(gid0, 600000, (5, 6, 0x5000))] } [] with mem := [(peerLoc 5 0x5000, 3), (peerLoc 5 0x5003, 1)] }
     let t := nx (exec (.preparedLockTimeout 161 gid0) s)
     s.numAt (peerLoc 5 0x5000) 8 = gid0 ∧ t.numAt (peerLoc 5 0x5008) 8 = 2 ∧ t.numAt (peerLoc 6 0x5008) 8 = 2 ∧ t.numAt (peerLoc 5 0x4008) 2 = 0 ∧ t.ports.get {} 161 = {} ∧
     (let u := nx (exec (.preparedLockTimeout 161 gid0) { s with peerTable := [5, 6] })
      u.ports.get {} 161 = { entries := [ent0], prepared := [(gid0, 3000000, (5, 6, 0x5000))] } ∧ u.mem = s.mem) ∧
     (let u := nx (exec (.preparedLockTimeout 161 gid0) { s with mem := [] })
      u.ports.get {} 161 = {} ∧ u.mem = [])) := by decide +kernel

/-- A recorded fault of a window of four: raising it at one register consumes it on all that still hold it, and no other record (R87). -/
theorem witness_RegisterChecks_window :
    (let c := (sA.me).recordFault [2, 3, 4, 5] ⟨.pois, 9⟩
     let d := c.setRegAt 4 { fault := some ⟨.fab, 7⟩, pres := .empty, window := [4] }
     let t := nx (exec (.add { d := 9, a := 3, b := 1 }) (st d))
     t.me.tcause = Cause.pois.code.setWidth 64 ∧ t.me.tval = 9 ∧
     t.me.regAt 2 = {} ∧ t.me.regAt 3 = {} ∧ t.me.regAt 5 = {} ∧ t.me.regAt 4 = d.regAt 4) := by decide +kernel

/-- ELOOP on g0 reads zero after the write, and falls through (R205). -/
theorem witness_EngineProgram_zero : (let t := nx (exec (.engineProgramStep 0) (sCode [0x02, 0xF8, 0x02, 0xF0, 0x00, 0x28]))
    (t.me.prog.map (·.pc)) = some 0x10006 ∧ t.me.regs = sE.me.regs) := by decide +kernel

/-- A fenced core: its copy with an empty mask is complete at once, another waits in its slot; its STG waits for the station; its
reduction does not leave; a completed copy is not told (R58). -/
theorem test_fenced :
    (let fence (s : State) : State := s.updCore 0 (fun k => { k with fenced := true })
     (nx (exec (.cpy { c := 6, a := 4, b := 2 }) (fence (sX 4 [])))).me.pc = 0x10000 ∧
     (nx (exec (.cpy { c := 6, a := 4, b := 2 }) (sX 4 []))).me.pc = 0x10002 ∧
     (nx (exec (.copyComplete 0 3) (fence (sJ { cs0 with perf := true })))).me.copies = [(3, { cs0 with perf := true })] ∧
     ({ fence (sR1 [(1, { rd0 with sent := false })]) with rounds := [] } : State).nextRed 6 9 = none ∧
     (nx (exec (.reductionAnswer 0 1) (fence (sR1 [(1, { rd0 with ans := some (0, 0, [1]) })])))).mem = (sR1 []).mem) := by decide +kernel

/-- The slices of a die along its top and bottom rows, the links to them and out of a cluster, and what is in transit through it (R17, R252, R256). -/
theorem test_ways : (sliceRouter 0, sliceRouter 15, sliceRouter 16, sliceRouter 31) = (0, 15, 240, 255) ∧
    wayToSlice 0 0 = [6] ∧ (wayToSlice 0 1).length = 2 ∧ (wayFromSlice 16 0).length = (dieWay 0 240 0).length ∧ sliceWay 4 4 = [] ∧
    linkLeaves 0 6 = true ∧ linkLeaves 1 6 = false ∧ (wayToSlice 0 3).any (linkLeaves 0) = true := by decide +kernel

/-- Requests of one core to its cluster unit, and its cancellations, are taken in the order sent (R257). -/
theorem test_inOrder :
    (let s (b : Body) : State := { sM1 b (.sent 4) with net := [{ id := 3, g := 1, fire := 0, lid := 1, pid := 1, body := b }, { id := 4, g := 0, fire := 0, lid := 1, pid := 1, body := b }] }
     let p := s (.phaser 1 5 0)
     (nx (exec (.phaserRequest 4) p)).net.length = 2 ∧ (nx (exec (.phaserRequest 3) p)).net.length = 1 ∧
     (nx (exec (.phaserRequest 4) (nx (exec (.phaserRequest 3) p)))).net = []) ∧
    (let q (id h : Nat) (x : SpReq) : Msg := { spM { x with handle := BitVec.ofNat 64 h } with id := id }
     let s (h : Nat) : State := { sRq (rq .del .dir false) [] [] hom with net := [{ q 3 1 (rq .del .dir false) with g := 1 }, q 4 h (rq .del .dir false)] }
     stepOf (nx (exec (.directoryResolve 4) (s 1))) = some (.dir, 0) ∧ stepOf (nx (exec (.directoryResolve 4) (s 2))) ≠ some (.dir, 0)) := by decide +kernel

/-- A result does not enter its ring entry under an earlier store that is still queued (R327); a ring in a resident bank is refused (log 62). -/
theorem test_ring :
    (let q := { q0 with edge := [(h5, [1, 2])] }
     (sFd { c0 with queries := [(0, q)], storeq := [{ lid := 1, off := 0x4008, bytes := [9] }] } []).ringFree 0 q = false) ∧
    (let s : State := { sFd cF [] with cores := [(0, { kf 1 [] with bfmt := Vector.ofFn (fun (i : Fin 16) => if i.val = 0 then 0x80000000 else 0x0E) })] }
     (nx (exec (.sqbox { c := 8, a := 12, b := 2 }) s)).me.tcause = Cause.perm.code.setWidth 64) := by decide +kernel

/-- An OF store to a peer does not wait for an earlier STG (R408); STG checks the bounds before the space (R398). -/
theorem test_stg_order :
    (let m : Msg := { pM .store none none with id := 5, path := none, body := .acc { kind := .store, space := 2, pieces := [pc2], weight := 1, ord := true, todo := [(5, [pc2])] } }
     (nx (exec (.ofStoreRelease 5) { sPe m with net := [{ gpM (.prepare 0) with stage := .peer 5 none 0x4008, body := .stg stg0 }, m] })).net.map (·.path) = [none, some 0]) ∧
    (let s := st (((c0).nums [(5, BitVec.ofNat 128 gid0), (7, 1)]).cap 2 { lc 0x7FFFC with lim := 0x7FFF8 })
     (nx (exec (.stg .d { a := 7, b := 2, c := 5 }) s)).me.tcause = Cause.bound.code.setWidth 64) := by decide +kernel

/-- A recorded failure of the fabric is reported before a FIN stops its queries; that FIN does not execute (R378). -/
theorem test_fin_fab :
    (let s := sFd { c0 with queries := [(0, q0)], fabricRef := some ⟨.fab, 9⟩ } []
     let t := nx (exec .fin s)
     t.me.tcause = 0x100 ||| Cause.fab.code.setWidth 64 ∧ t.me.queries = [(0, q0)] ∧ t.net = [] ∧
     (nx (exec .fin (sFd { c0 with queries := [(0, q0)] } []))).net.length = 2) := by decide +kernel

end Units

end Sys2Proof.Tests
end

section
/-! PROOFS. Words: a field of a register after it has been replaced, and the lengths of rows of bytes (R4, R360, R367). -/

namespace Sys2Proof

/-- A field that has been replaced reads as the new value, cut to its width. -/
theorem fld_setFld {w : Nat} (x : BitVec w) {hi lo : Nat} (v : Nat) (hlo : lo ≤ hi) (hw : hi < w) :
    fld (setFld x hi lo v) hi lo = v % 2 ^ (hi + 1 - lo) := by
  obtain ⟨n, hn⟩ : ∃ n, hi + 1 - lo = n := ⟨_, rfl⟩
  obtain ⟨k, hk⟩ : ∃ k, w = lo + (n + k) := ⟨w - (hi + 1), by omega⟩
  have hsplit : x.toNat - x.toNat / 2 ^ lo % 2 ^ n * 2 ^ lo + v % 2 ^ n * 2 ^ lo =
      x.toNat % 2 ^ lo + 2 ^ lo * (v % 2 ^ n + 2 ^ n * (x.toNat / 2 ^ lo / 2 ^ n)) := by
    have h1 := Nat.div_add_mod x.toNat (2 ^ lo)
    have h2 := congrArg (2 ^ lo * ·) (Nat.div_add_mod (x.toNat / 2 ^ lo) (2 ^ n))
    simp only [Nat.mul_add] at h2 ⊢
    rw [Nat.mul_comm _ (2 ^ lo), Nat.mul_comm _ (2 ^ lo)]
    omega
  have hlow : x.toNat % 2 ^ lo / 2 ^ lo = 0 := Nat.div_eq_of_lt (Nat.mod_lt _ (Nat.two_pow_pos lo))
  calc fld (setFld x hi lo v) hi lo
      = (x.toNat % 2 ^ lo + 2 ^ lo * (v % 2 ^ n + 2 ^ n * (x.toNat / 2 ^ lo / 2 ^ n))) % 2 ^ w / 2 ^ lo % 2 ^ n := by
        simp only [fld, setFld, BitVec.toNat_ofNat, hn, hsplit]
    _ = (v % 2 ^ n + 2 ^ n * (x.toNat / 2 ^ lo / 2 ^ n)) % 2 ^ (n + k) % 2 ^ n := by
        rw [congrArg (2 ^ ·) hk, Nat.pow_add 2 lo, Nat.mod_mul_right_div_self, Nat.add_mul_div_left _ _ (Nat.two_pow_pos lo), hlow, Nat.zero_add]
    _ = v % 2 ^ n := by
        rw [Nat.mod_mod_of_dvd _ (Nat.pow_dvd_pow 2 (Nat.le_add_right n k)), Nat.add_mul_mod_self_left, Nat.mod_mod]
    _ = v % 2 ^ (hi + 1 - lo) := by rw [hn]

/-- Setting bit 0 leaves the fields above it alone. -/
theorem fld_or_one (x : Word) {hi lo : Nat} (h : 0 < lo) : fld (x ||| 1) hi lo = fld x hi lo := by
  have h1 : 1 / 2 ^ lo = 0 := Nat.div_eq_of_lt (Nat.one_lt_two_pow (by omega))
  have h2 : (x ||| 1).toNat = x.toNat ||| 1 := by simp
  simp only [fld, h2, Nat.or_div_two_pow, h1, Nat.or_zero]

/-- The same for a field that has just been replaced. -/
theorem fld_setFld_or_one (x : Word) {hi lo : Nat} (v : Nat) (h : 0 < lo) (hlo : lo ≤ hi) (hw : hi < 64) :
    fld (setFld x hi lo v ||| 1) hi lo = v % 2 ^ (hi + 1 - lo) := (fld_or_one _ h).trans (fld_setFld x v hlo hw)

theorem bitAt_or_one (x : Word) : bitAt (x ||| 1) 0 = true := by simp [bitAt]

@[simp] theorem leBytes_length (n v : Nat) : (leBytes n v).length = n := by
  induction n generalizing v with
  | zero => rfl
  | succ n ih => simp [leBytes, ih]

namespace Machine

@[simp] theorem fitBytes_length (n : Nat) (bs : List Byte) : (fitBytes n bs).length = n := by
  simp only [fitBytes, List.length_append, List.length_take, List.length_replicate]; omega

/-- A row of the right length fits as it is. -/
theorem fitBytes_self (bs : List Byte) : fitBytes bs.length bs = bs := by simp [fitBytes]

theorem mem_insertNat (k : Nat) (l : List Nat) : k ∈ insertNat k l := by
  induction l with
  | nil => simp [insertNat]
  | cons x l ih =>
    simp only [insertNat]
    split
    · simp
    · split
      · next h => simp [h]
      · simp [ih]

end Machine
end Sys2Proof
end

section
/-! PROOFS. Losses: ending launches changes no cluster's failure mark and no reset request, so a lost cluster is failed and asks for its
reset (R348, R365). -/

namespace Sys2Proof.Machine

/-! ## What leaves the cluster units alone -/

/-- Folding a function that leaves the cluster units alone leaves them alone. -/
theorem foldl_clusters {α : Type} (f : State → α → State) (hf : ∀ t x, (f t x).clusters = t.clusters) (l : List α) (s : State) :
    (l.foldl f s).clusters = s.clusters :=
  List.foldlRecOn (motive := fun t => t.clusters = s.clusters) l f rfl fun t ht x _ => (hf t x).trans ht

theorem cluAt_congr {s t : State} (h : t.clusters = s.clusters) (cl : Nat) : t.cluAt cl = s.cluAt cl := by simp only [State.cluAt, h]

@[simp] theorem updQueue_clusters (s : State) (q : Nat) (f : Queue → Queue) : (s.updQueue q f).clusters = s.clusters := rfl
@[simp] theorem updLaunch_clusters (s : State) (l : Word) (f : Launch → Launch) : (s.updLaunch l f).clusters = s.clusters := rfl
@[simp] theorem updHome_clusters (s : State) (k : Nat) (f : Home → Home) : (s.updHome k f).clusters = s.clusters := rfl
@[simp] theorem updGroup_clusters (s : State) (i : Nat) (f : Group → Group) : (s.updGroup i f).clusters = s.clusters := rfl
@[simp] theorem dropText_clusters (s : State) (l : Word) : (s.dropText l).clusters = s.clusters := rfl
@[simp] theorem sendAs_clusters (s : State) (g fire : Nat) (b : Body) (st : Stage) : (s.sendAs g fire b st).clusters = s.clusters := rfl
@[simp] theorem groupLeave_clusters (s : State) (i : Nat) : (s.groupLeave i).clusters = s.clusters := rfl
@[simp] theorem groupDecide_clusters (s : State) (i n r : Nat) : (s.groupDecide i n r).clusters = s.clusters := rfl
@[simp] theorem pruneDir_clusters (s : State) (p n : Nat) : (s.pruneDir p n).clusters = s.clusters := rfl

@[simp] theorem irq_clusters (s : State) (q : Nat) : (s.irq q).clusters = s.clusters := by unfold State.irq; split <;> rfl
@[simp] theorem bump_clusters (s : State) (a off n : Nat) : (s.bump a off n).clusters = s.clusters := by unfold State.bump; split <;> rfl
@[simp] theorem dropLinks_clusters (s : State) (x : Option Stream) : (s.dropLinks x).clusters = s.clusters := by cases x <;> rfl
@[simp] theorem edgeWrite_clusters (s : State) (c off : Nat) (bs : List Byte) : (s.edgeWrite c off bs).clusters = s.clusters := by
  unfold State.edgeWrite; split <;> rfl

@[simp] theorem pruneDirs_clusters (s : State) : s.pruneDirs.clusters = s.clusters := by
  unfold State.pruneDirs
  exact foldl_clusters _ (fun _ _ => pruneDir_clusters ..) _ _

@[simp] theorem reclaim_clusters (s : State) (f : FSlot) (c off : Nat) (p : PoolSlot) : (s.reclaim f c off p).clusters = s.clusters := by
  unfold State.reclaim
  split
  · simp [State.freeSlotAt]
  · rfl

@[simp] theorem reclaimField_clusters (s : State) (p n : Nat) : (s.reclaimField p n).clusters = s.clusters :=
  foldl_clusters _ (fun _ _ => foldl_clusters _ (fun _ _ => foldl_clusters _ (fun _ _ => reclaim_clusters ..) _ _) _ _) _ _

@[simp] theorem tell_clusters (s : State) (i : Nat) (op : Nat → GroupOp) : (s.tell i op).clusters = s.clusters := by
  unfold State.tell
  exact foldl_clusters _ (fun _ _ => sendAs_clusters ..) _ _

@[simp] theorem groupStart_clusters (s : State) (i : Nat) : (s.groupStart i).clusters = s.clusters := by
  simp only [State.groupStart, apply_ite State.clusters, groupDecide_clusters, tell_clusters, updGroup_clusters, ite_self]

@[simp] theorem groupFinish_clusters (s : State) (i : Nat) : (s.groupFinish i).clusters = s.clusters := by
  simp only [State.groupFinish, apply_ite State.clusters, groupLeave_clusters, updGroup_clusters, ite_self]

@[simp] theorem groupPoke_clusters (s : State) (i : Nat) : (s.groupPoke i).clusters = s.clusters := by
  unfold State.groupPoke
  simp only
  split <;> simp only [apply_ite State.clusters, groupStart_clusters, groupFinish_clusters, groupDecide_clusters, ite_self]

@[simp] theorem abortGroupsOf_clusters (s : State) (g fire : Nat) : (s.abortGroupsOf g fire).clusters = s.clusters := by
  refine foldl_clusters _ (fun t e => ?_) _ _
  simp only
  split
  · split <;> simp
  · rfl

@[simp] theorem miss_clusters (s : State) (l : Launch) : (s.miss l).clusters = s.clusters := by
  unfold State.miss
  split
  · rfl
  · simp [foldl_clusters _ (fun (t : State) (a : Nat) => bump_clusters t a 64 1)]

@[simp] theorem finish_clusters (s : State) (l : Word) (st : Nat) : (s.finish l st).clusters = s.clusters := by
  unfold State.finish
  split
  · simp
  · rfl

/-! ## What keeps the marks of lost clusters -/

/-- No cluster's failure mark and no reset request differ (R365). -/
structure SameLoss (s t : State) : Prop where
  failed : ∀ cl, (t.cluAt cl).failed = (s.cluAt cl).failed
  resetReq : ∀ cl, (t.cluAt cl).resetReq = (s.cluAt cl).resetReq

theorem SameLoss.of_clusters {s t : State} (h : t.clusters = s.clusters) : SameLoss s t :=
  ⟨fun cl => by rw [cluAt_congr h], fun cl => by rw [cluAt_congr h]⟩

theorem SameLoss.trans {s t u : State} (h : SameLoss s t) (k : SameLoss t u) : SameLoss s u :=
  ⟨fun cl => (k.failed cl).trans (h.failed cl), fun cl => (k.resetReq cl).trans (h.resetReq cl)⟩

theorem SameLoss.foldl {α : Type} (f : State → α → State) (hf : ∀ t x, SameLoss t (f t x)) (l : List α) (s : State) : SameLoss s (l.foldl f s) :=
  List.foldlRecOn (motive := SameLoss s) l f (.of_clusters rfl) fun t ht x _ => ht.trans (hf t x)

/-- A change of a cluster unit that keeps one of its fields keeps that field of every unit. -/
theorem field_updClu {β : Type} (p : Cluster → β) (s : State) (c : Nat) (f : Cluster → Cluster) (hf : ∀ u, p (f u) = p u) (cl : Nat) :
    p ((s.updClu c f).cluAt cl) = p (s.cluAt cl) := by
  by_cases h : cl = c
  · rw [h, cluAt_updClu_self, hf]
  · rw [cluAt_updClu_ne _ _ _ _ h]

/-- What a saved launch held goes, with its phasers: no mark of a cluster changes. -/
theorem dropSaved_sameLoss (s : State) (l : Launch) : SameLoss s (s.dropSaved l) := by
  unfold State.dropSaved
  refine .trans (.foldl _ (fun t c => ?_) _ _) (.of_clusters (dropText_clusters _ l.lid))
  refine .trans (.of_clusters ?_) ⟨field_updClu Cluster.failed _ c.cl _ fun _ => rfl, field_updClu Cluster.resetReq _ c.cl _ fun _ => rfl⟩
  refine foldl_clusters _ (fun t e => ?_) _ _
  rw [abortGroupsOf_clusters, foldl_clusters _ (fun t q => by simp), dropLinks_clusters]

theorem stopLaunch_sameLoss (s : State) (lid : Word) (st : Nat) : SameLoss s (s.stopLaunch lid st) := by
  unfold State.stopLaunch
  split
  · next l _ =>
    split
    · exact .of_clusters (finish_clusters ..)
    · exact (dropSaved_sameLoss s l).trans (.of_clusters ((pruneDirs_clusters _).trans (finish_clusters ..)))
    all_goals exact .of_clusters rfl
  · exact .of_clusters rfl

theorem spread_sameLoss (s : State) (l : Launch) : SameLoss s (s.spread l) := SameLoss.foldl _ (fun _ _ => stopLaunch_sameLoss ..) _ _

theorem launchFault_sameLoss (s : State) (lid : Word) (st cause kind cid : Nat) : SameLoss s (s.launchFault lid st cause kind cid) := by
  unfold State.launchFault
  split
  · split
    · exact .of_clusters rfl
    · exact ((stopLaunch_sameLoss ..).trans (.of_clusters (updLaunch_clusters ..))).trans (spread_sameLoss ..)
  · exact .of_clusters rfl

/-- A lost cluster is failed and asks for its reset, whatever the ends of its launches do. -/
theorem cluAt_loseCluster (s : State) (cl : Nat) : ((s.loseCluster cl).cluAt cl).failed = true ∧ ((s.loseCluster cl).cluAt cl).resetReq = true := by
  have h := SameLoss.foldl (fun t (l : Launch) => t.launchFault l.lid 3 0 0 0) (fun _ _ => launchFault_sameLoss ..)
    (s.launches.filter (fun l => l.holds && l.clusters.contains cl))
    ((s.loseSaved cl false).updClu cl (fun u => { u with failed := true, resetReq := true }))
  exact ⟨(h.failed cl).trans (by simp), (h.resetReq cl).trans (by simp)⟩

/-! ## With no launch there is nothing to end -/

theorem loseSaved_idle (s : State) (cl : Nat) (every : Bool) (h : s.launches = []) : s.loseSaved cl every = s := by simp [State.loseSaved, h]

theorem loseCluster_idle (s : State) (cl : Nat) (h : s.launches = []) :
    s.loseCluster cl = s.updClu cl (fun u => { u with failed := true, resetReq := true }) := by
  simp [State.loseCluster, loseSaved_idle s cl false h, h]

end Sys2Proof.Machine
end

section
/-! PROOFS. Plug: the package reset and the boot, attestation, partitions and the firewall (R333, R355 to R362). -/

namespace Sys2Proof.Machine

/-! ## Boot -/

section
variable {floor : Nat} {f : FlashImage}

/-- The first check that an image set fails, in the order of R357. -/
theorem bootFails_plug (h : f.plug.accepted 1 floor = false) : bootFails floor f = some (1, 1) := by simp [bootFails, h]

theorem bootFails_images (h : f.plug.accepted 1 floor = true)
    (hi : f.feather.accepted 2 (max floor f.plug.svn) = false ∨ f.loader.accepted 3 (max floor f.plug.svn) = false) :
    bootFails floor f = some (3, 1) := by
  rcases hi with hi | hi <;> simp [bootFails, h, hi]

variable (h : f.plug.accepted 1 floor = true) (hf : f.feather.accepted 2 (max floor f.plug.svn) = true)
  (hl : f.loader.accepted 3 (max floor f.plug.svn) = true)
include h hf hl

theorem bootFails_training (ht : f.trained = false) : bootFails floor f = some (4, 1) := by simp [bootFails, h, hf, hl, ht]

theorem bootFails_root (ht : f.trained = true) (hr : rootOk f = false) : bootFails floor f = some (5, 1) := by
  simp [bootFails, h, hf, hl, ht, hr]

theorem bootFails_none (ht : f.trained = true) (hr : rootOk f = true) (hw : f.windows.all windowShape = true) : bootFails floor f = none := by
  simp only [bootFails, h, hf, hl, ht, hr, hw]; rfl

end

/-- The same change of several cluster units leaves the rest of the state as it is. -/
theorem foldl_updClu (f : Cluster → Cluster) (l : List Nat) (s : State) :
    ∃ c, l.foldl (fun (t : State) cl => t.updClu cl f) s = { s with clusters := c } :=
  List.foldlRecOn (motive := fun t : State => ∃ c, t = { s with clusters := c }) l _ ⟨s.clusters, rfl⟩
    fun t ht cl _ => by obtain ⟨c, rfl⟩ := ht; exact ⟨_, rfl⟩

/-- A boot brings no launch, no firing and nothing in flight, and does not lower the rollback floor. -/
theorem boot_frame (s : State) (f : FlashImage) : (s.boot f).launches = s.launches ∧ (s.boot f).ctxs = s.ctxs ∧ (s.boot f).net = s.net ∧
    s.plug.floor ≤ (s.boot f).plug.floor := by
  obtain ⟨c, hc⟩ := foldl_updClu (fun u => { u with spareUsed := true }) f.spared s
  simp only [State.boot, hc]
  split
  · exact ⟨rfl, rfl, rfl, Nat.le_refl _⟩
  · exact ⟨rfl, rfl, rfl, Nat.le_max_left ..⟩
  · exact ⟨rfl, rfl, rfl, Nat.le_max_left ..⟩

/-- A boot that fails a check stops at its step, with the command cores as they were, and the management port is told the cause. -/
theorem boot_stops (s : State) (f : FlashImage) {n c : Nat} (h : bootFails s.plug.floor f = some (n, c)) :
    (s.boot f).plug.step = n ∧ (s.boot f).plug.feather = s.plug.feather ∧ ∃ c, Report.boot n c ∈ (s.boot f).plug.told := by
  obtain ⟨k, hk⟩ := foldl_updClu (fun u => { u with spareUsed := true }) f.spared s
  simp only [State.boot, hk]
  split
  · next hb =>
    obtain ⟨rfl, rfl⟩ : 1 = n ∧ _ = c := by simpa [h] using hb.symm
    exact ⟨rfl, rfl, _, List.mem_append_right _ (List.mem_singleton_self _)⟩
  · next hb =>
    obtain ⟨rfl, rfl⟩ : _ = n ∧ _ = c := by simpa [h] using hb.symm
    exact ⟨rfl, rfl, _, List.mem_append_right _ (List.mem_singleton_self _)⟩
  · next hb => simp [h] at hb

/-- A boot that passes every check releases the command processor. -/
theorem boot_runs (s : State) (f : FlashImage) (h : bootFails s.plug.floor f = none) :
    (s.boot f).plug.step = 6 ∧ (s.boot f).plug.feather = true ∧ (s.boot f).plug.floor = max s.plug.floor f.plug.svn ∧ (s.boot f).pkgNo = f.pkg ∧
      (s.boot f).plug.root = f.root := by
  obtain ⟨k, hk⟩ := foldl_updClu (fun u => { u with spareUsed := true }) f.spared s
  simp only [State.boot, hk, h]
  exact ⟨rfl, rfl, rfl, rfl, rfl⟩

theorem packageReset_boots (s : State) (f : FlashImage) : exec (.packageReset f) s = .next (s.resetPackage.boot f) := rfl

/-! ## Attestation -/

theorem reportHead_length (s : State) (nonce : List Byte) : (s.reportHead nonce).length = 256 := by simp [State.reportHead]

/-- The nonce stands at byte 8 of a report. -/
theorem reportHead_nonce (s : State) (nonce rest : List Byte) (h : nonce.length = 32) :
    ((s.reportHead nonce ++ rest).drop 8).take 32 = nonce := by
  have hn : fitBytes 32 nonce = nonce := h ▸ fitBytes_self nonce
  simp only [State.reportHead, hn, List.append_assoc]
  rw [← List.append_assoc, List.drop_left' (by simp), List.take_left' h]

theorem attestationRequest_reports (s : State) (nonce : List Byte) (h : s.plug.step = 6) :
    ∃ t r, exec (.attestationRequest nonce) s = .next t ∧ t = { s with plug := { s.plug with reports := s.plug.reports ++ [r] } } ∧
      r.length = 2676 ∧ (nonce.length = 32 → (r.drop 8).take 32 = nonce) := by
  refine ⟨_, s.reportHead nonce ++ fitBytes 2420 (Config.sign s.plug.key (s.reportHead nonce)), ?_, rfl, ?_, fun hn => reportHead_nonce s nonce _ hn⟩
  · show execAttestationRequest nonce s = _
    simp [execAttestationRequest, h]
  · simp [reportHead_length]

/-! ## Partitions -/

/-- Plug answers a request that need not wait: it is done, or it changes nothing else (R333). -/
theorem partitionRequest_answers (s : State) (mgmt : Bool) (req : PartReq) (hs : s.plug.step = 6) (hf : s.plug.feather = true)
    (hl : s.partLocked req = false) :
    let t := (s.partition req).getD s
    exec (.partitionRequest mgmt req) s = .next { t with plug := { t.plug with answers := t.plug.answers ++ [(s.partition req).isSome] } } := by
  show execPartitionRequest mgmt req s = _
  simp [execPartitionRequest, hs, hf, hl]

/-- Plug removes a partition that has no launch left, with what names it (log 37). -/
theorem partition_remove (s : State) (part : Nat) (hp : (s.plug.parts.find part).isSome = true)
    (hl : s.launches.all (fun l => l.part != part) = true) :
    ∃ t, s.partition (.remove part) = some t ∧ t.plug.parts = s.plug.parts.drop part ∧ t.partOf = s.partOf.filter (fun e => e.2 != part) := by
  have hc : ¬((s.plug.parts.find part).isNone = true ∨ s.launches.any (fun l => l.part == part) = true) := by
    obtain ⟨p, hp⟩ := Option.isSome_iff_exists.1 hp
    simpa [hp] using hl
  exact ⟨_, if_neg hc, rfl, rfl⟩

/-! ## The firewall -/

/-- The first refusal of an address to an agent is latched with the count 1 (R362). -/
theorem firewallRefusal_latches (s : State) (agent n part : Nat) (a : Word) (wr : Bool) (h : s.firewallAdmits agent a.toNat n part wr = false)
    (hn : s.plug.latched.any (fun e => e.1 == agent && e.2.1 == a) = false) :
    exec (.firewallRefusal agent a n part wr) s = .next { s with plug := { s.plug with latched := s.plug.latched ++ [(agent, a, 1)] } } := by
  show execFirewallRefusal agent a n part wr s = _
  simp only [execFirewallRefusal, h, State.latch, hn]
  rfl

end Sys2Proof.Machine
end

section
/-! PROOFS. Spares: watchdogs, liveness and spares (R16, R364 to R368). -/

namespace Sys2Proof.Machine

/-! ## Watchdogs and liveness -/

theorem featherWatchdogExpiry_late (s : State) (hf : s.plug.feather = true) (h : s.plug.fed + s.plug.options.get 100 5 * 1200000 < s.cyc.toNat) :
    exec .featherWatchdogExpiry s = .next { s with plug := { s.plug with feather := false } } :=
  congrArg Host.Outcome.next (if_pos ⟨hf, h⟩)

theorem featherWatchdogExpiry_early (s : State) (h : s.cyc.toNat ≤ s.plug.fed + s.plug.options.get 100 5 * 1200000) :
    exec .featherWatchdogExpiry s = .next s :=
  congrArg Host.Outcome.next (if_neg fun hc => Nat.not_lt.2 h hc.2)

theorem featherRestartComplete_down (s : State) (hs : s.plug.step = 6) (hf : s.plug.feather = false) :
    exec .featherRestartComplete s = .next { s with plug := { s.plug with feather := true, fed := s.cyc.toNat } } :=
  congrArg Host.Outcome.next (if_pos ⟨hs, by simp [hf]⟩)

theorem featherRestartComplete_up (s : State) (hf : s.plug.feather = true) : exec .featherRestartComplete s = .next s :=
  congrArg Host.Outcome.next (if_neg fun hc => by simp [hf] at hc)

theorem livenessBeat_inTime (s : State) (cl : Nat) (h : s.cyc.toNat ≤ (s.cluAt cl).beat + 96000) :
    exec (.livenessBeat cl) s = .next (s.updClu cl (fun u => { u with beat := s.cyc.toNat })) :=
  congrArg Host.Outcome.next (if_neg (Nat.not_lt.2 h))

theorem livenessBeat_tooLate (s : State) (cl : Nat) (h : (s.cluAt cl).beat + 96000 < s.cyc.toNat) : exec (.livenessBeat cl) s = .next s :=
  congrArg Host.Outcome.next (if_pos h)

theorem clusterFailed_loses (s : State) (cl : Nat) (hf : (s.cluAt cl).failed = false) (hr : (s.cluAt cl).retired = false)
    (hb : (s.cluAt cl).beat + 96000 < s.cyc.toNat) : exec (.clusterFailed cl false) s = .next (s.loseCluster cl) := by
  show execClusterFailed cl false s = _
  simp [execClusterFailed, hf, hr, hb]

/-! ## Cores and clusters -/

theorem coreSpare_first (s : State) (cid : Nat) (h : (s.cluAt (cid / 16)).spareUsed = false) :
    exec (.coreSpare cid) s = .next (s.updClu (cid / 16) (fun u => { u with spareUsed := true })) := by
  show execCoreSpare cid s = _
  simp [execCoreSpare, h]

/-- The retirement of a cluster that no partition and no launch has: it is lost and retired, and HEALTH counts it (R368). -/
theorem clusterRetire_idle (s : State) (cl : Nat) (hu : (s.cluAt cl).spareUsed = true) (hr : (s.cluAt cl).retired = false)
    (hp : s.plug.parts = []) (hl : s.launches = []) :
    ∃ t, exec (.clusterRetire cl) s = .next t ∧ t.clusters = ((s.loseCluster cl).updClu cl (fun u => { u with retired := true })).clusters ∧
      t.plug.health = setFld s.plug.health 15 8 (fld s.plug.health 15 8 + 1) ||| 1 ∧ t.mem = s.mem := by
  refine ⟨{ ((s.loseCluster cl).updClu cl (fun u => { u with retired := true })) with
    plug := { s.plug with health := setFld s.plug.health 15 8 (fld s.plug.health 15 8 + 1) ||| 1 } }, ?_, rfl, rfl, ?_⟩
  · show execClusterRetire cl s = _
    have hs := loseSaved_idle (s.updClu cl (fun u => { u with failed := true, resetReq := true })) cl true hl
    simp [execClusterRetire, hu, hr, hp, loseCluster_idle s cl hl, hs]
  · simp [loseCluster_idle s cl hl]

/-! ## Links, DRAM rows and cache ways -/

theorem linkReplay_replay (s : State) (link : Nat) : exec (.linkReplay link false) s = .next s := rfl

/-- A die-to-die link takes one of its two spare lanes. -/
theorem linkReplay_spares (s : State) (link : Nat) (hl : 32 ≤ link) (h : s.plug.lanes.get 0 link < 2) :
    exec (.linkReplay link true) s = .next { s with plug := { s.plug with lanes := s.plug.lanes.put link (s.plug.lanes.get 0 link + 1) } } := by
  show execLinkReplay link true s = _
  simp [execLinkReplay, hl, h]

/-- A lost lane of a fabric port, or of a link without a spare, sets REPL. -/
theorem linkReplay_needs (s : State) (link : Nat) (h : link < 32 ∨ 2 ≤ s.plug.lanes.get 0 link) :
    ∃ t, exec (.linkReplay link true) s = .next t ∧ bitAt t.plug.health 0 = true := by
  by_cases hl : 32 ≤ link
  · have h2 : ¬ s.plug.lanes.get 0 link < 2 := Nat.not_lt.2 (h.resolve_left (Nat.not_lt.2 hl))
    refine ⟨_, (if_pos hl : execLinkReplay link true s = _), ?_⟩
    simp only [if_neg h2]
    exact bitAt_or_one _
  · exact ⟨_, (if_neg hl : execLinkReplay link true s = _), bitAt_or_one _⟩

/-- The second lost lane of a fabric port disables it, and PDIS counts it. -/
theorem linkReplay_disables (s : State) (link : Nat) (hl : link < 32) (h : s.plug.lanes.get 0 link = 1) :
    ∃ t, exec (.linkReplay link true) s = .next t ∧ fld t.plug.health 23 16 = (fld s.plug.health 23 16 + 1) % 256 := by
  refine ⟨_, (if_neg (Nat.not_le.2 hl) : execLinkReplay link true s = _), ?_⟩
  simp only [h, if_true]
  exact fld_setFld_or_one _ _ (by decide) (by decide) (by decide)

/-- Marking pages in Plug and reporting add the report and leave memory alone. -/
theorem markPage_frame (s : State) (l : List Nat) (h : Word) (r : Report) :
    let t := ({ s with plug := { s.plug with failedPages := l, health := h } } : State).tell_ r
    t.plug.told = s.plug.told ++ [r] ∧ t.mem = s.mem := ⟨rfl, rfl⟩

/-- A page whose bank has used its row spares is marked, counted and reported (R367). -/
theorem dramPageFail_marks (s : State) (page : Nat) (hr : 64 ≤ s.plug.rows.get 0 (Config.dramBank page)) (hp : page ∉ s.plug.failedPages) :
    ∃ t, exec (.dramPageFail page) s = .next t ∧ bitAt t.plug.health 0 = true ∧ page ∈ t.plug.failedPages ∧
      fld t.plug.health 31 24 = min 255 t.plug.failedPages.length ∧ t.plug.told = s.plug.told ++ [.page page] ∧ t.mem = s.mem := by
  have hc : ¬(s.plug.rows.get 0 (Config.dramBank page) < 64 ∨ s.plug.failedPages.contains page = true) := by
    simpa [hp] using hr
  have hn : fld (setFld s.plug.health 31 24 (min 255 (insertNat page s.plug.failedPages).length) ||| 1) 31 24 =
      min 255 (insertNat page s.plug.failedPages).length :=
    (fld_setFld_or_one _ _ (by decide) (by decide) (by decide)).trans (Nat.mod_eq_of_lt (by omega))
  exact ⟨_, if_neg hc, bitAt_or_one _, mem_insertNat _ _, hn, markPage_frame s _ _ _⟩

theorem dramPageFail_spared (s : State) (page : Nat) (h : s.plug.rows.get 0 (Config.dramBank page) < 64) :
    exec (.dramPageFail page) s = .next s := (if_pos (.inl h) : execDramPageFail page s = _)

theorem sliceCacheWayFail_spares (s : State) (slice : Nat) (h : s.plug.ways.get 0 slice < 4) :
    exec (.sliceCacheWayFail slice) s = .next { s with plug := { s.plug with ways := s.plug.ways.put slice (s.plug.ways.get 0 slice + 1) } } := by
  show execSliceCacheWayFail slice s = _
  simp [execSliceCacheWayFail, h]

theorem sliceCacheWayFail_needs (s : State) (slice : Nat) (h : 4 ≤ s.plug.ways.get 0 slice) :
    ∃ t, exec (.sliceCacheWayFail slice) s = .next t ∧ bitAt t.plug.health 0 = true := by
  refine ⟨_, (rfl : execSliceCacheWayFail slice s = _), ?_⟩
  simp only [if_neg (Nat.not_lt.2 h)]
  exact bitAt_or_one _

/-! ## The obligation -/

/-- Settles O50: Plug's events rule by rule, then the watchdogs, liveness and spares. -/
theorem trustAndSpares : Obligations.TrustAndSpares := by
  unfold Obligations.TrustAndSpares
  refine ⟨⟨fun s f => ?boot, fun s => ⟨_, rfl, rfl, rfl, rfl⟩, attestationRequest_reports, fun s mgmt req hs hf hl => ?parts,
    firewallRefusal_latches⟩, fun s => ⟨featherWatchdogExpiry_late s, featherWatchdogExpiry_early s, featherRestartComplete_down s,
    featherRestartComplete_up s, fun cl => ⟨livenessBeat_inTime s cl, livenessBeat_tooLate s cl⟩, fun cl hf hr hb => ?failed, coreSpare_first s,
    fun cl hu hr hp hl => ?retired, fun link => ⟨linkReplay_replay s link, linkReplay_spares s link, linkReplay_needs s link,
      linkReplay_disables s link⟩, dramPageFail_marks s, dramPageFail_spared s,
    fun slice => ⟨sliceCacheWayFail_spares s slice, sliceCacheWayFail_needs s slice⟩⟩⟩
  case boot =>
    obtain ⟨hl, hc, hn, hfl⟩ := boot_frame s.resetPackage f
    refine ⟨_, packageReset_boots s f, hl, hc, hn, hfl, fun h => ?_, fun h hi => ?_, fun h hf hl => ⟨fun ht => ?_, fun ht hr => ?_, fun ht hr hw => ?_⟩⟩
    · exact boot_stops s.resetPackage f (bootFails_plug h)
    · exact boot_stops s.resetPackage f (bootFails_images h hi)
    · exact boot_stops s.resetPackage f (bootFails_training h hf hl ht)
    · exact boot_stops s.resetPackage f (bootFails_root h hf hl ht hr)
    · exact boot_runs s.resetPackage f (bootFails_none h hf hl ht hr hw)
  case parts =>
    have ha := partitionRequest_answers s mgmt req hs hf hl
    refine ⟨fun hn => ?_, fun t ht => ?_, fun part hreq hp hlaunch => ?_⟩
    · simpa only [hn, Option.getD_none, Option.isSome_none] using ha
    · exact ⟨_, ha, by simp [ht]⟩
    · subst hreq
      obtain ⟨t, ht, hparts, hof⟩ := partition_remove s part hp hlaunch
      exact ⟨_, ha, by simp [ht, hparts, Tab.find_drop_self], by simp [ht, hof]⟩
  case failed =>
    obtain ⟨h1, h2⟩ := cluAt_loseCluster s cl
    exact ⟨_, clusterFailed_loses s cl hf hr hb, h1, h2, fun h => by simp [loseCluster_idle s cl h]⟩
  case retired =>
    obtain ⟨t, ht, hclusters, hhealth, hmem⟩ := clusterRetire_idle s cl hu hr hp hl
    refine ⟨t, ht, ?_, hhealth ▸ bitAt_or_one _, ?_, hmem⟩
    · rw [cluAt_congr hclusters, cluAt_updClu_self]
    · exact hhealth ▸ fld_setFld_or_one _ _ (by decide) (by decide) (by decide)

end Sys2Proof.Machine
end
